-- ==== Sys2Proof/Word.lean ====
section
/-! DEFINITION. The word types of the Tanprel 4716 and the names of its numbered things. -/

namespace Sys2Proof

/-- One byte of host memory, of a ring entry or of the record store. -/
abbrev Byte := BitVec 8

/-- One lane of a record: an unsigned 32-bit number (R1). -/
abbrev Lane := BitVec 32

/-- A 64-bit host address (R182). -/
abbrev HostAddr := BitVec 64

/-- A set of lanes as the part reports it: bit `i` is lane `i` (R190). -/
abbrev LaneSet := BitVec 8

/-- A 24-bit serial (R140, R150). -/
abbrev Serial := BitVec 24

/-- A record: eight lanes, L0 to L7 (R1). -/
abbrev Record := Vector Lane 8

/-- The 128 bytes of a work entry or an admin entry as they were read from host memory (R19, R191). -/
abbrev Entry := Vector Byte 128

/-- The first 32 bytes of an entry image, as a fault carries them (R188). -/
abbrev ImageHead := Vector Byte 32

/-- A work ring or a result ring: the value `r` is ring number `r + 1` (rings are numbered 1 to 15). -/
abbrev RingId := Fin 15

/-- An update context, 0 to 15 (R58). -/
abbrev CtxId := Fin 16

/-- A cache slot, 0 to 63 (R81). -/
abbrev SlotId := Fin 64

/-- A region descriptor, 0 to 15 (R3). -/
abbrev RegionId := Fin 16

/-- A probe slot, 0 to 3 (R165). -/
abbrev ProbeId := Fin 4

/-- A lane number, 0 to 7 (R1). -/
abbrev LaneId := Fin 8

/-- A 64-bit protection word read from the store: the bits in error, one flag for each of the 64 data bits
(bits 63 to 0) and the 8 check bits (bits 71 to 64) (R106). -/
abbrev WordErrors := BitVec 72

end Sys2Proof
end

