-- ==== Sys2Proof/Config.lean ====
section
/-! DEFINITION. What the part fixes (its capacities and its time limits), and the values the data sheet leaves open.
An open value is an `opaque` constant: nothing about it can be proved, so every claim holds whatever it is. -/

namespace Sys2Proof

/-- How one protection word reads: without error, corrected (with the data to use), or uncorrectable (R106). -/
inductive EccRead where
  | clean (data : BitVec 64)
  | corrected (data : BitVec 64)
  | uncorrectable
  deriving DecidableEq, Repr, Inhabited

/-- A bit of a slot image upset while it is held in the cache: the slot, the lane and the bit. -/
structure ImageUpset where
  slot : SlotId
  lane : LaneId
  bit : Fin 32
  deriving DecidableEq, Repr, Inhabited

namespace Config

/-- The host-read timeout of 50 ms, in microseconds (R182). -/
def hostReadTimeout : Nat := 50000

/-- Microseconds in a millisecond: the cleaner's age limit and the stall limit are given in milliseconds. -/
def microsPerMilli : Nat := 1000

/-- The poison list holds at most 64 entries (R114). -/
def poisonCapacity : Nat := 64

/-- A prefetch buffer holds up to eight entries (R119). -/
def prefetchCapacity : Nat := 8

/-- The age limit after a power-on reset and from the request of a function reset, in milliseconds (R99). -/
def defaultAgeLimit : Nat := 100

/-- The stall limit that a 0 in CREATE_RESULT_RING selects, in milliseconds (R137). -/
def defaultStallLimit : Nat := 50

/-- A pending notice's repeat count stops at 255 (R160). -/
def repeatLimit : Nat := 255

/-- The content of a DRAM byte that the part has not written since the power-on reset numbered by the first
argument: arbitrary (R2, R16). FREE VALUE. -/
opaque powerOnByte : Nat → Nat → Byte

/-- The check bits of a protection word that the part has not written since the power-on reset numbered by the
first argument: arbitrary (R106). FREE VALUE. -/
opaque powerOnCheck : Nat → Nat → BitVec 8

/-- The eight check bits the part computes from 64 data bits: the data sheet does not give the code (R106).
FREE VALUE. -/
opaque eccCheck : BitVec 64 → BitVec 8

/-- How the code decodes the 72 bits it reads where the data sheet leaves the outcome open: more than two bits in
error, or a word not written since power-on (R106). FREE VALUE. -/
opaque eccDecode : BitVec 72 → EccRead

/-- The bit of a slot image, if any, that is upset in the microsecond that begins at the given time: the data
sheet says that parity guards the images and not when they fail (R113). FREE VALUE. -/
opaque imageUpset : Nat → Option ImageUpset

/-- How many records the region-fill job writes in the microsecond that begins at the given time: the data sheet gives
the job no speed (R109). FREE VALUE. -/
opaque fillPace : Nat → Nat

end Config
end Sys2Proof
end

