-- ==== Sys2Proof/Syntax.lean ====
section
/-! DEFINITION. The commands and events of the Tanprel 4716: one constructor per row of spec/opcode_table.json.

Three kinds of operand recur. A `value` is what the host writes to a register. A `xfer` is the link's number of one
host read or host write the part has issued: the link reports the end of that transfer (R182). An `entry` or a list
of entries is what a completed host read brings. -/

namespace Sys2Proof

/-- The width of a register access: one aligned 32-bit access, or one aligned 64-bit access (R183). -/
inductive AccessWidth where
  | word32
  | word64
  deriving DecidableEq, Repr

/-- The steps of the part, one constructor per row of the table of operations and events. -/
inductive Instr where
  /-- POWER_ON_RESET, with the levels of STRAP_SZ1 and STRAP_SZ0 as they are sampled (R117, R186). -/
  | powerOnReset (strapSz1 strapSz0 : Bool)
  /-- POWER_ON_READY: the strap is read and the DRAM interface is ready (R186). -/
  | powerOnReady
  /-- LINK_RESET: PERST# or a reset of the link (R185). -/
  | linkReset
  /-- RESET: a write of DEV_CONTROL with RESET 1 and the given ENABLE and ADMIN_MSG_EN bits (R184, R185). -/
  | reset (enable msgEn : Bool)
  /-- RESET_END: both reports of R185 stand. -/
  | resetEnd
  /-- ENABLE: a write of DEV_CONTROL with ENABLE 1, RESET 0 and the given ADMIN_MSG_EN bit (R151, R184). -/
  | enable (msgEn : Bool)
  /-- ADMIN_MSG_EN: a write of DEV_CONTROL with ENABLE 0, RESET 0 and the given ADMIN_MSG_EN bit (R184). -/
  | adminMsgEn (msgEn : Bool)
  /-- REGISTER_WRITE: a write to a register without a row of its own (R183, R184). -/
  | registerWrite (offset : Nat) (width : AccessWidth) (value : BitVec 64)
  /-- POST: a write to POST[n], n from 1 to 15 (R122). -/
  | post (ring : RingId) (value : BitVec 32)
  /-- ADMIN_POST: a write to POST[0] (R152). -/
  | adminPost (value : BitVec 32)
  /-- RELEASE: a write to RELEASE[n], n from 1 to 15 (R143). -/
  | release (ring : RingId) (value : BitVec 32)
  /-- ADMIN_RELEASE: a write to RELEASE[0] (R159). -/
  | adminRelease (value : BitVec 32)
  /-- PENDING_NOTICE_POST: pending notices are posted while the credit allows (R160). -/
  | pendingNoticePost
  /-- FETCH_READ_ISSUE: a work ring issues a host read of entries (R124). -/
  | fetchReadIssue (ring : RingId)
  /-- FETCH_READ_COMPLETE: the fetch read numbered `xfer` completes with these entries (R124). -/
  | fetchReadComplete (xfer : Nat) (entries : List Entry)
  /-- FETCH_READ_FAILURE: the fetch read numbered `xfer` fails or runs out (R125). -/
  | fetchReadFailure (xfer : Nat)
  /-- UPDATE: the take arbiter takes a unit that is a single UPDATE (R21). -/
  | update
  /-- FETCH: the take arbiter takes a unit that is a single FETCH (R22). -/
  | fetch
  /-- STORE: the take arbiter takes a unit that is a single STORE (R23). -/
  | store
  /-- FENCE: the take arbiter takes a unit that is a single FENCE (R24). -/
  | fence
  /-- NOP: the take arbiter takes a unit that is a single NOP (R25). -/
  | nop
  /-- BUNDLE: the take arbiter takes a unit of two to four entries (R31 to R36). -/
  | bundle
  /-- UNKNOWN_OPCODE: the take arbiter takes a single entry whose opcode is none of the five (R29). -/
  | unknownOpcode
  /-- SLOT_GRANT: the head slot request is granted (R62, R91). -/
  | slotGrant
  /-- STORE_READ_COMPLETE: the STORE read numbered `xfer` completes with these 32 bytes (R67). -/
  | storeReadComplete (xfer : Nat) (data : Vector Byte 32)
  /-- STORE_READ_FAILURE: the STORE read numbered `xfer` fails or runs out (R68). -/
  | storeReadFailure (xfer : Nat)
  /-- FILL_COMPLETE: the fill of a slot ends without error or corrected; `errors` are the bits in error of the four
  words read (R96, R105, R106). -/
  | fillComplete (slot : SlotId) (errors : Vector WordErrors 4)
  /-- FILL_UNCORRECTABLE: the fill of a slot ends uncorrectable; `errors` as in FILL_COMPLETE (R107). -/
  | fillUncorrectable (slot : SlotId) (errors : Vector WordErrors 4)
  /-- UPDATE_COMMIT: a READY single UPDATE commits (R69). -/
  | updateCommit (ctx : CtxId)
  /-- FETCH_COMMIT: a READY FETCH commits (R70). -/
  | fetchCommit (ctx : CtxId)
  /-- STORE_COMMIT: a READY STORE commits (R70). -/
  | storeCommit (ctx : CtxId)
  /-- BUNDLE_COMMIT: a READY bundle commits (R71). -/
  | bundleCommit (ctx : CtxId)
  /-- HOST_BUFFER_WRITE_COMPLETE: a member's host buffer write completes (R74). -/
  | hostBufferWriteComplete (xfer : Nat)
  /-- HOST_BUFFER_WRITE_FAILURE: a member's host buffer write fails (R74). -/
  | hostBufferWriteFailure (xfer : Nat)
  /-- RESULT_WRITE_FAILURE: the write of a result entry fails (R141). -/
  | resultWriteFailure (xfer : Nat)
  /-- STATUS_WRITE_COMPLETE: a status block write completes (R130). -/
  | statusWriteComplete (xfer : Nat)
  /-- STATUS_WRITE_FAILURE: a status block write fails (R142, R161). -/
  | statusWriteFailure (xfer : Nat)
  /-- COALESCING_EXPIRY: a result ring's coalescing time elapses (R144). -/
  | coalescingExpiry (ring : RingId)
  /-- STALL_EXPIRY: a result ring's stall limit elapses (R146). -/
  | stallExpiry (ring : RingId)
  /-- CLEANER_EXPIRY: a slot has been dirty for the age limit (R98). -/
  | cleanerExpiry (slot : SlotId)
  /-- WRITE_BACK_COMPLETE: the write-back job of a slot completes (R95, R108). -/
  | writeBackComplete (slot : SlotId)
  /-- REGION_FILL_COMPLETE: the region-fill job has written its last record (R109). -/
  | regionFillComplete
  /-- REGION_FILL_STOPPED: under a reset the region fill ends after record `current`, the one in progress (R110). -/
  | regionFillStopped (current : Nat)
  /-- ADMIN_READ_ISSUE: the read of the next admin entry is issued (R153). -/
  | adminReadIssue
  /-- ADMIN_READ_FAILURE: the admin read numbered `xfer` fails or runs out (R162). -/
  | adminReadFailure (xfer : Nat)
  /-- INVALID_COMMAND: the admin read numbered `xfer` completes with an entry of unknown opcode (R154). -/
  | invalidCommand (xfer : Nat) (entry : Entry)
  /-- IDENTIFY: the admin read numbered `xfer` completes with this IDENTIFY entry, and so for the rows below (R157). -/
  | identify (xfer : Nat) (entry : Entry)
  /-- CREATE_RESULT_RING (R137, R155). -/
  | createResultRing (xfer : Nat) (entry : Entry)
  /-- CREATE_WORK_RING (R121, R155). -/
  | createWorkRing (xfer : Nat) (entry : Entry)
  /-- DELETE_WORK_RING (R133, R134, R155). -/
  | deleteWorkRing (xfer : Nat) (entry : Entry)
  /-- DELETE_RESULT_RING (R147, R155). -/
  | deleteResultRing (xfer : Nat) (entry : Entry)
  /-- PAUSE_RING (R131, R155). -/
  | pauseRing (xfer : Nat) (entry : Entry)
  /-- RESUME_RING (R131, R155). -/
  | resumeRing (xfer : Nat) (entry : Entry)
  /-- DEFINE_REGION (R8 to R10). -/
  | defineRegion (xfer : Nat) (entry : Entry)
  /-- RETIRE_REGION (R11, R12). -/
  | retireRegion (xfer : Nat) (entry : Entry)
  /-- FLUSH_REGION (R100, R156). -/
  | flushRegion (xfer : Nat) (entry : Entry)
  /-- ARM_PROBE (R166). -/
  | armProbe (xfer : Nat) (entry : Entry)
  /-- DISARM_PROBE (R170). -/
  | disarmProbe (xfer : Nat) (entry : Entry)
  /-- READ_FAULT_LOG (R179). -/
  | readFaultLog (xfer : Nat) (entry : Entry)
  /-- RELEASE_FAULT_LOG (R180). -/
  | releaseFaultLog (xfer : Nat) (entry : Entry)
  /-- SET_FAULT_POLICY (R178). -/
  | setFaultPolicy (xfer : Nat) (entry : Entry)
  /-- LIST_POISON (R116). -/
  | listPoison (xfer : Nat) (entry : Entry)
  /-- SET_CLEANER (R99, R156). -/
  | setCleaner (xfer : Nat) (entry : Entry)
  /-- ADMIN_BUFFER_WRITE_COMPLETE: the host buffer write of an admin command completes (R157). -/
  | adminBufferWriteComplete (xfer : Nat)
  /-- ADMIN_BUFFER_WRITE_FAILURE: the host buffer write of an admin command fails (R157). -/
  | adminBufferWriteFailure (xfer : Nat)
  /-- ADMIN_RESULT_WRITE_FAILURE: the write of an admin result entry fails (R161). -/
  | adminResultWriteFailure (xfer : Nat)
  deriving DecidableEq, Repr

end Sys2Proof
end

