-- ==== Sys2Proof/Machine/State.lean ====
section
/-! DEFINITION. The state of the Tanprel 4716: plain data, grouped by the block that owns it, and the state after
power-on reset. A field that the data sheet calls absent is an Option, or stands under the constructor that has it. -/

namespace Sys2Proof.Machine

/-! ## The link interface -/

/-- What a host read or a host write of the part is for: the block that issued it and waits for its report (R182). -/
inductive TransferKind where
  /-- a work ring's fetch read (R124) -/
  | fetchRead (ring : RingId)
  /-- the host read of the STORE a context holds (R60) -/
  | storeRead (ctx : CtxId)
  /-- the read of an admin entry (R153) -/
  | adminRead
  /-- a result entry: its result ring, its slot and its serial (R139) -/
  | result (ring : RingId) (slot : Nat) (serial : Serial)
  /-- a status block entry and the index written: entry 0 is the admin ring's (R130, R158) -/
  | status (entry : Fin 16) (index : Nat)
  /-- an admin result or notice entry: its slot and its serial (R158) -/
  | adminResult (slot : Nat) (serial : Serial)
  /-- the host buffer write of a context's member, counted from 0 (R73) -/
  | buffer (ctx : CtxId) (member : Nat)
  /-- the host buffer write of the running admin command (R157) -/
  | adminBuffer
  /-- an interrupt message of a result ring, or of the admin result ring: not reported (R145, R158) -/
  | message (ring : Option RingId)
  deriving DecidableEq, Repr

/-- A host read or host write issued to the link, until its report. `body` holds the bytes of a write. `heeded` is
false once the block that issued it no longer waits: its end is then discarded (R78, R135, R149, R164). -/
structure Transfer where
  xfer : Nat
  kind : TransferKind
  addr : HostAddr
  length : Nat
  body : List Byte
  issued : Nat
  heeded : Bool
  deriving DecidableEq, Repr

/-- The link interface: the transfers issued and not yet reported ended, in the order of issue, and the number of
the next one (R182). -/
structure Link where
  transfers : List Transfer
  next : Nat
  deriving DecidableEq, Repr

/-! ## The register window -/

/-- The writable registers of R183, and the DEV_STATUS bit ADMIN_HALTED. READY and RESETTING are read from
`State.resetPhase`, FAILED and FAULT_HELD from the fault unit, POST and RELEASE from the rings. -/
structure Registers where
  enable : Bool
  adminMsgEn : Bool
  adminWorkBase : HostAddr
  adminResultBase : HostAddr
  adminSizes : BitVec 32
  statusBlockBase : HostAddr
  adminMsgAddr : HostAddr
  adminMsgData : BitVec 32
  adminHalted : Bool
  deriving DecidableEq, Repr

/-- Whether a reset is under way (R185, R186): READY shows `operating`, RESETTING shows the other two. -/
inductive ResetPhase where
  | operating
  | functionReset
  | powerOn
  deriving DecidableEq, Repr

/-! ## The region table -/

/-- The life state of a region (R7). -/
inductive RegionPhase where
  | undefined
  | filling
  | active
  | draining
  deriving DecidableEq, Repr

/-- A region descriptor (R3). -/
structure Region where
  phase : RegionPhase
  base : Nat
  count : Nat
  keyA : Option LaneId
  keyB : Option LaneId
  versionLane : Option LaneId
  autoVersion : Bool
  deriving DecidableEq, Repr

/-- An UNDEFINED descriptor with its fields cleared (R3). -/
def Region.cleared : Region :=
  { phase := .undefined, base := 0, count := 0, keyA := none, keyB := none, versionLane := none,
    autoVersion := false }

/-! ## Work results -/

/-- The status of a work result (R140), in the order of its codes (R190). -/
inductive Status where
  | success
  | malformed
  | regionInactive
  | outOfRange
  | poisoned
  | mediaError
  | hostFault
  | bundleConflict
  | bundleAbandoned
  deriving DecidableEq, Repr

/-- The verdict of a work result (R42), in the order of its codes (R190). -/
inductive Verdict where
  | notTested
  | pass
  | matchFail
  | magnitudeFail
  deriving DecidableEq, Repr

/-- What an entry's result reports besides its name (R140). -/
structure MemberOutcome where
  status : Status
  verdict : Verdict
  committed : Bool
  elseApplied : Bool
  floor : Bool
  ceiling : Bool
  withheld : Bool
  imageReturned : Bool
  versionWord : Lane
  written : LaneSet
  deriving DecidableEq, Repr

/-! ## Update contexts -/

/-- The state of a context that is not FREE (R59). -/
inductive ContextPhase where
  | allocating
  | claiming
  | ready
  | hostWrite
  deriving DecidableEq, Repr

/-- A member record of a context (R58). `destination` is present for a redirect to a different record. -/
structure Member where
  ringSlot : Nat
  entry : Entry
  source : Nat
  destination : Option Nat
  outcome : Option MemberOutcome
  image : Option Record
  deriving DecidableEq, Repr

/-- A record item of a context's record list (R58). -/
structure RecordItem where
  record : Nat
  region : RegionId
  slot : Option SlotId
  deriving DecidableEq, Repr

/-- An update context that is not FREE (R58). -/
structure Context where
  phase : ContextPhase
  ring : RingId
  members : List Member
  records : List RecordItem
  storeData : Option Record
  storeRead : Bool
  hostWrites : Nat
  deriving DecidableEq, Repr

/-! ## The record cache -/

/-- A slot image: eight lanes, and a parity bit for each (R113). -/
structure Image where
  lanes : Record
  parity : BitVec 8
  deriving DecidableEq, Repr

/-- What a RESIDENT slot holds besides its record (R81). -/
structure Resident where
  image : Image
  dirty : LaneSet
  dirtySince : Option Nat
  writeBack : Bool
  deriving DecidableEq, Repr

/-- The state of a slot that is not FREE (R82): only a RESIDENT slot has an image, a dirty-lane set or a
write-back in flight. -/
inductive SlotPhase where
  | filling
  | awaitingStore
  | resident (content : Resident)
  deriving DecidableEq, Repr

/-- A slot that is not FREE (R81). The claim queue's first context is its head. -/
structure Slot where
  phase : SlotPhase
  record : Nat
  region : RegionId
  claims : List CtxId
  deriving DecidableEq, Repr

/-- The record cache (R81, R84, R88, R98): `none` is a FREE slot; `recency` lists the RESIDENT slots from the least
recently claimed; `requests` is the slot allocator's queue, one context per request, head first. -/
structure Cache where
  slots : Vector (Option Slot) 64
  recency : List SlotId
  requests : List CtxId
  ageLimit : Nat
  deriving DecidableEq, Repr

/-! ## The store controller -/

/-- The record store as (byte address, byte) pairs, addresses strictly rising. An address that is not listed has
not been written since power-on, and holds no value that the data sheet gives. -/
abbrev Memory := List Host.Cell

/-- A job of the store controller (R104). -/
inductive Job where
  | fill (slot : SlotId) (record : Nat)
  | writeBack (slot : SlotId) (record : Nat) (lanes : Record) (set : LaneSet)
  | regionFill (first last : Nat) (pattern : Record) (next : Nat)
  deriving DecidableEq, Repr

/-- The store controller (R104, R105, R114, R117). `size` is S; `dram` holds the data bytes of the record store and
`check` the check bits of each protection word (word `w` of record `n` at `4 n + w`), as they were last written;
`errors` holds, under the same numbers, the bits of each word that stand in error in DRAM since then, a word that is
not listed having none; `powerOns` counts power-on resets and serves to name the arbitrary content of each. -/
structure Store where
  size : Nat
  dram : Memory
  check : Memory
  errors : List (Nat × WordErrors)
  poison : List Nat
  jobs : List Job
  powerOns : Nat
  deriving DecidableEq, Repr

/-! ## Work rings and result rings -/

/-- How a DELETING work ring is ended (R133, R134). -/
inductive DeleteMode where
  | drain
  | discard
  deriving DecidableEq, Repr

/-- The state of a work ring that is not ABSENT (R120). -/
inductive RingPhase where
  | active
  | paused
  | halted
  | deleting (mode : DeleteMode)
  deriving DecidableEq, Repr

/-- A fetch read in flight: its first slot and its entry count (R119). -/
structure FetchRead where
  first : Nat
  count : Nat
  deriving DecidableEq, Repr

/-- A work ring that is not ABSENT (R119). -/
structure WorkRing where
  phase : RingPhase
  base : HostAddr
  size : Nat
  boundTo : RingId
  weight : Nat
  inFlightLimit : Nat
  post : Nat
  fetch : Nat
  take : Nat
  retire : Nat
  prefetch : List Entry
  fetchRead : Option FetchRead
  fetchStale : Bool
  fetchHeld : Bool
  outstanding : List Nat
  credit : Nat
  deriving DecidableEq, Repr

/-- The stall state of a result ring (R146). -/
inductive Stall where
  | idle
  | timing (start : Nat)
  | expired
  deriving DecidableEq, Repr

/-- A result ring that is not ABSENT (R136). Coalescing time in microseconds, stall limit in milliseconds. -/
structure ResultRing where
  base : HostAddr
  size : Nat
  produce : Nat
  release : Nat
  reserved : Nat
  serial : Serial
  msgAddr : HostAddr
  msgData : BitVec 32
  msgEnabled : Bool
  coalesceCount : Nat
  coalesceTime : Nat
  stallLimit : Nat
  unsignalled : Nat
  firstUnsignalled : Option Nat
  stall : Stall
  deriving DecidableEq, Repr

/-- The writes of one status block entry (R130): none, or one in flight with the index of a further pending write. -/
inductive StatusWrite where
  | idle
  | inFlight (pending : Option Nat)
  deriving DecidableEq, Repr

/-- The ring controller: `none` is an ABSENT ring. `status` holds the status writes of the sixteen status block
entries, entry 0 the admin ring's; they outlive a ring that the entry into FAILED ends (R135). -/
structure Rings where
  work : Vector (Option WorkRing) 15
  results : Vector (Option ResultRing) 15
  lastServed : RingId
  status : Vector StatusWrite 16
  deriving DecidableEq, Repr

/-! ## The admin controller -/

/-- The admin state (R150). -/
inductive AdminPhase where
  | disabled
  | opened
  | halted
  deriving DecidableEq, Repr

/-- A slot that a FLUSH_REGION waits for; `again` when a further write-back follows the running one (R100). -/
structure Awaited where
  slot : SlotId
  again : Bool
  deriving DecidableEq, Repr

/-- What the running command waits for (R150). -/
inductive Progress where
  /-- nothing: the command is being carried out at its take -/
  | taken
  /-- the end of its region fill (R10) -/
  | regionFill (region : RegionId)
  /-- the contexts that name its DRAINING region, with the number of probes disarmed (R12) -/
  | retireWait (region : RegionId) (probes : Nat)
  /-- the release of its region's slots, with the number of probes disarmed (R12, R101) -/
  | retireRelease (region : RegionId) (probes : Nat)
  /-- the awaited set of a flush (R100) -/
  | flush (awaited : List Awaited)
  /-- its ring to become ABSENT (R133, R134) -/
  | deleteRing (ring : RingId)
  /-- its host buffer write, with its result value (R157) -/
  | hostBuffer (value : BitVec 32)
  deriving DecidableEq, Repr

/-- The command of the admin controller (R150). -/
inductive Command where
  | none
  | reading
  | running (entry : Entry) (progress : Progress)
  deriving DecidableEq, Repr

/-- The configuration and indexes of the admin rings, present while they are configured (R150). -/
structure AdminRings where
  workBase : HostAddr
  workSize : Nat
  resultBase : HostAddr
  resultSize : Nat
  statusBase : HostAddr
  post : Nat
  consumer : Nat
  command : Command
  produce : Nat
  release : Nat
  reserved : Nat
  serial : Serial
  deriving DecidableEq, Repr

/-- A notice's kind and source (R160). -/
inductive Notice where
  | probeHit (probe : ProbeId)
  | faultCaptured
  | ringHalted (ring : RingId)
  | resultStall (ring : RingId)
  deriving DecidableEq, Repr

/-- A record of the pending notice list (R160). -/
structure PendingNotice where
  notice : Notice
  repeats : Nat
  deriving DecidableEq, Repr

/-- The admin controller (R150). `rings` is absent in DISABLED and in HALTED without a configuration (R151). -/
structure Admin where
  phase : AdminPhase
  rings : Option AdminRings
  notices : List PendingNotice
  deriving DecidableEq, Repr

/-! ## Probes -/

/-- A probe's capture record (R165). -/
structure Capture where
  ring : RingId
  ringSlot : Nat
  tag : BitVec 16
  recordIndex : Nat
  versionWord : Lane
  deriving DecidableEq, Repr

/-- A probe slot (R165): region, range and capture are present as its state has them. -/
inductive Probe where
  | disarmed
  | armed (region : RegionId) (first last : Nat)
  | hit (region : RegionId) (first last : Nat) (capture : Capture)
  deriving DecidableEq, Repr

/-! ## The fault unit -/

/-- The thirteen fault classes, in the order of their codes (R172, R191). -/
inductive FaultClass where
  | entryMalformed
  | regionInactive
  | indexRange
  | poisonHit
  | mediaCorrected
  | mediaUncorrectable
  | poisonListFull
  | hostRead
  | hostBufferWrite
  | hostProtocol
  | resultStall
  | hostRingWrite
  | internalCheck
  deriving DecidableEq, Repr

/-- A fault's severity, in the order of its codes (R172, R191). -/
inductive Severity where
  | advisory
  | ringFatal
  | deviceFatal
  deriving DecidableEq, Repr

/-- A fault class's policy (R172). -/
structure Policy where
  masked : Bool
  severity : Severity
  deriving DecidableEq, Repr

/-- The source of a fault (R173). -/
inductive FaultSource where
  | none
  | workRing (ring : RingId)
  | resultRing (ring : RingId)
  | adminRing
  | store
  deriving DecidableEq, Repr

/-- A raised fault (R173): its class, its source and the details its raising rule supplies. -/
structure RaisedFault where
  cls : FaultClass
  source : FaultSource
  slotIndex : Option Nat := Option.none
  tag : Option (BitVec 16) := Option.none
  region : Option RegionId := Option.none
  record : Option Nat := Option.none
  image : Option ImageHead := Option.none
  code : Option (BitVec 8) := Option.none
  value : Option (BitVec 32) := Option.none
  deriving DecidableEq, Repr

/-- The fault unit (R172, R174, R176): the policies, the seen-class set (bit `i` is class `i`), the fault log, and
whether the device is FAILED. -/
structure FaultUnit where
  policies : Vector Policy 13
  seen : BitVec 13
  capture : Option RaisedFault
  later : Bool
  failed : Bool
  deriving DecidableEq, Repr

/-! ## The whole part -/

/-- The state of the part. `now` is the time in microseconds; `pending` is the queue of commands and events that
wait to be taken, first in, first out (the model's own field). -/
structure State where
  link : Link
  regs : Registers
  resetPhase : ResetPhase
  regions : Vector Region 16
  contexts : Vector (Option Context) 16
  cache : Cache
  store : Store
  rings : Rings
  admin : Admin
  probes : Vector Probe 4
  faults : FaultUnit
  now : Nat
  pending : List Instr
  deriving DecidableEq, Repr

/-- Why the model stops. -/
inductive Fault where
  /-- Raised by the end of a store controller job that names a record at or above S: the part addresses nothing
  there (R117). No such job arises from a region that passed R8. Safe: the model stops and claims nothing. -/
  | outsideStore
  deriving DecidableEq, Repr

/-- Why a command has no meaning. -/
inductive Refusal where
  /-- Raised by an arm of `exec` whose command has no meaning yet. Safe: the model stops and claims nothing. -/
  | notModelled (mnemonic : String)
  deriving DecidableEq, Repr

/-! ## The state after power-on reset -/

/-- The register window at its reset values (R183), with ADMIN_HALTED clear (R185, R186). -/
def Registers.reset : Registers :=
  { enable := false, adminMsgEn := false, adminWorkBase := 0, adminResultBase := 0, adminSizes := 0,
    statusBlockBase := 0, adminMsgAddr := 0, adminMsgData := 0, adminHalted := false }

/-- The ring controller with every ring ABSENT and ring 15 last served (R127, R135, R149). -/
def Rings.reset : Rings :=
  { work := Vector.replicate 15 none, results := Vector.replicate 15 none, lastServed := 14,
    status := Vector.replicate 16 .idle }

/-- The admin controller DISABLED, with no notice pending (R150). -/
def Admin.reset : Admin :=
  { phase := .disabled, rings := none, notices := [] }

/-- The default policies, in the order of the class codes (R172). -/
def defaultPolicies : Vector Policy 13 :=
  #v[⟨false, .advisory⟩, ⟨true, .advisory⟩, ⟨false, .advisory⟩, ⟨true, .advisory⟩, ⟨true, .advisory⟩,
    ⟨false, .advisory⟩, ⟨false, .ringFatal⟩, ⟨false, .ringFatal⟩, ⟨false, .ringFatal⟩, ⟨false, .ringFatal⟩,
    ⟨true, .advisory⟩, ⟨false, .deviceFatal⟩, ⟨false, .deviceFatal⟩]

/-- The fault unit after a power-on reset (R181). -/
def FaultUnit.reset : FaultUnit :=
  { policies := defaultPolicies, seen := 0, capture := none, later := false, failed := false }

/-- The record cache with every slot FREE and the default age limit (R103). -/
def Cache.reset : Cache :=
  { slots := Vector.replicate 64 none, recency := [], requests := [], ageLimit := Config.defaultAgeLimit }

/-- The machine right after power-on reset, READY (R186), with both strap pins low: a store of 1 GiB (R117). -/
def State.reset : State :=
  { link := { transfers := [], next := 0 }
    regs := Registers.reset
    resetPhase := .operating
    regions := Vector.replicate 16 Region.cleared
    contexts := Vector.replicate 16 none
    cache := Cache.reset
    store := { size := 33554432, dram := [], check := [], errors := [], poison := [], jobs := [], powerOns := 0 }
    rings := Rings.reset
    admin := Admin.reset
    probes := Vector.replicate 4 .disarmed
    faults := FaultUnit.reset
    now := 0
    pending := [] }

/-! ## Field updates -/

def State.setTransfers (s : State) (x : List Transfer) : State := { s with link := { s.link with transfers := x } }
def State.setRegs (s : State) (x : Registers) : State := { s with regs := x }
def State.setResetPhase (s : State) (x : ResetPhase) : State := { s with resetPhase := x }
def State.setRegion (s : State) (r : RegionId) (x : Region) : State := { s with regions := s.regions.set r x }
def State.setContext (s : State) (c : CtxId) (x : Option Context) : State :=
  { s with contexts := s.contexts.set c x }
def State.setCache (s : State) (x : Cache) : State := { s with cache := x }
def State.setSlot (s : State) (k : SlotId) (x : Option Slot) : State :=
  { s with cache := { s.cache with slots := s.cache.slots.set k x } }
def State.setRecency (s : State) (x : List SlotId) : State := { s with cache := { s.cache with recency := x } }
def State.setRequests (s : State) (x : List CtxId) : State := { s with cache := { s.cache with requests := x } }
def State.setAgeLimit (s : State) (x : Nat) : State := { s with cache := { s.cache with ageLimit := x } }
def State.setStore (s : State) (x : Store) : State := { s with store := x }
def State.setPoison (s : State) (x : List Nat) : State := { s with store := { s.store with poison := x } }
def State.setJobs (s : State) (x : List Job) : State := { s with store := { s.store with jobs := x } }
def State.setRings (s : State) (x : Rings) : State := { s with rings := x }
def State.setWork (s : State) (r : RingId) (x : Option WorkRing) : State :=
  { s with rings := { s.rings with work := s.rings.work.set r x } }
def State.setResult (s : State) (r : RingId) (x : Option ResultRing) : State :=
  { s with rings := { s.rings with results := s.rings.results.set r x } }
def State.setLastServed (s : State) (r : RingId) : State := { s with rings := { s.rings with lastServed := r } }
def State.setStatus (s : State) (e : Fin 16) (x : StatusWrite) : State :=
  { s with rings := { s.rings with status := s.rings.status.set e x } }
def State.setAdmin (s : State) (x : Admin) : State := { s with admin := x }
def State.setAdminPhase (s : State) (x : AdminPhase) : State := { s with admin := { s.admin with phase := x } }
def State.setAdminRings (s : State) (x : Option AdminRings) : State := { s with admin := { s.admin with rings := x } }
def State.setNotices (s : State) (x : List PendingNotice) : State := { s with admin := { s.admin with notices := x } }
def State.setProbe (s : State) (p : ProbeId) (x : Probe) : State := { s with probes := s.probes.set p x }
def State.setProbes (s : State) (x : Vector Probe 4) : State := { s with probes := x }
def State.setFaults (s : State) (x : FaultUnit) : State := { s with faults := x }

end Sys2Proof.Machine
end

