-- ==== Sys2Proof/Machine/Operands.lean ====
section
/-! DEFINITION. Byte order, and the fields and codes of the entries the part reads: the work entry (R188, R189) and
the admin entry (R191). -/

namespace Sys2Proof.Machine

/-! ## Byte order (R187) -/

/-- The number that bytes spell with the least significant byte first. -/
def leNat : List Byte → Nat
  | [] => 0
  | b :: rest => b.toNat + 256 * leNat rest

/-- The `n` bytes of a number, least significant byte first. -/
def leBytes : Nat → Nat → List Byte
  | 0, _ => []
  | n + 1, v => BitVec.ofNat 8 v :: leBytes n (v / 256)

/-- `n` bytes from a list, from byte `off` on; bytes past its end read as 0. -/
def bytesAt (bytes : List Byte) (off n : Nat) : List Byte :=
  (List.range n).map fun i => bytes.getD (off + i) 0

/-- The little-endian field of `n` bytes at byte `off` of an entry. -/
def entryField (e : Entry) (off n : Nat) : Nat :=
  leNat (bytesAt e.toList off n)

/-- The 32-bit field at byte `off` of an entry. -/
def entryWord (e : Entry) (off : Nat) : BitVec 32 :=
  BitVec.ofNat 32 (entryField e off 4)

/-- The 64-bit field at byte `off` of an entry. -/
def entryAddr (e : Entry) (off : Nat) : HostAddr :=
  BitVec.ofNat 64 (entryField e off 8)

/-- The 32 bytes of a record, L0 first (R187). -/
def recordBytes (r : Record) : List Byte :=
  r.toList.flatMap fun lane => leBytes 4 lane.toNat

/-- The record that 32 bytes hold from byte `off` on, L0 first (R187). -/
def recordAt (bytes : List Byte) (off : Nat) : Record :=
  Vector.ofFn fun i : LaneId => BitVec.ofNat 32 (leNat (bytesAt bytes (off + 4 * i.val) 4))

/-- The first 32 bytes of an entry image (R188). -/
def imageHead (e : Entry) : ImageHead :=
  Vector.ofFn fun i : Fin 32 => e.toList.getD i.val 0

/-! ## Codes of the work entry (R189) -/

/-- The opcode of a work entry. -/
inductive Opcode where
  | update
  | fetch
  | store
  | fence
  | nop
  deriving DecidableEq, Repr

/-- The match function of a work entry. -/
inductive MatchFunction where
  | always
  | never
  | equal
  | notEqual
  deriving DecidableEq, Repr

/-- The magnitude function of a work entry. -/
inductive MagnitudeFunction where
  | always
  | never
  | eq
  | ne
  | lt
  | le
  | gt
  | ge
  deriving DecidableEq, Repr

/-- A lane operation. -/
inductive LaneOp where
  | keep
  | zero
  | set
  | and
  | or
  | xor
  | clear
  | invert
  | addWrap
  | addSat
  | subFloor
  | min
  | max
  | copyLane
  deriving DecidableEq, Repr

def opcodeOf : Nat → Option Opcode
  | 1 => some .update
  | 2 => some .fetch
  | 3 => some .store
  | 4 => some .fence
  | 5 => some .nop
  | _ => none

def matchFunctionOf : Nat → Option MatchFunction
  | 0 => some .always
  | 1 => some .never
  | 2 => some .equal
  | 3 => some .notEqual
  | _ => none

def magnitudeFunctionOf : Nat → Option MagnitudeFunction
  | 0 => some .always
  | 1 => some .never
  | 2 => some .eq
  | 3 => some .ne
  | 4 => some .lt
  | 5 => some .le
  | 6 => some .gt
  | 7 => some .ge
  | _ => none

def laneOpOf : Nat → Option LaneOp
  | 0 => some .keep
  | 1 => some .zero
  | 2 => some .set
  | 3 => some .and
  | 4 => some .or
  | 5 => some .xor
  | 6 => some .clear
  | 7 => some .invert
  | 8 => some .addWrap
  | 9 => some .addSat
  | 10 => some .subFloor
  | 11 => some .min
  | 12 => some .max
  | 13 => some .copyLane
  | _ => none

/-! ## Fields of the work entry (R188) -/

namespace WorkEntry

def opcode (e : Entry) : Option Opcode := opcodeOf (entryField e 0x00 1)
def flag (e : Entry) (i : Nat) : Bool := (entryField e 0x01 1).testBit i
def bundleNext (e : Entry) : Bool := flag e 0
def redirect (e : Entry) : Bool := flag e 1
def elseArm (e : Entry) : Bool := flag e 2
def returnImage (e : Entry) : Bool := flag e 3
def tag (e : Entry) : BitVec 16 := BitVec.ofNat 16 (entryField e 0x02 2)
def region (e : Entry) : RegionId := Fin.ofNat 16 (entryField e 0x04 1)
def matchFunction (e : Entry) : Option MatchFunction := matchFunctionOf (entryField e 0x05 1)
def magnitudeFunction (e : Entry) : Option MagnitudeFunction := magnitudeFunctionOf (entryField e 0x06 1)
def magnitudeLane (e : Entry) : LaneId := Fin.ofNat 8 (entryField e 0x07 1)
def recordIndex (e : Entry) : Nat := entryField e 0x08 4
def destinationIndex (e : Entry) : Nat := entryField e 0x0C 4
def keyOperandA (e : Entry) : Lane := entryWord e 0x10
def keyOperandB (e : Entry) : Lane := entryWord e 0x14
def magnitudeMask (e : Entry) : Lane := entryWord e 0x18
def magnitudeOperand (e : Entry) : Lane := entryWord e 0x1C
def hostBuffer (e : Entry) : HostAddr := entryAddr e 0x20
def passCode (e : Entry) (i : LaneId) : Nat := entryField e (0x28 + i.val) 1
def elseCode (e : Entry) (i : LaneId) : Nat := entryField e (0x30 + i.val) 1
def operandA (e : Entry) (i : LaneId) : Lane := entryWord e (0x38 + 4 * i.val)
def operandB (e : Entry) (i : LaneId) : Lane := entryWord e (0x58 + 4 * i.val)

/-- Whether the entry's opcode reads its region and record index (R20). -/
def namesRecord (e : Entry) : Bool :=
  match opcode e with
  | some .update | some .fetch | some .store => true
  | _ => false

/-- Whether the entry is an UPDATE with REDIRECT to a different record (R26). -/
def redirects (e : Entry) : Bool :=
  opcode e == some .update && redirect e && destinationIndex e != recordIndex e

end WorkEntry

/-! ## Fields of the admin entry (R191) -/

namespace AdminEntry

def opcode (e : Entry) : Nat := entryField e 0x00 1
def tag (e : Entry) : BitVec 16 := BitVec.ofNat 16 (entryField e 0x02 2)
def addrA (e : Entry) : HostAddr := entryAddr e 0x08
def w0 (e : Entry) : Nat := entryField e 0x04 4
def w1 (e : Entry) : Nat := entryField e 0x10 4
def w2 (e : Entry) : Nat := entryField e 0x14 4
def w3 (e : Entry) : Nat := entryField e 0x18 4
def w4 (e : Entry) : Nat := entryField e 0x1C 4
def w5 (e : Entry) : Nat := entryField e 0x20 4
def addrB (e : Entry) : HostAddr := entryAddr e 0x28
def dataD (e : Entry) : BitVec 32 := entryWord e 0x30
def pattern (e : Entry) : Record := recordAt e.toList 0x40

/-- The parameter value that stands for "none" for a lane and for ALL regions. -/
def allOnes : Nat := 0xFFFFFFFF

/-- A ring number 1 to 15 carried by a parameter. -/
def ringOf (w : Nat) : Option RingId :=
  if h : 1 ≤ w ∧ w ≤ 15 then some ⟨w - 1, by omega⟩ else none

/-- A region number 0 to 15 carried by a parameter. -/
def regionOf (w : Nat) : Option RegionId :=
  if h : w < 16 then some ⟨w, h⟩ else none

/-- A probe number 0 to 3 carried by a parameter. -/
def probeOf (w : Nat) : Option ProbeId :=
  if h : w < 4 then some ⟨w, h⟩ else none

/-- A lane parameter: none, or a lane number 0 to 7; the outer `none` is any other value. -/
def laneOf (w : Nat) : Option (Option LaneId) :=
  if w = allOnes then some none
  else if h : w < 8 then some (some ⟨w, h⟩) else none

end AdminEntry

/-- The code of each admin command (R191). -/
def knownAdminCode (code : Nat) : Bool :=
  1 ≤ code && code ≤ 17

/-! ## Codes of the entries the part writes (R190, R192, R193) -/

def Status.code : Status → Nat
  | .success => 0
  | .malformed => 1
  | .regionInactive => 2
  | .outOfRange => 3
  | .poisoned => 4
  | .mediaError => 5
  | .hostFault => 6
  | .bundleConflict => 7
  | .bundleAbandoned => 8

def Verdict.code : Verdict → Nat
  | .notTested => 0
  | .pass => 1
  | .matchFail => 2
  | .magnitudeFail => 3

/-- The statuses of an admin result (R154), in the order of their codes (R192). -/
inductive AdminStatus where
  | done
  | invalidCommand
  | invalidParameter
  | ringBusy
  | ringInUse
  | ringAbsent
  | regionBusy
  | regionUndefined
  | regionOverlap
  | probeBusy
  | deviceFailed
  | hostFault
  deriving DecidableEq, Repr

def AdminStatus.code : AdminStatus → Nat
  | .done => 0
  | .invalidCommand => 1
  | .invalidParameter => 2
  | .ringBusy => 3
  | .ringInUse => 4
  | .ringAbsent => 5
  | .regionBusy => 6
  | .regionUndefined => 7
  | .regionOverlap => 8
  | .probeBusy => 9
  | .deviceFailed => 10
  | .hostFault => 11

/-- The class code, 0 to 12 (R191). -/
def FaultClass.index : FaultClass → Fin 13
  | .entryMalformed => 0
  | .regionInactive => 1
  | .indexRange => 2
  | .poisonHit => 3
  | .mediaCorrected => 4
  | .mediaUncorrectable => 5
  | .poisonListFull => 6
  | .hostRead => 7
  | .hostBufferWrite => 8
  | .hostProtocol => 9
  | .resultStall => 10
  | .hostRingWrite => 11
  | .internalCheck => 12

/-- The class a parameter names (R191). -/
def faultClassOf : Nat → Option FaultClass
  | 0 => some .entryMalformed
  | 1 => some .regionInactive
  | 2 => some .indexRange
  | 3 => some .poisonHit
  | 4 => some .mediaCorrected
  | 5 => some .mediaUncorrectable
  | 6 => some .poisonListFull
  | 7 => some .hostRead
  | 8 => some .hostBufferWrite
  | 9 => some .hostProtocol
  | 10 => some .resultStall
  | 11 => some .hostRingWrite
  | 12 => some .internalCheck
  | _ => none

/-- The two classes whose severity is fixed at DEVICE_FATAL (R172). -/
def FaultClass.fixed : FaultClass → Bool
  | .hostRingWrite | .internalCheck => true
  | _ => false

def Severity.code : Severity → Nat
  | .advisory => 0
  | .ringFatal => 1
  | .deviceFatal => 2

def severityOf : Nat → Option Severity
  | 0 => some .advisory
  | 1 => some .ringFatal
  | 2 => some .deviceFatal
  | _ => none

/-- The MALFORMED detail codes (R193). -/
inductive MalformedCode where
  | badOpcode
  | badFunction
  | badLaneOp
  | copyLaneOperand
  | versionLaneWritten
  | bundleTooLong
  | bundleOverLimit
  | bundleMember
  | bundleConflict
  deriving DecidableEq, Repr

def MalformedCode.code : MalformedCode → BitVec 8
  | .badOpcode => 1
  | .badFunction => 2
  | .badLaneOp => 3
  | .copyLaneOperand => 4
  | .versionLaneWritten => 5
  | .bundleTooLong => 6
  | .bundleOverLimit => 7
  | .bundleMember => 8
  | .bundleConflict => 9

/-- A set of flags as the number whose bit `i` is the flag at place `i`. -/
def flagBits : List Bool → Nat
  | [] => 0
  | b :: rest => b.toNat + 2 * flagBits rest

/-- The number of a work or result ring, 1 to 15. -/
def ringNumber (r : RingId) : Nat := r.val + 1

/-- The status block entry of a work ring (R130). -/
def statusEntryOf (r : RingId) : Fin 16 := ⟨r.val + 1, by omega⟩

/-- The 16 bytes of a result entry (R190). `member` counts from 1. -/
def resultEntryBytes (tag : BitVec 16) (r : RingId) (slot : Nat) (o : MemberOutcome) (member count : Nat)
    (serial : Serial) : List Byte :=
  leBytes 2 tag.toNat ++ leBytes 2 (slot % 4096 + 4096 * ringNumber r) ++
    [BitVec.ofNat 8 o.status.code,
      BitVec.ofNat 8 (o.verdict.code + 4 * (member - 1) + 16 * (count - 1)),
      BitVec.ofNat 8 (flagBits [o.committed, o.elseApplied, o.floor, o.ceiling, o.withheld, o.imageReturned]),
      o.written] ++
    leBytes 4 o.versionWord.toNat ++ leBytes 3 serial.toNat ++ [0]

/-- Bytes 00h to 0Bh of an admin result of kind COMMAND (R192). -/
def commandBody (tag : BitVec 16) (slot opcode : Nat) (st : AdminStatus) (value : BitVec 32) : List Byte :=
  leBytes 2 tag.toNat ++
    [BitVec.ofNat 8 slot, BitVec.ofNat 8 opcode, BitVec.ofNat 8 st.code, 0, 0, 0] ++ leBytes 4 value.toNat

/-- Bytes 00h to 0Bh of an admin result of kind COMMAND with capture (R192). -/
def captureBody (c : Capture) : List Byte :=
  leBytes 2 (c.ringSlot % 4096 + 4096 * ringNumber c.ring) ++ leBytes 2 c.tag.toNat ++
    leBytes 4 c.recordIndex ++ leBytes 4 c.versionWord.toNat

/-- The entry kind of a notice (R192). -/
def Notice.kind : Notice → Byte
  | .probeHit _ => 1
  | .faultCaptured => 2
  | .ringHalted _ => 3
  | .resultStall _ => 4

/-- The source byte of a notice (R192). -/
def Notice.source : Notice → Nat
  | .probeHit p => p.val
  | .faultCaptured => 0
  | .ringHalted r => ringNumber r
  | .resultStall r => ringNumber r

/-- Bytes 00h to 0Bh of a notice (R192). -/
def noticeBody (n : Notice) (repeats : Nat) : List Byte :=
  [BitVec.ofNat 8 n.source, BitVec.ofNat 8 repeats, 0, 0, 0, 0, 0, 0, 0, 0, 0, 0]

/-- The 16 bytes of an admin result or notice entry: its body, its kind and its serial (R192). -/
def adminEntryBytes (body : List Byte) (kind : Byte) (serial : Serial) : List Byte :=
  body ++ [kind] ++ leBytes 3 serial.toNat

/-- The 8 bytes of a status block entry (R193). -/
def statusEntryBytes (index : Nat) : List Byte :=
  leBytes 2 index ++ [0, 0, 0, 0, 0, 0]

/-- The 24 bytes of the IDENTIFY buffer for a store of `size` records (R193). -/
def identifyBytes (size : Nat) : List Byte :=
  [0x5C, 0x01] ++ leBytes 2 0x126C ++ leBytes 4 size ++ leBytes 2 64 ++ [16, 15, 15, 4] ++ leBytes 2 64 ++
    leBytes 2 4096 ++ [0, 0, 0, 0, 0, 0]

/-- The LIST_POISON buffer: the count, then the entries oldest first (R193). -/
def poisonBytes (list : List Nat) : List Byte :=
  leBytes 4 list.length ++ list.flatMap (leBytes 4)

/-- The source kind byte of the READ_FAULT_LOG buffer (R193). -/
def FaultSource.kind : FaultSource → Byte
  | .none => 0
  | .workRing _ => 1
  | .resultRing _ => 2
  | .adminRing => 3
  | .store => 4

/-- The source ring byte of the READ_FAULT_LOG buffer (R193); 0 for a source that is no ring: DESIGN CHOICE
(notes/assumptions/35.md). -/
def FaultSource.ring : FaultSource → Nat
  | .workRing r => ringNumber r
  | .resultRing r => ringNumber r
  | _ => 0

/-- The policy byte of the READ_FAULT_LOG buffer: bit 0 mask, bits 2:1 severity (R193). -/
def Policy.logByte (p : Policy) : Byte :=
  BitVec.ofNat 8 (p.masked.toNat + 2 * p.severity.code)

/-- The prior policy in a SET_FAULT_POLICY result: bit 0 mask, bits 9:8 severity (R191). -/
def Policy.resultValue (p : Policy) : BitVec 32 :=
  BitVec.ofNat 32 (p.masked.toNat + 256 * p.severity.code)

/-- Bytes 04h to 37h of the READ_FAULT_LOG buffer: the captured fault (R193). The bytes of an absent detail are 0, and so
are all of them while nothing is captured: DESIGN CHOICE (notes/assumptions/35.md). -/
def captureLogBytes : Option RaisedFault → List Byte
  | none => List.replicate 52 0
  | some f =>
    [BitVec.ofNat 8 f.cls.index.val, f.source.kind, BitVec.ofNat 8 f.source.ring,
      BitVec.ofNat 8 (flagBits [f.slotIndex.isSome, f.tag.isSome, f.region.isSome, f.record.isSome,
        f.image.isSome, f.code.isSome, f.value.isSome])] ++
      leBytes 2 (f.slotIndex.getD 0) ++ leBytes 2 ((f.tag.getD 0).toNat) ++
      [BitVec.ofNat 8 (f.region.elim 0 Fin.val), f.code.getD 0, 0, 0] ++
      leBytes 4 (f.record.getD 0) ++ leBytes 4 ((f.value.getD 0).toNat) ++
      (f.image.elim (List.replicate 32 0) Vector.toList)

/-- The 69 bytes of the READ_FAULT_LOG buffer (R193). -/
def faultLogBytes (u : FaultUnit) : List Byte :=
  [BitVec.ofNat 8 (flagBits [u.capture.isSome, u.later]), 0] ++ leBytes 2 u.seen.toNat ++
    captureLogBytes u.capture ++ u.policies.toList.map Policy.logByte

end Sys2Proof.Machine
end

