-- ==== Sys2Proof/Machine/Flags.lean ====
section
/-! DEFINITION. The test unit and the lane unit: verdict, arm, image, written-lane set, flags and version word of one
entry (R37 to R57). -/

namespace Sys2Proof.Machine

/-! ## Tests -/

/-- A present key lane holds its operand; an absent one takes no part (R38). -/
def keyMatches (key : Option LaneId) (operand : Lane) (pre : Record) : Bool :=
  match key with
  | none => true
  | some k => pre[k] == operand

/-- The match test (R38, R39). An invalid code does not pass validation (R29). -/
def matchTest (rg : Region) (e : Entry) (pre : Record) : Bool :=
  let agree := keyMatches rg.keyA (WorkEntry.keyOperandA e) pre && keyMatches rg.keyB (WorkEntry.keyOperandB e) pre
  match WorkEntry.matchFunction e with
  | some .always => true
  | some .equal => agree
  | some .notEqual => !agree
  | some .never | none => false

/-- A magnitude function on its two masked sides, the record on the left (R40). -/
def MagnitudeFunction.passes (f : MagnitudeFunction) (left right : Lane) : Bool :=
  match f with
  | .always => true
  | .never => false
  | .eq => left == right
  | .ne => left != right
  | .lt => decide (left.toNat < right.toNat)
  | .le => decide (left.toNat ≤ right.toNat)
  | .gt => decide (right.toNat < left.toNat)
  | .ge => decide (right.toNat ≤ left.toNat)

/-- The masked magnitude test (R40, R41). -/
def magnitudeTest (e : Entry) (pre : Record) : Bool :=
  match WorkEntry.magnitudeFunction e with
  | some f =>
    f.passes (pre[WorkEntry.magnitudeLane e] &&& WorkEntry.magnitudeMask e)
      (WorkEntry.magnitudeOperand e &&& WorkEntry.magnitudeMask e)
  | none => false

/-- The verdict of an UPDATE (R42). -/
def updateVerdict (rg : Region) (e : Entry) (pre : Record) : Verdict :=
  if matchTest rg e pre then
    if magnitudeTest e pre then .pass else .magnitudeFail
  else .matchFail

/-- The verdict of a FETCH, which has no magnitude test (R42). -/
def fetchVerdict (rg : Region) (e : Entry) (pre : Record) : Verdict :=
  if matchTest rg e pre then .pass else .matchFail

/-! ## Lane operations -/

/-- What one lane's operation gives: its value, and whether it sets FLOOR or CEILING. -/
structure LaneResult where
  value : Lane
  floor : Bool
  ceiling : Bool
  deriving DecidableEq, Repr

/-- A lane result that sets no flag. -/
def LaneResult.plain (v : Lane) : LaneResult := { value := v, floor := false, ceiling := false }

/-- ADD_SAT: the sum is taken without wrapping and held at the ceiling `b` (R47). -/
def addSat (old a b : Lane) : LaneResult :=
  let s := old.toNat + a.toNat
  if s ≤ b.toNat then .plain (old + a)
  else if old.toNat ≤ b.toNat then { value := b, floor := false, ceiling := true }
  else { value := old, floor := false, ceiling := a != 0 }

/-- SUB_FLOOR: the difference is taken without wrapping and held at the floor `b` (R48). -/
def subFloor (old a b : Lane) : LaneResult :=
  let d : Int := (old.toNat : Int) - (a.toNat : Int)
  if (b.toNat : Int) ≤ d then .plain (old - a)
  else if b.toNat ≤ old.toNat then { value := b, floor := true, ceiling := false }
  else { value := old, floor := a != 0, ceiling := false }

/-- One lane's operation on the pre-image (R44 to R49). -/
def laneResult (op : LaneOp) (pre : Record) (i : LaneId) (a b : Lane) : LaneResult :=
  let old := pre[i]
  match op with
  | .keep => .plain old
  | .zero => .plain 0
  | .set => .plain a
  | .and => .plain (old &&& a)
  | .or => .plain (old ||| a)
  | .xor => .plain (old ^^^ a)
  | .clear => .plain (old &&& ~~~a)
  | .invert => .plain (~~~old)
  | .addWrap => .plain (old + a)
  | .addSat => addSat old a b
  | .subFloor => subFloor old a b
  | .min => .plain (if old.toNat ≤ a.toNat then old else a)
  | .max => .plain (if old.toNat ≤ a.toNat then a else old)
  | .copyLane => .plain (pre[Fin.ofNat 8 a.toNat])

/-! ## Arms -/

/-- One of the two per-lane programs of an UPDATE. -/
inductive ArmChoice where
  | pass
  | els
  deriving DecidableEq, Repr

/-- The operation an arm holds for a lane; a code that validation refuses never comes here (R29). -/
def armOp (e : Entry) (arm : ArmChoice) (i : LaneId) : LaneOp :=
  ((match arm with
    | .pass => laneOpOf (WorkEntry.passCode e i)
    | .els => laneOpOf (WorkEntry.elseCode e i)).getD .keep)

/-- The arm that a verdict chooses (R43). -/
def chosenArm (e : Entry) (v : Verdict) : Option ArmChoice :=
  match v with
  | .pass => some .pass
  | .magnitudeFail => if WorkEntry.elseArm e then some .els else none
  | .matchFail | .notTested => none

/-- What an arm gives for a lane of the pre-image (R44). -/
def armResult (e : Entry) (arm : ArmChoice) (pre : Record) (i : LaneId) : LaneResult :=
  laneResult (armOp e arm i) pre i (WorkEntry.operandA e i) (WorkEntry.operandB e i)

/-- The version lane that the part advances: present where auto-version is on (R14). -/
def Region.advancedLane (rg : Region) : Option LaneId :=
  if rg.autoVersion then rg.versionLane else none

/-- The image an arm writes: each lane computed from the pre-image, then the version lane of an auto-version region
set to its pre-image value plus 1 modulo 2^32 (R14, R15, R44, R52, R53). -/
def armImage (rg : Region) (e : Entry) (arm : ArmChoice) (pre : Record) : Record :=
  Vector.ofFn fun i : LaneId =>
    if rg.advancedLane = some i then pre[i] + 1 else (armResult e arm pre i).value

/-- The set of all eight lanes. -/
def allLanes : LaneSet := 0xFF

/-- The set of the lanes for which `p` holds. -/
def laneSetOf (p : LaneId → Bool) : LaneSet :=
  BitVec.ofNat 8 (flagBits ((List.finRange 8).map p))

/-- The written-lane set of an UPDATE to which an arm is applied (R51). -/
def armWritten (rg : Region) (e : Entry) (arm : ArmChoice) : LaneSet :=
  if WorkEntry.redirects e then allLanes
  else laneSetOf fun i => armOp e arm i != .keep || rg.advancedLane == some i

/-- Whether some lane of the applied arm sets FLOOR (R50). -/
def armFloor (e : Entry) (arm : ArmChoice) (pre : Record) : Bool :=
  (List.finRange 8).any fun i => (armResult e arm pre i).floor

/-- Whether some lane of the applied arm sets CEILING (R50). -/
def armCeiling (e : Entry) (arm : ArmChoice) (pre : Record) : Bool :=
  (List.finRange 8).any fun i => (armResult e arm pre i).ceiling

/-- The version lane of an image, 0 in a region with no version lane (R56). -/
def versionWordOf (rg : Region) (image : Record) : Lane :=
  match rg.versionLane with
  | none => 0
  | some v => image[v]

/-! ## Outcomes -/

/-- The outcome of an entry that reached no evaluation (R28, R57). -/
def MemberOutcome.untested (st : Status) : MemberOutcome :=
  { status := st, verdict := .notTested, committed := false, elseApplied := false, floor := false, ceiling := false,
    withheld := false, imageReturned := false, versionWord := 0, written := 0 }

/-- The outcome of an evaluated entry that writes nothing (R50, R51, R56). -/
def MemberOutcome.unwritten (rg : Region) (v : Verdict) (pre : Record) : MemberOutcome :=
  { MemberOutcome.untested .success with verdict := v, versionWord := versionWordOf rg pre }

/-- The outcome of an UPDATE to which an arm is applied (R43, R50, R51, R56). -/
def MemberOutcome.applied (rg : Region) (e : Entry) (v : Verdict) (arm : ArmChoice) (pre : Record) : MemberOutcome :=
  { status := .success, verdict := v, committed := true, elseApplied := arm == .els, floor := armFloor e arm pre,
    ceiling := armCeiling e arm pre, withheld := false, imageReturned := false,
    versionWord := versionWordOf rg (armImage rg e arm pre), written := armWritten rg e arm }

/-- The outcome of a STORE that commits (R23, R51, R56). -/
def MemberOutcome.stored (rg : Region) (data : Record) : MemberOutcome :=
  { MemberOutcome.untested .success with committed := true, versionWord := versionWordOf rg data, written := allLanes }

/-- The outcome of a member of a bundle that is withheld (R71). -/
def MemberOutcome.heldBack (rg : Region) (v : Verdict) (pre : Record) : MemberOutcome :=
  { MemberOutcome.unwritten rg v pre with withheld := true }

/-! ## Parity -/

/-- The parity bit of a lane (R113): set when the lane holds an odd number of ones. -/
def laneParity (x : Lane) : Bool :=
  ((List.range 32).countP fun i => x.getLsbD i) % 2 == 1

/-- The parity bits of a record's lanes (R113). -/
def recordParity (r : Record) : BitVec 8 :=
  laneSetOf fun i => laneParity r[i]

/-- An image with parity formed afresh (R86, R113). -/
def Image.fresh (r : Record) : Image := { lanes := r, parity := recordParity r }

/-- Whether an image's parity holds over all eight lanes (R113). -/
def Image.sound (x : Image) : Bool := x.parity == recordParity x.lanes

end Sys2Proof.Machine
end

