-- ==== Sys2Proof/Machine/Media.lean ====
section
/-! DEFINITION. The record store: its bytes, its protection words with their check bits, and how a fill decodes them
(R2, R104 to R111). -/

namespace Sys2Proof.Machine

/-! ## Memory -/

/-- The entry at an address, or none where there is none: a byte that the part has not written since power-on, or a
word with no bit in error. -/
def Memory.read {α : Type} (m : List (Nat × α)) (a : Nat) : Option α :=
  List.lookup a m

/-- Writes an entry, keeping the addresses strictly rising. -/
def Memory.write {α : Type} : List (Nat × α) → Nat → α → List (Nat × α)
  | [], a, b => [(a, b)]
  | (x, y) :: rest, a, b =>
    if a < x then (a, b) :: (x, y) :: rest
    else if a = x then (a, b) :: rest
    else (x, y) :: Memory.write rest a b

/-- Writes bytes at consecutive addresses. -/
def Memory.writeBytes : Memory → Nat → List Byte → Memory
  | m, _, [] => m
  | m, a, b :: rest => Memory.writeBytes (Memory.write m a b) (a + 1) rest

/-- Takes the entry at an address out. -/
def Memory.clear {α : Type} (m : List (Nat × α)) (a : Nat) : List (Nat × α) := m.filter fun p => p.1 != a

/-- The canonical form: addresses strictly rising. An unlisted address reads as no value, so no entry can equal what
an unlisted address reads as. -/
abbrev Memory.wf {α : Type} (m : List (Nat × α)) : Prop := (m.map Prod.fst).Pairwise (· < ·)

/-! ## Protection words -/

/-- A protection word of a record: the lane pairs L0/L1, L2/L3, L4/L5, L6/L7 (R2). The data sheet gives a record its
bytes 32n to 32n + 31 and says no more of their order in DRAM: that word `w` stands at bytes 32n + 8w to 32n + 8w + 7,
the lower lane at the lower address, each lane with its least significant byte first, is DESIGN CHOICE
(notes/assumptions/31.md), here and in `wordOf`, `dramWord` and `writeWord`. -/
abbrev WordId := Fin 4

/-- The lower lane of a protection word. -/
def lowLane (w : WordId) : LaneId := ⟨2 * w.val, by omega⟩

/-- The upper lane of a protection word. -/
def highLane (w : WordId) : LaneId := ⟨2 * w.val + 1, by omega⟩

/-- The 64 data bits of a record's protection word: the lower lane in bits 31 to 0 (DESIGN CHOICE,
notes/assumptions/31.md). -/
def wordOf (r : Record) (w : WordId) : BitVec 64 :=
  r[highLane w] ++ r[lowLane w]

/-- The record whose protection words hold the given data bits. -/
def recordOfWords (words : WordId → BitVec 64) : Record :=
  Vector.ofFn fun i : LaneId =>
    (words ⟨i.val / 2, by omega⟩).extractLsb' (32 * (i.val % 2)) 32

/-- Byte address of a protection word in the record store (R2; the order of the words is DESIGN CHOICE,
notes/assumptions/31.md). -/
def wordAddr (record : Nat) (w : WordId) : Nat := 32 * record + 8 * w.val

/-- Where the check bits of a protection word are kept: word number 4n + w. -/
def checkAddr (record : Nat) (w : WordId) : Nat := 4 * record + w.val

/-- A byte of the record store: as written, or the arbitrary content of power-on (R2). -/
def dramByte (st : Store) (a : Nat) : Byte :=
  (Memory.read st.dram a).getD (Config.powerOnByte st.powerOns a)

/-- The data bits of a protection word in the record store, as it was last written: least significant byte at the
lowest address (DESIGN CHOICE, notes/assumptions/31.md). -/
def dramWord (st : Store) (record : Nat) (w : WordId) : BitVec 64 :=
  BitVec.ofNat 64 (leNat ((List.range 8).map fun i => dramByte st (wordAddr record w + i)))

/-- The check bits of a protection word in the record store (R106). -/
def dramCheck (st : Store) (record : Nat) (w : WordId) : BitVec 8 :=
  (Memory.read st.check (checkAddr record w)).getD (Config.powerOnCheck st.powerOns (checkAddr record w))

/-- Whether the part has written a protection word since power-on. -/
def wordWritten (st : Store) (record : Nat) (w : WordId) : Bool :=
  (Memory.read st.check (checkAddr record w)).isSome

/-- The bits of a protection word that stand in error in DRAM (R105, R106). -/
def wordErrors (st : Store) (record : Nat) (w : WordId) : WordErrors :=
  (Memory.read st.errors (checkAddr record w)).getD 0

/-- Writes a protection word whole, with fresh check bits; the write heals every error that the word held (R2, R106).
Least significant byte at the lowest address (DESIGN CHOICE, notes/assumptions/31.md). -/
def writeWord (st : Store) (record : Nat) (w : WordId) (data : BitVec 64) : Store :=
  { st with
    dram := Memory.writeBytes st.dram (wordAddr record w) (leBytes 8 data.toNat)
    check := Memory.write st.check (checkAddr record w) (Config.eccCheck data)
    errors := Memory.clear st.errors (checkAddr record w) }

/-- Whether a lane set holds a lane of a protection word (R108). -/
def wordTouched (set : LaneSet) (w : WordId) : Bool :=
  set.getLsbD (lowLane w).val || set.getLsbD (highLane w).val

/-- Writes the protection words that hold a lane of the set, both lanes of each from the record (R108). -/
def writeLanes (st : Store) (record : Nat) (lanes : Record) (set : LaneSet) : Store :=
  (List.finRange 4).foldl
    (fun acc w => if wordTouched set w then writeWord acc record w (wordOf lanes w) else acc) st

/-- Writes `count` records from `first` on, each whole, in ascending order (R109). -/
def fillRecords (st : Store) (pattern : Record) : Nat → Nat → Store
  | _, 0 => st
  | first, count + 1 => fillRecords (writeLanes st first pattern allLanes) pattern (first + 1) count

/-- Whether a record number lies in the store the part addresses (R117). -/
def inStore (st : Store) (record : Nat) : Bool := decide (record < st.size)

/-- The canonical form of the store's memories: addresses strictly rising, and no word listed with no bit in error. -/
def StoreCanonical (st : Store) : Prop :=
  Memory.wf st.dram ∧ Memory.wf st.check ∧ Memory.wf st.errors ∧ ∀ p ∈ st.errors, p.2 ≠ 0

/-! ## Decoding -/

/-- The number of bits in error of a word read. -/
def errorCount (errors : WordErrors) : Nat :=
  (List.range 72).countP fun i => errors.getLsbD i

/-- The bits in error of a protection word as a fill reads it: those that stood in error at the last read of the word,
and those that this read finds in error beside them (R105). -/
def errorsRead (st : Store) (record : Nat) (w : WordId) (found : WordErrors) : WordErrors :=
  wordErrors st record w ||| found

/-- Records the bits that a read finds in error in a protection word: they stay in error until the word is written
(R105, R112). -/
def Store.addErrors (st : Store) (record : Nat) (w : WordId) (found : WordErrors) : Store :=
  if found = 0 then st
  else { st with errors := Memory.write st.errors (checkAddr record w) (errorsRead st record w found) }

/-- Records the bits that a fill finds in error in the four words of its record. -/
def Store.addFillErrors (st : Store) (record : Nat) (found : Vector WordErrors 4) : Store :=
  (List.finRange 4).foldl (fun acc w => acc.addErrors record w found[w]) st

/-- How a protection word decodes when a read finds the given bits in error beside those that stand in error (R105,
R106): the data sheet fixes the outcome for none, one and two bits of a word the part has written, and leaves the rest
to the code. -/
def decodeWord (st : Store) (record : Nat) (w : WordId) (found : WordErrors) : EccRead :=
  let data := dramWord st record w
  let errors := errorsRead st record w found
  let raw : BitVec 72 := (dramCheck st record w ++ data) ^^^ errors
  if wordWritten st record w then
    match errorCount errors with
    | 0 => .clean data
    | 1 => .corrected data
    | 2 => .uncorrectable
    | _ => Config.eccDecode raw
  else Config.eccDecode raw

/-- The data a decoded word delivers. -/
def deliveredWord : EccRead → BitVec 64
  | .clean data => data
  | .corrected data => data
  | .uncorrectable => 0

def readCorrected : EccRead → Bool
  | .corrected _ => true
  | _ => false

def readUncorrectable : EccRead → Bool
  | .uncorrectable => true
  | _ => false

/-- The set of protection words with a property, bit `w` for word `w` (R193). -/
def wordSetOf (p : WordId → Bool) : BitVec 8 :=
  BitVec.ofNat 8 (flagBits ((List.finRange 4).map p))

/-- The four words of a record as a fill decodes them (R105). -/
def fillWords (st : Store) (record : Nat) (found : Vector WordErrors 4) (w : WordId) : EccRead :=
  decodeWord st record w found[w]

/-- The words a fill corrected. -/
def fillCorrected (st : Store) (record : Nat) (found : Vector WordErrors 4) : BitVec 8 :=
  wordSetOf fun w => readCorrected (fillWords st record found w)

/-- The words a fill could not correct: the outcome is uncorrectable where there is one (R105). -/
def fillBad (st : Store) (record : Nat) (found : Vector WordErrors 4) : BitVec 8 :=
  wordSetOf fun w => readUncorrectable (fillWords st record found w)

/-- The image a fill delivers: corrected words in their corrected form (R105). -/
def fillLanes (st : Store) (record : Nat) (found : Vector WordErrors 4) : Record :=
  recordOfWords fun w => deliveredWord (fillWords st record found w)

/-! ## The poison list -/

/-- Whether a record is listed as poisoned (R114). -/
def Store.poisoned (st : Store) (record : Nat) : Bool := st.poison.contains record

/-- An uncorrectable fill finds the list full and the record unlisted (R111). -/
def Store.poisonFull (st : Store) (record : Nat) : Bool :=
  !st.poisoned record && decide (Config.poisonCapacity ≤ st.poison.length)

/-- Adds an unreadable record at the newest end, unless it is listed already or the list is full (R111). -/
def Store.addPoison (st : Store) (record : Nat) : Store :=
  if st.poisoned record || decide (Config.poisonCapacity ≤ st.poison.length) then st
  else { st with poison := st.poison ++ [record] }

/-- Removes a record from the list, the others keeping their order (R112). -/
def Store.removePoison (st : Store) (record : Nat) : Store :=
  { st with poison := st.poison.filter (· != record) }

/-- Removes every listed record of a range (R109, R112). -/
def Store.removePoisonRange (st : Store) (first last : Nat) : Store :=
  { st with poison := st.poison.filter fun n => !(decide (first ≤ n) && decide (n ≤ last)) }

/-! ## Jobs -/

/-- The record of the fill job of a slot (R104). -/
def Store.fillJob (st : Store) (k : SlotId) : Option Nat :=
  st.jobs.findSome? fun j => match j with
    | .fill slot record => if slot = k then some record else none
    | _ => none

/-- The record, image copy and lane set copy of the write-back job of a slot (R104). -/
def Store.writeBackJob (st : Store) (k : SlotId) : Option (Nat × Record × LaneSet) :=
  st.jobs.findSome? fun j => match j with
    | .writeBack slot record lanes set => if slot = k then some (record, lanes, set) else none
    | _ => none

/-- First and last record, pattern and next record of the region-fill job (R104). -/
def Store.regionFillJob (st : Store) : Option (Nat × Nat × Record × Nat) :=
  st.jobs.findSome? fun j => match j with
    | .regionFill first last pattern next => some (first, last, pattern, next)
    | _ => none

def Job.isFill (k : SlotId) : Job → Bool
  | .fill slot _ => slot == k
  | _ => false

def Job.isWriteBack (k : SlotId) : Job → Bool
  | .writeBack slot _ _ _ => slot == k
  | _ => false

def Job.isRegionFill : Job → Bool
  | .regionFill _ _ _ _ => true
  | _ => false

/-- Takes the jobs that satisfy `p` out of the list: their end has been reported (R104). -/
def Store.endJobs (st : Store) (p : Job → Bool) : Store :=
  { st with jobs := st.jobs.filter fun j => !p j }

/-- The fill of a slot has ended: its job leaves the list, and the bits it found in error stay in error (R104, R105). -/
def Store.endFill (st : Store) (k : SlotId) (record : Nat) (found : Vector WordErrors 4) : Store :=
  (st.endJobs (Job.isFill k)).addFillErrors record found

/-- A region-fill job's next record advances; another job stays as it is (R109). -/
def Job.advanced (n : Nat) : Job → Job
  | .regionFill first last pattern next => .regionFill first last pattern (next + n)
  | j => j

/-- The region-fill job has written `n` more records (R109). -/
def Store.advanceFill (st : Store) (n : Nat) : Store := { st with jobs := st.jobs.map (Job.advanced n) }

/-- A job joins the list when it is issued (R104). -/
def Store.issueJob (st : Store) (j : Job) : Store :=
  { st with jobs := st.jobs ++ [j] }

end Sys2Proof.Machine
end

