-- ==== Sys2Proof/Machine/Ops.lean ====
section
/-! DEFINITION. The operations that several commands share: the link's transfers, the status block, the admin result
ring and its notices, the ends of running commands, slots and write-backs, abandonment, and the fault unit. -/

namespace Sys2Proof.Machine

/-! ## The link interface (R182) -/

/-- Issues a host read or a host write: it joins the link's transfers at the end. -/
def issueTransfer (kind : TransferKind) (addr : HostAddr) (length : Nat) (body : List Byte) (s : State) : State :=
  { s with
    link :=
      { transfers := s.link.transfers ++
          [{ xfer := s.link.next, kind := kind, addr := addr, length := length, body := body, issued := s.now,
             heeded := true }]
        next := s.link.next + 1 } }

/-- Issues a host write of the given bytes. -/
def issueWrite (kind : TransferKind) (addr : HostAddr) (body : List Byte) (s : State) : State :=
  issueTransfer kind addr body.length body s

/-- Issues a host read of `length` bytes. -/
def issueRead (kind : TransferKind) (addr : HostAddr) (length : Nat) (s : State) : State :=
  issueTransfer kind addr length [] s

/-- The block no longer waits for these transfers: they run on, and their ends are discarded (R78, R135, R149, R164). -/
def unheed (p : TransferKind → Bool) (s : State) : State :=
  s.setTransfers (s.link.transfers.map fun x => if p x.kind then { x with heeded := false } else x)

/-- The transfer a report is about. -/
def findTransfer (xfer : Nat) (s : State) : Option Transfer :=
  s.link.transfers.find? fun x => x.xfer == xfer

/-- A transfer whose end is reported leaves the link. -/
def dropTransfer (xfer : Nat) (s : State) : State :=
  s.setTransfers (s.link.transfers.filter fun x => x.xfer != xfer)

/-- The report of a transfer's end. A report about no transfer of the kind does not occur: nothing changes. The end
of a transfer that its block no longer heeds is discarded. -/
def onReport {α : Type} (kind : TransferKind → Option α) (handle : α → State → State) (xfer : Nat) (s : State) : State :=
  match findTransfer xfer s with
  | none => s
  | some x =>
    match kind x.kind with
    | none => s
    | some a => if x.heeded then handle a (dropTransfer xfer s) else dropTransfer xfer s

/-- Whether a host read can still complete: it runs out 50 ms after its issue (R182). -/
def readInTime (xfer : Nat) (s : State) : Bool :=
  match findTransfer xfer s with
  | none => false
  | some x => decide (s.now < x.issued + Config.hostReadTimeout)

/-- The completion of a host read, which occurs only while the read has not run out. -/
def onReadComplete {α : Type} (kind : TransferKind → Option α) (handle : α → State → State) (xfer : Nat) (s : State) :
    State :=
  if readInTime xfer s then onReport kind handle xfer s else s

def TransferKind.asFetchRead : TransferKind → Option RingId
  | .fetchRead r => some r
  | _ => none

def TransferKind.asStoreRead : TransferKind → Option CtxId
  | .storeRead c => some c
  | _ => none

def TransferKind.asAdminRead : TransferKind → Option Unit
  | .adminRead => some ()
  | _ => none

def TransferKind.asResult : TransferKind → Option (RingId × Nat × Serial)
  | .result r slot serial => some (r, slot, serial)
  | _ => none

def TransferKind.asStatus : TransferKind → Option (Fin 16 × Nat)
  | .status e index => some (e, index)
  | _ => none

def TransferKind.asAdminResult : TransferKind → Option (Nat × Serial)
  | .adminResult slot serial => some (slot, serial)
  | _ => none

def TransferKind.asBuffer : TransferKind → Option (CtxId × Nat)
  | .buffer c m => some (c, m)
  | _ => none

def TransferKind.asAdminBuffer : TransferKind → Option Unit
  | .adminBuffer => some ()
  | _ => none

/-- A transfer that a context waits for. -/
def TransferKind.ofContext : TransferKind → Bool
  | .storeRead _ | .buffer _ _ => true
  | _ => false

/-! ## Index arithmetic -/

/-- How far index `b` lies from index `a`, going round a ring of `size` slots. -/
def ringGap (size a b : Nat) : Nat := (b + size - a) % size

/-- The next index round a ring. -/
def ringNext (size a : Nat) : Nat := (a + 1) % size

/-- The host address of item `i` of a table of `unit`-byte items. -/
def itemAddr (base : HostAddr) (unit i : Nat) : HostAddr := base + BitVec.ofNat 64 (unit * i)

/-- A result ring's credit (R138). -/
def ResultRing.credit (q : ResultRing) : Nat := q.size - 1 - ringGap q.size q.release q.produce - q.reserved

/-- The admin result ring's credit (R150). -/
def AdminRings.credit (a : AdminRings) : Nat :=
  a.resultSize - 1 - ringGap a.resultSize a.release a.produce - a.reserved

/-! ## The status block (R130) -/

/-- The base of the status block, as the admin controller keeps it (R150). -/
def statusBase (s : State) : HostAddr :=
  match s.admin.rings with
  | some a => a.statusBase
  | none => s.regs.statusBlockBase

/-- Issues the write of a status block entry. -/
def issueStatus (e : Fin 16) (index : Nat) (s : State) : State :=
  (issueWrite (.status e index) (itemAddr (statusBase s) 8 e.val) (statusEntryBytes index) s).setStatus e
    (.inFlight none)

/-- Writes an index into the status block, or marks it pending behind the write in flight. -/
def writeStatus (e : Fin 16) (index : Nat) (s : State) : State :=
  match s.rings.status[e] with
  | .idle => issueStatus e index s
  | .inFlight _ => s.setStatus e (.inFlight (some index))

/-- The end of a status write, whichever way: a pending write is issued (R130, R142). -/
def endStatusWrite (e : Fin 16) (s : State) : State :=
  match s.rings.status[e] with
  | .idle => s
  | .inFlight none => s.setStatus e .idle
  | .inFlight (some index) => issueStatus e index s

/-! ## The admin result ring and its notices (R158, R160) -/

/-- Posts an entry into the admin result ring: its write is issued, the produce index and the serial advance. -/
def postAdmin (body : List Byte) (kind : Byte) (s : State) : State :=
  match s.admin.rings with
  | none => s
  | some a =>
    (issueWrite (.adminResult a.produce a.serial) (itemAddr a.resultBase 16 a.produce)
      (adminEntryBytes body kind a.serial) s).setAdminRings
        (some { a with produce := ringNext a.resultSize a.produce, serial := a.serial + 1 })

/-- A notice joins the pending list, or raises the repeat count of its record there (R160). -/
def joinNotice (n : Notice) (list : List PendingNotice) : List PendingNotice :=
  if list.any fun p => p.notice == n then
    list.map fun p => if p.notice == n then { p with repeats := min (p.repeats + 1) Config.repeatLimit } else p
  else list ++ [{ notice := n, repeats := 1 }]

/-- Whether the admin result ring has room for one more entry. -/
def adminRoom (s : State) : Bool :=
  match s.admin.rings with
  | none => false
  | some a => decide (1 ≤ a.credit)

/-- Raises a notice: it is posted where there is room and nothing is pending, and joins the list otherwise (R160). -/
def raiseNotice (n : Notice) (s : State) : State :=
  if adminRoom s && s.admin.notices.isEmpty then postAdmin (noticeBody n 1) n.kind s
  else s.setNotices (joinNotice n s.admin.notices)

/-- Posts the records of a list oldest first while the credit allows, and keeps the rest. -/
def postPendingList : List PendingNotice → State → State
  | [], s => s.setNotices []
  | p :: rest, s =>
    if adminRoom s then postPendingList rest (postAdmin (noticeBody p.notice p.repeats) p.notice.kind s)
    else s.setNotices (p :: rest)

/-- Posts the pending notices while the credit allows (R160). -/
def postPending (s : State) : State := postPendingList s.admin.notices s

/-- The admin message of an event that posted an admin entry (R158): one, after the event's entries and status write.
`first` is the number the event's first transfer had. -/
def adminMessage (first : Nat) (s : State) : State :=
  if s.regs.adminMsgEn && s.link.transfers.any fun x => decide (first ≤ x.xfer) && x.kind.asAdminResult.isSome then
    issueWrite (.message none) s.regs.adminMsgAddr (leBytes 4 s.regs.adminMsgData.toNat) s
  else s

/-- One event: its effect, and then the admin message it may cause. -/
def event (f : State → State) (s : State) : State := adminMessage s.link.next (f s)

/-! ## Running commands (R153, R158) -/

/-- Considers the read of the next admin entry (R153). -/
def considerAdminRead (s : State) : State :=
  match s.admin.rings with
  | none => s
  | some a =>
    if s.admin.phase = .opened ∧ a.command = .none ∧ a.post ≠ a.consumer ∧ 1 ≤ a.credit ∧ s.resetPhase = .operating then
      (issueRead .adminRead (itemAddr a.workBase 128 a.consumer) 128 s).setAdminRings
        (some { a with command := .reading, reserved := 1 })
    else s

/-- What the running command waits for, if a command is running. -/
def runningProgress (s : State) : Option Progress :=
  match s.admin.rings with
  | some a =>
    match a.command with
    | .running _ p => some p
    | _ => none
  | none => none

/-- The entry of the running command. -/
def runningEntry (s : State) : Option Entry :=
  match s.admin.rings with
  | some a =>
    match a.command with
    | .running e _ => some e
    | _ => none
  | none => none

/-- The running command waits for something else from now on. -/
def setProgress (p : Progress) (s : State) : State :=
  match s.admin.rings with
  | some a =>
    match a.command with
    | .running e _ => s.setAdminRings (some { a with command := .running e p })
    | _ => s
  | none => s

/-- The admin slot index of the command being read or run. -/
def adminSlot (s : State) : Nat :=
  match s.admin.rings with
  | some a => a.consumer
  | none => 0

/-- The consumer index passes the command, which is no longer running, and its reservation is used (R158). -/
def passCommand (s : State) : State :=
  match s.admin.rings with
  | none => s
  | some a =>
    s.setAdminRings (some { a with reserved := 0, consumer := ringNext a.workSize a.consumer, command := .none })

/-- Completes the running command with the given result entry: the entry is posted, the consumer index is written to
the status block and the next read is considered (R158). -/
def finishCommand (body : List Byte) (kind : Byte) (s : State) : State :=
  let s1 := passCommand (postAdmin body kind s)
  considerAdminRead (writeStatus 0 (adminSlot s1) s1)

/-- Completes the running command with an admin status and a result value (R154, R158). -/
def completeCommand (st : AdminStatus) (value : BitVec 32) (s : State) : State :=
  match runningEntry s with
  | none => s
  | some e => finishCommand (commandBody (AdminEntry.tag e) (adminSlot s) (AdminEntry.opcode e) st value) 0 s

/-! ## Units (R31) -/

/-- The length of the unit at the front of a list of entries, of which at most `room` may still belong to it; none
while its last entry is not there. -/
def unitLength : Nat → List Entry → Option Nat
  | 0, _ => none
  | _ + 1, [] => none
  | 1, _ :: _ => some 1
  | room + 2, e :: rest => if WorkEntry.bundleNext e then (unitLength (room + 1) rest).map (· + 1) else some 1

/-- The ring's next unit, once it is complete in the prefetch buffer (R31). -/
def nextUnit (buffer : List Entry) : Option (List Entry) :=
  (unitLength 4 buffer).map fun n => buffer.take n

/-! ## The stall timer (R146) -/

/-- Whether a work ring takes units and fetches entries in its state (R120). -/
def RingPhase.runs : RingPhase → Bool
  | .active | .deleting .drain => true
  | _ => false

/-- A work ring waits with a complete unit of more entries than its result ring has credit. -/
def waitsForCredit (q : ResultRing) (rr : RingId) (w : WorkRing) : Bool :=
  w.boundTo == rr && w.phase.runs &&
    match nextUnit w.prefetch with
    | some unit => decide (q.credit < unit.length)
    | none => false

/-- Whether a result ring is credit-blocked (R146). -/
def creditBlocked (s : State) (rr : RingId) (q : ResultRing) : Bool :=
  !s.faults.failed && s.resetPhase == .operating &&
    s.rings.work.toList.any fun w => match w with
      | some w => waitsForCredit q rr w
      | none => false

/-- The stall state of one result ring follows its credit-blocked condition (R146). -/
def stallCheckOne (s : State) (rr : RingId) : State :=
  match s.rings.results[rr] with
  | none => s
  | some q =>
    match q.stall with
    | .idle => if creditBlocked s rr q then s.setResult rr (some { q with stall := .timing s.now }) else s
    | .timing _ => if creditBlocked s rr q then s else s.setResult rr (some { q with stall := .idle })
    | .expired => s

/-- The stall states of all result rings (R146). -/
def stallCheck (s : State) : State := (List.finRange 15).foldl stallCheckOne s

/-! ## The end of a deletion (R133, R134) -/

/-- The DELETE_WORK_RING that waits for this ring completes DONE. -/
def completeDelete (r : RingId) (s : State) : State :=
  match runningProgress s with
  | some (.deleteRing r') => if r' = r then completeCommand .done 0 s else s
  | _ => s

/-- In DRAIN mode an incomplete unit at the end of the posted entries is dropped without results (R124). -/
def dropIncomplete (w : WorkRing) : WorkRing :=
  if w.phase = .deleting .drain ∧ w.fetch = w.post ∧ nextUnit w.prefetch = none then { w with prefetch := [] } else w

/-- Whether a DELETING ring has nothing left to wait for: in DRAIN mode every posted entry is taken or dropped, and in
either mode no entry is outstanding and no fetch read and no status write is in flight (R133, R134). -/
def deletionOver (w : WorkRing) (st : StatusWrite) : Bool :=
  (match w.phase with
    | .deleting .drain => w.fetch == w.post && w.prefetch.isEmpty
    | .deleting .discard => true
    | _ => false) &&
  w.outstanding.isEmpty && w.fetchRead.isNone && st == .idle

/-- A DELETING ring drops an incomplete last unit, and becomes ABSENT when nothing is left (R133, R134). -/
def deleteCheck (r : RingId) (s : State) : State :=
  match s.rings.work[r] with
  | none => s
  | some w =>
    let w := dropIncomplete w
    if deletionOver w s.rings.status[statusEntryOf r] then completeDelete r (s.setWork r none)
    else s.setWork r (some w)

/-- `deleteCheck` for the ring that the running DELETE_WORK_RING waits for. -/
def deleteCheckRunning (s : State) : State :=
  match runningProgress s with
  | some (.deleteRing r) => deleteCheck r s
  | _ => s

/-- A drain that is turned into a discard, or a discard as it begins: every entry of the prefetch buffer is dropped
(R134). -/
def WorkRing.discard (w : WorkRing) : WorkRing := { w with phase := .deleting .discard, prefetch := [] }

/-! ## Slots (R87) -/

/-- The slot that holds a record, if one does. -/
def findSlot (s : State) (record : Nat) : Option SlotId :=
  (List.finRange 64).find? fun k => match s.cache.slots[k] with
    | some x => x.record == record
    | none => false

/-- Frees a slot: its fields become absent and it leaves the recency order (R87). -/
def freeSlot (k : SlotId) (s : State) : State :=
  (s.setSlot k none).setRecency (s.cache.recency.filter (· != k))

/-- A slot leaves the awaited set of a running flush (R100). -/
def unawait (k : SlotId) (s : State) : State :=
  match runningProgress s with
  | some (.flush awaited) => setProgress (.flush (awaited.filter fun a => a.slot != k)) s
  | _ => s

/-- Whether some slot holds a record of a region. -/
def holdsRegion (s : State) (rg : RegionId) : Bool :=
  s.cache.slots.toList.any fun x => match x with
    | some x => x.region == rg
    | none => false

/-- Adds lanes to the dirty-lane set; dirty since takes the time at which the set becomes non-empty (R85). -/
def Resident.addDirty (c : Resident) (set : LaneSet) (now : Nat) : Resident :=
  { c with
    dirty := c.dirty ||| set
    dirtySince := if c.dirty = 0 ∧ set ≠ 0 then some now else c.dirtySince }

/-- A RESIDENT slot with its image as it becomes resident (R96, R97). -/
def Resident.entered (image : Record) (set : LaneSet) (now : Nat) : Resident :=
  { image := Image.fresh image, dirty := set, dirtySince := if set = 0 then none else some now, writeBack := false }

/-- The write-back of a slot whose image is sound: the job is issued with copies of the image and of the dirty-lane
set, the set is emptied and the write-back is in flight (R93). -/
def issueWriteBack (k : SlotId) (x : Slot) (c : Resident) (s : State) : State :=
  (s.setSlot k (some { x with
    phase := .resident { c with dirty := 0, dirtySince := none, writeBack := true } })).setStore
    (s.store.issueJob (.writeBack k x.record c.image.lanes c.dirty))

/-- The fault of a parity mismatch found at the start of a write-back (R86). -/
def writeBackParityFault (x : Slot) : RaisedFault :=
  { cls := .internalCheck, source := .none, record := some x.record, region := some x.region }

/-- Whether a slot holds an image. -/
def Slot.isResident (x : Slot) : Bool :=
  match x.phase with
  | .resident _ => true
  | _ => false

/-- Frees a slot that still holds a record whose image is unsound; no flush waits for it any longer (R86). -/
def dropUnsound (k : SlotId) (record : Nat) (s : State) : State :=
  match s.cache.slots[k] with
  | some x => if x.record = record ∧ x.isResident = true then freeSlot k (unawait k s) else s
  | none => s

/-- Starts a write-back on a RESIDENT slot that is dirty and has none in flight; a parity mismatch raises
INTERNAL_CHECK and frees the slot without writing (R86, R93). -/
def startWriteBackWith (raise : RaisedFault → State → State) (k : SlotId) (s : State) : State :=
  match s.cache.slots[k] with
  | some x =>
    match x.phase with
    | .resident c =>
      if c.dirty = 0 ∨ c.writeBack = true then s
      else if c.image.sound then issueWriteBack k x c s
      else dropUnsound k x.record (raise (writeBackParityFault x) s)
    | _ => s
  | none => s

/-- The release of one slot: a clean one is freed, a dirty one has a write-back started, one being written back or
filled waits for its completion (R101, R102). -/
def releaseSlotWith (raise : RaisedFault → State → State) (k : SlotId) (s : State) : State :=
  match s.cache.slots[k] with
  | some x =>
    match x.phase with
    | .resident c =>
      if c.writeBack then s
      else if c.dirty = 0 then freeSlot k s
      else startWriteBackWith raise k s
    | _ => s
  | none => s

/-- The release of every slot that `p` selects, in ascending slot number (R101, R102). -/
def releaseSlotsWith (raise : RaisedFault → State → State) (p : Slot → Bool) (s : State) : State :=
  (List.finRange 64).foldl
    (fun acc k => match acc.cache.slots[k] with
      | some x => if p x then releaseSlotWith raise k acc else acc
      | none => acc) s

/-! ## The retire of a region (R12) -/

/-- Whether a context names a region: some record of its list was named through it (R59). -/
def contextNames (rg : RegionId) (c : Context) : Bool := c.records.any fun i => i.region == rg

/-- Whether any context names a region. -/
def regionNamed (s : State) (rg : RegionId) : Bool :=
  s.contexts.toList.any fun c => match c with
    | some c => contextNames rg c
    | none => false

/-- When no slot holds a record of the retiring region, the descriptor becomes UNDEFINED and the RETIRE_REGION
completes (R12, R101). -/
def retireFinish (s : State) : State :=
  match runningProgress s with
  | some (.retireRelease rg probes) =>
    if holdsRegion s rg then s
    else completeCommand .done (BitVec.ofNat 32 probes) (s.setRegion rg Region.cleared)
  | _ => s

/-- The two phases of a running RETIRE_REGION (R12). -/
def retireCheckWith (raise : RaisedFault → State → State) (s : State) : State :=
  match runningProgress s with
  | some (.retireWait rg probes) =>
    if regionNamed s rg then s
    else retireFinish (releaseSlotsWith raise (fun x => x.region == rg) (setProgress (.retireRelease rg probes) s))
  | some (.retireRelease _ _) => retireFinish s
  | _ => s

/-- A flush whose awaited set is empty completes (R100). -/
def flushCheck (s : State) : State :=
  match runningProgress s with
  | some (.flush []) => completeCommand .done 0 s
  | _ => s

/-- During a function reset a DRAINING region becomes UNDEFINED when no slot holds a record of it (R18). -/
def drainingCheck (s : State) : State :=
  if s.resetPhase = .functionReset then
    { s with
      regions := Vector.ofFn fun rg : RegionId =>
        if s.regions[rg].phase = .draining ∧ holdsRegion s rg = false then Region.cleared else s.regions[rg] }
  else s

/-! ## Abandonment (R78) -/

/-- What the abandonment of every context leaves of a slot: an AWAITING_STORE slot is freed, any other keeps its
state with an empty claim queue (R78, R102, R103). -/
def Slot.abandoned (x : Slot) : Option Slot :=
  match x.phase with
  | .awaitingStore => none
  | _ => some { x with claims := [] }

/-- Abandons every context: no result is handed, every queue is left, and transfers in flight run on unheeded (R78). -/
def abandonContexts (s : State) : State :=
  let s1 := unheed TransferKind.ofContext s
  { s1 with
    contexts := Vector.replicate 16 none
    cache := { s1.cache with slots := s1.cache.slots.map fun x => x.bind Slot.abandoned, requests := [] } }

/-! ## The fault unit (R174 to R177) -/

/-- The policy in force for a class (R172). -/
def FaultUnit.policy (u : FaultUnit) (c : FaultClass) : Policy := u.policies[c.index]

/-- The severity in force for a class: two classes are fixed at DEVICE_FATAL (R172). -/
def FaultUnit.severity (u : FaultUnit) (c : FaultClass) : Severity :=
  if c.fixed then .deviceFatal else (u.policy c).severity

/-- A class joins the seen-class set. -/
def FaultUnit.see (u : FaultUnit) (c : FaultClass) : FaultUnit :=
  { u with seen := u.seen ||| BitVec.ofNat 13 (2 ^ c.index.val) }

/-- A fault raised while the device is FAILED only joins the seen-class set (R177). -/
def noteFault (f : RaisedFault) (s : State) : State := s.setFaults (s.faults.see f.cls)

/-- Ends one DELETING ring at the entry into FAILED: it becomes ABSENT, its reservations are released, its fetch read
runs on unheeded, and its DELETE_WORK_RING completes DONE (R135). That a later failure of that read raises nothing is
DESIGN CHOICE: R124 speaks of its completion alone (notes/assumptions/41.md). -/
def failDeleting (s : State) (r : RingId) : State :=
  match s.rings.work[r] with
  | none => s
  | some w =>
    match w.phase with
    | .deleting _ =>
      let s1 := unheed (fun k => k.asFetchRead == some r) (s.setWork r none)
      let s2 := match s1.rings.results[w.boundTo] with
        | some q => s1.setResult w.boundTo (some { q with reserved := q.reserved - w.outstanding.length })
        | none => s1
      completeDelete r s2
    | _ => s

/-- A ring in stall TIMING returns to IDLE (R146). -/
def ResultRing.stopTiming (q : ResultRing) : ResultRing :=
  match q.stall with
  | .timing _ => { q with stall := .idle }
  | _ => q

/-- Every result ring in stall TIMING returns to IDLE at the entry into FAILED (R146). -/
def stopTiming (s : State) : State :=
  s.setRings { s.rings with results := s.rings.results.map fun q => q.map ResultRing.stopTiming }

/-- The entry into FAILED (R176). A running DELETE_WORK_RING or RETIRE_REGION that it lets end completes here, within the
handling of the fault: DESIGN CHOICE (notes/assumptions/40.md). -/
def enterFailed (s : State) : State :=
  let s1 := abandonContexts (s.setFaults { s.faults with failed := true })
  let s2 := stopTiming ((List.finRange 15).foldl failDeleting s1)
  retireCheckWith noteFault s2

/-- The fault unit halts a ring (R132). Where the halt turns a drain into a discard that is over at once, the
DELETE_WORK_RING completes there, after this ring's notice and before what the fault still does to other rings: R132
gives it no place among the notices, and this one is DESIGN CHOICE (notes/assumptions/40.md). -/
def haltRing (r : RingId) (s : State) : State :=
  match s.rings.work[r] with
  | none => s
  | some w =>
    match w.phase with
    | .active | .paused => raiseNotice (.ringHalted r) (s.setWork r (some { w with phase := .halted }))
    | .deleting .drain => deleteCheck r (raiseNotice (.ringHalted r) (s.setWork r (some w.discard)))
    | .halted | .deleting .discard => s

/-- Whether a work ring is bound to a result ring. -/
def boundTo (s : State) (rr r : RingId) : Bool :=
  match s.rings.work[r] with
  | some w => w.boundTo == rr
  | none => false

/-- Halts every work ring bound to a result ring, in ascending ring number (R175). -/
def haltBound (rr : RingId) (s : State) : State :=
  (List.finRange 15).foldl (fun acc r => if boundTo acc rr r then haltRing r acc else acc) s

/-- Applies a fault's severity (R175). -/
def applySeverity (f : RaisedFault) (s : State) : State :=
  match s.faults.severity f.cls with
  | .advisory => s
  | .deviceFatal => enterFailed s
  | .ringFatal =>
    match f.source with
    | .workRing r => haltRing r s
    | .resultRing rr => haltBound rr s
    | .adminRing | .store | .none => s

/-- Step 2 of R174: the first UNMASKED fault is captured with a notice, a further one sets the later-faults flag. -/
def captureFault (f : RaisedFault) (s : State) : State :=
  if (s.faults.policy f.cls).masked then s
  else
    match s.faults.capture with
    | none => raiseNotice .faultCaptured (s.setFaults { s.faults with capture := some f })
    | some _ => s.setFaults { s.faults with later := true }

/-- The handling of a raised fault (R174, R177). -/
def raiseFault (f : RaisedFault) (s : State) : State :=
  if s.faults.failed then noteFault f s
  else applySeverity f (captureFault f (noteFault f s))

/-- Raises faults in order, each handled whole before the next (R173). -/
def raiseFaults (fs : List RaisedFault) (s : State) : State := fs.foldl (fun acc f => raiseFault f acc) s

/-- Starts a write-back (R93). -/
def startWriteBack (k : SlotId) (s : State) : State := startWriteBackWith raiseFault k s

/-- The two phases of a running RETIRE_REGION (R12). -/
def retireCheck (s : State) : State := retireCheckWith raiseFault s

end Sys2Proof.Machine
end

