-- ==== Sys2Proof/Machine/Results.lean ====
section
/-! DEFINITION. Results: posting them, retiring the work ring, the interrupt message, and the ways a context ends
(R72, R75, R129, R139, R144, R145). -/

namespace Sys2Proof.Machine

/-! ## Posting (R139) -/

/-- What is posted for one entry of a work ring. -/
structure Posting where
  ringSlot : Nat
  tag : BitVec 16
  outcome : MemberOutcome
  deriving DecidableEq, Repr

/-- The posting of an entry with an outcome. -/
def Posting.of (slot : Nat) (e : Entry) (o : MemberOutcome) : Posting :=
  { ringSlot := slot, tag := WorkEntry.tag e, outcome := o }

/-- What posting one entry does to its result ring: the produce index, the reserved count, the serial and the
unsignalled count move (R139). -/
def ResultRing.posted (q : ResultRing) (now : Nat) : ResultRing :=
  { q with
    produce := ringNext q.size q.produce
    reserved := q.reserved - 1
    serial := q.serial + 1
    unsignalled := q.unsignalled + 1
    firstUnsignalled := if q.unsignalled = 0 then some now else q.firstUnsignalled }

/-- A slot leaves a work ring's outstanding set (R129). -/
def endOutstanding (r : RingId) (slot : Nat) (s : State) : State :=
  match s.rings.work[r] with
  | some w => s.setWork r (some { w with outstanding := w.outstanding.filter (· != slot) })
  | none => s

/-- Posts one result of work ring `r` into a reserved entry of result ring `rr`, as member `member` of `count` (R139). -/
def postResult (r rr : RingId) (member count : Nat) (p : Posting) (s : State) : State :=
  match s.rings.results[rr] with
  | none => s
  | some q =>
    endOutstanding r p.ringSlot
      ((issueWrite (.result rr q.produce q.serial) (itemAddr q.base 16 q.produce)
        (resultEntryBytes p.tag r p.ringSlot p.outcome member count q.serial) s).setResult rr (some (q.posted s.now)))

/-- Posts results in member order, the first as member `member` of `count`. -/
def postFrom (r rr : RingId) (count : Nat) : Nat → List Posting → State → State
  | _, [], s => s
  | member, p :: rest, s => postFrom r rr count (member + 1) rest (postResult r rr member count p s)

/-! ## Retirement (R129, R130) -/

/-- Where the retire index comes to when at most `fuel` slots can be passed: it stops at the take index and at the
first outstanding slot (R129). -/
def retireFrom (w : WorkRing) : Nat → Nat → Nat
  | 0, i => i
  | fuel + 1, i => if i = w.take ∨ w.outstanding.contains i then i else retireFrom w fuel (ringNext w.size i)

/-- The retire index after every finished slot is passed (R129). -/
def WorkRing.retired (w : WorkRing) : Nat := retireFrom w (ringGap w.size w.retire w.take) w.retire

/-- Retires what can be retired; a moved retire index is written into the status block (R129, R130). -/
def retireRing (r : RingId) (s : State) : State :=
  match s.rings.work[r] with
  | none => s
  | some w =>
    if w.retired = w.retire then s
    else writeStatus (statusEntryOf r) w.retired (s.setWork r (some { w with retire := w.retired }))

/-! ## Interrupt messages (R144, R145) -/

/-- A message is caused: the batch is cleared, and the message is written where messages are enabled (R144, R145). -/
def causeMessage (rr : RingId) (q : ResultRing) (s : State) : State :=
  let s1 := s.setResult rr (some { q with unsignalled := 0, firstUnsignalled := none })
  if q.msgEnabled then issueWrite (.message (some rr)) q.msgAddr (leBytes 4 q.msgData.toNat) s1 else s1

/-- Whether the end of a posting event causes a message: by count, or by a coalescing time of 0 (R144). -/
def ResultRing.messageDue (q : ResultRing) : Bool :=
  decide (q.coalesceCount ≤ q.unsignalled) || (q.coalesceTime == 0 && decide (0 < q.unsignalled))

/-- The coalescing check at the end of a posting event (R144). -/
def coalesceCheck (rr : RingId) (s : State) : State :=
  match s.rings.results[rr] with
  | none => s
  | some q => if q.messageDue then causeMessage rr q s else s

/-- A posting event: the results in member order, the status block write, the coalescing check (R139). -/
def postUnit (r : RingId) (posts : List Posting) (s : State) : State :=
  match s.rings.work[r] with
  | none => s
  | some w => coalesceCheck w.boundTo (retireRing r (postFrom r w.boundTo posts.length 1 posts s))

/-! ## Contexts (R64, R72, R75) -/

/-- A context leaves every claim queue it stands in, the others keeping their order (R72). -/
def leaveQueues (c : CtxId) (s : State) : State :=
  s.setCache { s.cache with
    slots := s.cache.slots.map fun x => x.map fun x => { x with claims := x.claims.filter (· != c) } }

/-- A context's request leaves the slot allocator's queue, the others keeping their order (R88). -/
def withdrawRequest (c : CtxId) (s : State) : State := s.setRequests (s.cache.requests.filter (· != c))

/-- What a context hands over for a member (R75). -/
def Member.posting (m : Member) : Posting :=
  Posting.of m.ringSlot m.entry (m.outcome.getD (MemberOutcome.untested .success))

/-- A context ends: it leaves every queue, its transfers run on unheeded, its fields become absent and its results
are handed over (R66, R68, R72, R75). -/
def endContext (c : CtxId) (s : State) : State :=
  match s.contexts[c] with
  | none => s
  | some x =>
    postUnit x.ring (x.members.map Member.posting)
      (unheed (fun k => k.asStoreRead == some c)
        (withdrawRequest c (leaveQueues c (s.setContext c none))))

/-- Whether a member names a record, as source or as destination. -/
def Member.names (m : Member) (record : Nat) : Bool := m.source == record || m.destination == some record

/-- Decides the outcomes of members that end without commit because of some records: those that name one get
`status`, the others of the bundle BUNDLE_ABANDONED (R63, R66, R68). -/
def failMembers (records : List Nat) (status : Status) (ms : List Member) : List Member :=
  ms.map fun m =>
    { m with
      outcome := some (MemberOutcome.untested (if records.any m.names then status else .bundleAbandoned)) }

/-- A context ends without commit because of some records (R63, R66, R68). -/
def failContext (records : List Nat) (status : Status) (c : CtxId) (s : State) : State :=
  match s.contexts[c] with
  | none => s
  | some x => endContext c (s.setContext c (some { x with members := failMembers records status x.members }))

/-- The fault a member raises when it completes after take with a status of its own (R76). -/
def memberFault (cls : FaultClass) (r : RingId) (m : Member) (record : Nat) : RaisedFault :=
  { cls := cls, source := .workRing r, slotIndex := some m.ringSlot, tag := some (WorkEntry.tag m.entry),
    region := some (WorkEntry.region m.entry), record := some record, image := some (imageHead m.entry) }

/-- The POISON_HIT faults of a context that ends POISONED because of some records, in member order. R63 and R76 give
no order of a bundle's faults, and this one is DESIGN CHOICE (notes/assumptions/38.md). -/
def poisonFaults (records : List Nat) (x : Context) : List RaisedFault :=
  x.members.filterMap fun m => (records.find? m.names).map fun n => memberFault .poisonHit x.ring m n

/-- Whether the single member of a context is a STORE. -/
def Context.isStore (x : Context) : Bool :=
  match x.members with
  | [m] => WorkEntry.opcode m.entry == some .store
  | _ => false

/-- Whether a slot is one a commit can be taken on: RESIDENT, or AWAITING_STORE for the STORE that heads it (R64). -/
def Slot.openTo (x : Slot) (c : CtxId) : Bool :=
  x.claims.head? == some c &&
    match x.phase with
    | .resident _ | .awaitingStore => true
    | .filling => false

/-- The conditions of R64: the context heads every queue it stands in, every slot it holds can take its commit, and a
STORE has its data. -/
def readyToCommit (s : State) (c : CtxId) (x : Context) : Bool :=
  (x.records.all fun i => match i.slot with
    | some k =>
      match s.cache.slots[k] with
      | some y => y.openTo c
      | none => false
    | none => false) &&
  (!x.isStore || x.storeData.isSome)

/-- Every context in CLAIMING that meets the conditions of R64 enters READY. -/
def readyCheck (s : State) : State :=
  { s with
    contexts := Vector.ofFn fun c : CtxId =>
      match s.contexts[c] with
      | some x =>
        if x.phase = .claiming ∧ readyToCommit s c x = true then some { x with phase := .ready } else some x
      | none => none }

end Sys2Proof.Machine
end

