-- ==== Sys2Proof/Machine/Allocator.lean ====
section
/-! DEFINITION. The slot allocator: its evaluation of the head request, grants, eviction and write-back pressure
(R62, R63, R88 to R92), and the reactions that follow a change of slots or contexts within one event. -/

namespace Sys2Proof.Machine

/-! ## The quantities of R89 -/

/-- Whether no slot holds a record. -/
def unheld (s : State) (record : Nat) : Bool := (findSlot s record).isNone

/-- The records of a context's list, ascending. -/
def Context.recordNumbers (x : Context) : List Nat := x.records.map RecordItem.record

/-- The records of a request that is not a STORE which no slot holds and which are listed as poisoned (R63, R89). -/
def poisonedItems (s : State) (x : Context) : List Nat :=
  if x.isStore then [] else x.recordNumbers.filter fun n => unheld s n && s.store.poisoned n

/-- The number of new slots a request needs (R89). -/
def slotNeed (s : State) (x : Context) : Nat :=
  if (poisonedItems s x).isEmpty then x.recordNumbers.countP (unheld s) else 0

/-- Whether a slot is RESIDENT, unclaimed and holds no record of the request's own list, with a given content (R89). -/
def idleResident (x : Context) (p : Resident → Bool) (y : Slot) : Bool :=
  y.claims.isEmpty && !x.recordNumbers.contains y.record &&
    match y.phase with
    | .resident c => p c
    | _ => false

/-- A spare slot: clean, with no write-back in flight (R89). -/
def spareSlot (x : Context) : Slot → Bool := idleResident x fun c => c.dirty == 0 && !c.writeBack

/-- A cleaning slot: a write-back in flight, and nothing dirty (R92). -/
def cleaningSlot (x : Context) : Slot → Bool := idleResident x fun c => c.dirty == 0 && c.writeBack

/-- A stale slot: dirty, with no write-back in flight (R92). -/
def staleSlot (x : Context) : Slot → Bool := idleResident x fun c => c.dirty != 0 && !c.writeBack

/-- How many slots that are not FREE have a property. -/
def countSlots (s : State) (p : Slot → Bool) : Nat :=
  s.cache.slots.toList.countP fun y => match y with
    | some y => p y
    | none => false

/-- The number of FREE slots. -/
def freeSlots (s : State) : Nat := s.cache.slots.toList.countP Option.isNone

/-- FREE and spare slots (R89). -/
def slotsAvailable (s : State) (x : Context) : Nat := freeSlots s + countSlots s (spareSlot x)

/-- The head request is granted when available is at least need (R89). -/
def grantable (s : State) (x : Context) : Bool := decide (slotNeed s x ≤ slotsAvailable s x)

/-! ## The grant (R62, R63, R91) -/

/-- The slots of the recency order that have a property, least recently claimed first. -/
def recentSlots (s : State) (p : Slot → Bool) : List SlotId :=
  s.cache.recency.filter fun k => match s.cache.slots[k] with
    | some y => p y
    | none => false

/-- The slot given for a new record: the lowest-numbered FREE slot, else the spare slot earliest in the recency order
(R91). -/
def chooseSlot (s : State) (x : Context) : Option SlotId :=
  match (List.finRange 64).find? fun k => (s.cache.slots[k]).isNone with
  | some k => some k
  | none => (recentSlots s (spareSlot x)).head?

/-- A RESIDENT slot moves to, or enters at, the most recent end of the recency order (R84). -/
def mostRecent (k : SlotId) (s : State) : State := s.setRecency (s.cache.recency.filter (· != k) ++ [k])

/-- A context joins the claim queue of a slot at the tail; a RESIDENT slot becomes the most recently claimed (R62, R84). -/
def joinSlot (k : SlotId) (c : CtxId) (s : State) : State :=
  match s.cache.slots[k] with
  | none => s
  | some y =>
    let s1 := s.setSlot k (some { y with claims := y.claims ++ [c] })
    match y.phase with
    | .resident _ => mostRecent k s1
    | _ => s1

/-- A slot is given to a new record: it leaves the recency order, and becomes FILLING with a fill issued, or
AWAITING_STORE for a STORE to a poisoned record (R62, R91). -/
def giveSlot (k : SlotId) (c : CtxId) (i : RecordItem) (s : State) : State :=
  let awaiting := s.store.poisoned i.record
  let phase := if awaiting then SlotPhase.awaitingStore else .filling
  let s1 := (freeSlot k s).setSlot k (some { phase := phase, record := i.record, region := i.region, claims := [c] })
  if awaiting then s1 else s1.setStore (s1.store.issueJob (.fill k i.record))

/-- Serves one record item of a granted request: the held record is joined, a new slot is given otherwise. -/
def grantItem (x : Context) (c : CtxId) (i : RecordItem) (s : State) : RecordItem × State :=
  match findSlot s i.record with
  | some k => ({ i with slot := some k }, joinSlot k c s)
  | none =>
    match chooseSlot s x with
    | some k => ({ i with slot := some k }, giveSlot k c i s)
    | none => (i, s)

/-- Serves the items of a granted request in ascending record order (R62, R91). -/
def grantItems (x : Context) (c : CtxId) : List RecordItem → State → List RecordItem × State
  | [], s => ([], s)
  | i :: rest, s =>
    let (i', s1) := grantItem x c i s
    let (rest', s2) := grantItems x c rest s1
    (i' :: rest', s2)

/-- The grant of a request that names no unheld poisoned record: the context joins or receives its slots and enters
CLAIMING (R62). -/
def grantSlots (c : CtxId) (x : Context) (s : State) : State :=
  let (items, s1) := grantItems x c x.records s
  s1.setContext c (some { x with phase := .claiming, records := items })

/-- The grant that ends the context POISONED: no slot is taken, the results are handed over, and the faults are
raised (R63, R76). -/
def grantPoisoned (c : CtxId) (x : Context) (s : State) : State :=
  let records := poisonedItems s x
  raiseFaults (poisonFaults records x) (failContext records .poisoned c s)

/-- The grant of the request of context `c` (R62). -/
def grant (c : CtxId) (s : State) : State :=
  match s.contexts[c] with
  | none => withdrawRequest c s
  | some x =>
    let s1 := withdrawRequest c s
    readyCheck (if (poisonedItems s x).isEmpty then grantSlots c x s1 else grantPoisoned c x s1)

/-! ## Pressure (R92) -/

/-- How many write-backs the waiting head request calls for (R92). -/
def shortfall (s : State) (x : Context) : Nat :=
  slotNeed s x - slotsAvailable s x - countSlots s (cleaningSlot x)

/-- Starts write-backs on stale slots to cover the shortfall, least recently claimed first. A write-back start that
fails the device empties the request queue, and then no more are started (R90, R92). -/
def pressure (x : Context) (s : State) : State :=
  ((recentSlots s (staleSlot x)).take (shortfall s x)).foldl
    (fun acc k => if acc.cache.requests.isEmpty then acc else startWriteBack k acc) s

/-! ## Evaluation (R90) -/

/-- Evaluates the head request: grants it and goes on with the next, or applies pressure. `fuel` bounds the grants. -/
def evaluateFrom : Nat → State → State
  | 0, s => s
  | fuel + 1, s =>
    match s.cache.requests with
    | [] => s
    | c :: _ =>
      match s.contexts[c] with
      | none => evaluateFrom fuel (withdrawRequest c s)
      | some x => if grantable s x then evaluateFrom fuel (grant c s) else pressure x s

/-- The allocator's evaluation at an event that changes a quantity of R89 (R90). -/
def evaluate (s : State) : State := evaluateFrom (s.cache.requests.length + 1) s

/-! ## Reactions within an event -/

/-- What follows a change of slots, claim queues, contexts or work rings within one event: contexts become READY
(R64), a retire goes on (R12, R101), the allocator evaluates its head (R90), a flush (R100), a reset of a DRAINING
region (R18) and a deletion (R133, R134) reach their ends, and the stall states follow (R146). A grant that ends a
context may end the first phase of a retire, whose freed slots the allocator then sees. -/
def settle (s : State) : State :=
  stallCheck (deleteCheckRunning (drainingCheck (flushCheck
    (evaluate (retireCheck (evaluate (retireCheck (readyCheck s))))))))

end Sys2Proof.Machine
end

