-- ==== Sys2Proof/Machine/Resets.lean ====
section
/-! DEFINITION. Power-on reset, function reset and link reset (R185, R186). -/

namespace Sys2Proof.Machine

/-- The outcome of a meaning. -/
abbrev Result := Host.Outcome State Fault Refusal

/-! ## Power-on reset -/

/-- The store size that the strap pins select (R117). -/
def strapSize (sz1 sz0 : Bool) : Nat :=
  match sz1, sz0 with
  | false, false => 33554432
  | false, true => 67108864
  | true, false => 134217728
  | true, true => 33554432

/-- The state at a power-on reset: every block as its chapter gives it, S from the strap, DRAM content arbitrary, and
RESETTING set (R16, R103, R117, R118, R135, R149, R164, R171, R181, R186). Transfers of before are unheeded. -/
def powerOn (sz1 sz0 : Bool) (s : State) : State :=
  { State.reset with
    link := (unheed (fun _ => true) s).link
    resetPhase := .powerOn
    store := { State.reset.store with size := strapSize sz1 sz0, powerOns := s.store.powerOns + 1 }
    now := s.now
    pending := s.pending }

/-- POWER_ON_RESET (R186). -/
def execPowerOnReset (sz1 sz0 : Bool) (s : State) : Result := .next (powerOn sz1 sz0 s)

/-- The strap is read and the DRAM interface is ready: every register holds its reset value and the part is READY. -/
def powerOnDone (s : State) : State := (s.setRegs Registers.reset).setResetPhase .operating

/-- POWER_ON_READY (R186): it occurs while a power-on reset is under way. -/
def execPowerOnReady (s : State) : Result :=
  .next (if s.resetPhase = .powerOn then powerOnDone s else s)

/-! ## Function reset -/

/-- What the blocks lose at once at the request of a function reset (R79, R102, R135, R149, R164, R171): contexts,
rings, admin state, notices, probes and the cleaner's age limit; transfers in flight run on unheeded. -/
def dropAtReset (s : State) : State :=
  ((((unheed (fun _ => true) (abandonContexts s)).setRings Rings.reset).setAdmin Admin.reset).setProbes
    (Vector.replicate 4 .disarmed)).setAgeLimit Config.defaultAgeLimit

/-- The request of a function reset (R185): the blocks' reactions, and the release of every slot (R102). -/
def functionReset (s : State) : State :=
  drainingCheck (releaseSlotsWith raiseFault (fun _ => true) (dropAtReset (s.setResetPhase .functionReset)))

/-- A request of a function reset begins one, or joins the reset that is under way (R185). -/
def requestReset (s : State) : State :=
  if s.resetPhase = .operating then functionReset s else s

/-- LINK_RESET (R185). -/
def execLinkReset (s : State) : Result := .next (requestReset s)

/-- RESET: a write of DEV_CONTROL with RESET 1. ADMIN_MSG_EN takes the value written; ENABLE written with RESET is not
acted on (R184). While RESETTING is set the write is ignored (R185). -/
def execReset (_enable msgEn : Bool) (s : State) : Result :=
  .next (if s.resetPhase = .operating then functionReset (s.setRegs { s.regs with adminMsgEn := msgEn }) else s)

/-- Whether both reports of R185 stand: every slot is FREE and no job is in flight (R118). -/
def resetReported (s : State) : Bool :=
  s.resetPhase == .functionReset && s.cache.slots.toList.all Option.isNone && s.store.jobs.isEmpty

/-- The end of a function reset: registers at their reset values, FAILED and ADMIN_HALTED clear, READY set (R185). -/
def resetDone (s : State) : State :=
  ((s.setRegs Registers.reset).setFaults { s.faults with failed := false }).setResetPhase .operating

/-- RESET_END (R185): it occurs when both reports stand. -/
def execResetEnd (s : State) : Result :=
  .next (if resetReported s then resetDone s else s)

end Sys2Proof.Machine
end

