-- ==== Sys2Proof/Machine/Registers.lean ====
section
/-! DEFINITION. The register window (R183, R184), posts and releases of work, result and admin rings (R122, R123, R143,
R152, R159), and the opening of the admin rings (R151). -/

namespace Sys2Proof.Machine

/-! ## DEV_CONTROL -/

/-- A power of two from 16 to 256 (R151). -/
def validAdminSize (n : Nat) : Bool := [16, 32, 64, 128, 256].contains n

/-- The admin work ring size Nw and the admin result ring size Nr of ADMIN_SIZES (R183). -/
def adminWorkSize (r : Registers) : Nat := (r.adminSizes.extractLsb' 0 16).toNat
def adminResultSize (r : Registers) : Nat := (r.adminSizes.extractLsb' 16 16).toNat

/-- The configuration checks of R151. -/
def validAdminConfig (r : Registers) : Bool :=
  validAdminSize (adminWorkSize r) && validAdminSize (adminResultSize r) && r.adminWorkBase.toNat % 128 == 0 &&
    r.adminResultBase.toNat % 16 == 0 && r.statusBlockBase.toNat % 8 == 0

/-- The admin rings as they open (R151). -/
def openedRings (r : Registers) : AdminRings :=
  { workBase := r.adminWorkBase, workSize := adminWorkSize r, resultBase := r.adminResultBase,
    resultSize := adminResultSize r, statusBase := r.statusBlockBase, post := 0, consumer := 0, command := .none,
    produce := 0, release := 0, reserved := 0, serial := 0 }

/-- Leaves DISABLED: the admin rings open and the pending notices are posted, or the controller is HALTED without a
configuration (R151). -/
def openAdmin (s : State) : State :=
  if validAdminConfig s.regs then
    considerAdminRead (postPending
      (((s.setAdminPhase .opened).setAdminRings (some (openedRings s.regs))).setStatus 0 .idle))
  else ((s.setAdminPhase .halted).setAdminRings none).setRegs { s.regs with adminHalted := true }

/-- A write of DEV_CONTROL without RESET: ADMIN_MSG_EN takes its value, and ENABLE written 1 while clear opens the
admin rings; written 0 it is ignored (R184). -/
def writeDevControl (enable msgEn : Bool) (s : State) : State :=
  let s1 := s.setRegs { s.regs with adminMsgEn := msgEn }
  if enable && !s.regs.enable then openAdmin (s1.setRegs { s1.regs with enable := true }) else s1

/-- While RESETTING is set every register write is ignored (R185, R186). -/
def registerWrite (f : State → State) (s : State) : State :=
  if s.resetPhase = .operating then event f s else s

/-- ENABLE (R151, R184). -/
def execEnable (msgEn : Bool) (s : State) : Result := .next (registerWrite (writeDevControl true msgEn) s)

/-- ADMIN_MSG_EN (R184). -/
def execAdminMsgEn (msgEn : Bool) (s : State) : Result := .next (registerWrite (writeDevControl false msgEn) s)

/-! ## The other registers -/

/-- Sets one 32-bit half of a 64-bit register: the low half, or the high half (R183). -/
def setHalf (old : BitVec 64) (high : Bool) (v : BitVec 32) : BitVec 64 :=
  if high then v ++ old.extractLsb' 0 32 else old.extractLsb' 32 32 ++ v

/-- The registers after an aligned 32-bit write at an offset; an offset of a read-only register or of none changes
nothing (R183). -/
def writeWord32 (r : Registers) (offset : Nat) (v : BitVec 32) : Registers :=
  match offset with
  | 0x010 => { r with adminWorkBase := setHalf r.adminWorkBase false v }
  | 0x014 => { r with adminWorkBase := setHalf r.adminWorkBase true v }
  | 0x018 => { r with adminResultBase := setHalf r.adminResultBase false v }
  | 0x01C => { r with adminResultBase := setHalf r.adminResultBase true v }
  | 0x020 => { r with adminSizes := v }
  | 0x028 => { r with statusBlockBase := setHalf r.statusBlockBase false v }
  | 0x02C => { r with statusBlockBase := setHalf r.statusBlockBase true v }
  | 0x030 => { r with adminMsgAddr := setHalf r.adminMsgAddr false v }
  | 0x034 => { r with adminMsgAddr := setHalf r.adminMsgAddr true v }
  | 0x038 => { r with adminMsgData := v }
  | _ => r

/-- The registers after an aligned 64-bit write at the offset of a 64-bit register (R183). -/
def writeWord64 (r : Registers) (offset : Nat) (v : BitVec 64) : Registers :=
  match offset with
  | 0x010 => { r with adminWorkBase := v }
  | 0x018 => { r with adminResultBase := v }
  | 0x028 => { r with statusBlockBase := v }
  | 0x030 => { r with adminMsgAddr := v }
  | _ => r

/-- A write to an admin configuration register is taken while ENABLE is clear, and is otherwise ignored (R184). -/
def writeConfig (offset : Nat) (width : AccessWidth) (v : BitVec 64) (s : State) : State :=
  if s.regs.enable then s
  else
    s.setRegs (match width with
      | .word32 => writeWord32 s.regs offset (v.extractLsb' 0 32)
      | .word64 => writeWord64 s.regs offset v)

/-- REGISTER_WRITE (R183, R184). -/
def execRegisterWrite (offset : Nat) (width : AccessWidth) (v : BitVec 64) (s : State) : Result :=
  .next (registerWrite (writeConfig offset width v) s)

/-! ## Register reads (R183)

A read changes nothing, and the table has no row for it: `readRegister` says what a 32-bit read answers, and
`readRegister64` what a 64-bit read answers. -/

/-- IDENT: part number 4716, vendor code 5Ch, revision 01h. -/
def identValue : BitVec 32 := 0x126C5C01

/-- DEV_CONTROL as it reads: RESET reads 0. -/
def devControlValue (s : State) : BitVec 32 :=
  BitVec.ofNat 32 (flagBits [s.regs.enable, false, s.regs.adminMsgEn])

/-- DEV_STATUS: READY, RESETTING, FAILED, FAULT_HELD, ADMIN_HALTED. -/
def devStatusValue (s : State) : BitVec 32 :=
  BitVec.ofNat 32 (flagBits [s.resetPhase == .operating, s.resetPhase != .operating, s.faults.failed,
    s.faults.capture.isSome, s.regs.adminHalted])

/-- POST[n] as it reads: the ring's post index, 0 when the ring is ABSENT or the admin state DISABLED. In HALTED
without a configuration there is no post index, and POST[0] reads 0: DESIGN CHOICE (notes/assumptions/36.md). -/
def postValue (s : State) (n : Nat) : Nat :=
  if n = 0 then s.admin.rings.elim 0 (·.post)
  else match AdminEntry.ringOf n with
    | some r => (s.rings.work[r]).elim 0 (·.post)
    | none => 0

/-- RELEASE[n] as it reads: the ring's release index, 0 when ABSENT or DISABLED. In HALTED without a configuration there
is no release index, and RELEASE[0] reads 0: DESIGN CHOICE (notes/assumptions/36.md). -/
def releaseValue (s : State) (n : Nat) : Nat :=
  if n = 0 then s.admin.rings.elim 0 (·.release)
  else match AdminEntry.ringOf n with
    | some r => (s.rings.results[r]).elim 0 (·.release)
    | none => 0

/-- What an aligned 32-bit read answers; an offset not in the table reads 0. -/
def readRegister (s : State) (offset : Nat) : BitVec 32 :=
  match offset with
  | 0x000 => identValue
  | 0x004 => devControlValue s
  | 0x008 => devStatusValue s
  | 0x010 => s.regs.adminWorkBase.extractLsb' 0 32
  | 0x014 => s.regs.adminWorkBase.extractLsb' 32 32
  | 0x018 => s.regs.adminResultBase.extractLsb' 0 32
  | 0x01C => s.regs.adminResultBase.extractLsb' 32 32
  | 0x020 => s.regs.adminSizes
  | 0x028 => s.regs.statusBlockBase.extractLsb' 0 32
  | 0x02C => s.regs.statusBlockBase.extractLsb' 32 32
  | 0x030 => s.regs.adminMsgAddr.extractLsb' 0 32
  | 0x034 => s.regs.adminMsgAddr.extractLsb' 32 32
  | 0x038 => s.regs.adminMsgData
  | _ =>
    if 0x100 ≤ offset ∧ offset < 0x140 ∧ offset % 4 = 0 then BitVec.ofNat 32 (postValue s ((offset - 0x100) / 4))
    else if 0x200 ≤ offset ∧ offset < 0x240 ∧ offset % 4 = 0 then
      BitVec.ofNat 32 (releaseValue s ((offset - 0x200) / 4))
    else 0

/-- What an aligned 64-bit read answers: a 64-bit register, its low half at the lower offset. Such a read of another
offset answers 0: DESIGN CHOICE (notes/assumptions/18.md). -/
def readRegister64 (s : State) (offset : Nat) : BitVec 64 :=
  match offset with
  | 0x010 => s.regs.adminWorkBase
  | 0x018 => s.regs.adminResultBase
  | 0x028 => s.regs.statusBlockBase
  | 0x030 => s.regs.adminMsgAddr
  | _ => 0

/-! ## Posts to a work ring (R122, R123) -/

/-- Whether a work ring takes post writes in its state (R120). -/
def RingPhase.posts : RingPhase → Bool
  | .active | .paused | .halted => true
  | .deleting _ => false

/-- The check of a post write: below N, and going round from the retire index not behind the take index (R122). -/
def WorkRing.validPost (w : WorkRing) (p : Nat) : Bool :=
  decide (p < w.size) && decide (ringGap w.size w.retire w.take ≤ ringGap w.size w.retire p)

/-- Whether a valid post write moves the post index backward (R123). -/
def WorkRing.withdraws (w : WorkRing) (p : Nat) : Bool :=
  decide (ringGap w.size w.retire p < ringGap w.size w.retire w.post)

/-- The withdrawal of posted entries from the new post index on: they leave the prefetch buffer, the fetch index comes
back to the new post index, and a fetch read in flight becomes stale (R123). -/
def WorkRing.withdraw (w : WorkRing) (p : Nat) : WorkRing :=
  { w with
    prefetch := w.prefetch.take (ringGap w.size w.take p)
    fetch := if ringGap w.size w.retire p < ringGap w.size w.retire w.fetch then p else w.fetch
    fetchStale := w.fetchStale || w.fetchRead.isSome }

/-- A valid post write (R122, R123, R125). It clears fetch held even where the value written is the current post index:
R122 says that such a write changes nothing, R125 that a valid post index write clears fetch held, and this reading is
DESIGN CHOICE (notes/assumptions/33.md). -/
def WorkRing.posted (w : WorkRing) (p : Nat) : WorkRing :=
  { (if w.withdraws p then w.withdraw p else w) with post := p, fetchHeld := false }

/-- The fault of an invalid write to POST or RELEASE (R122, R143, R152, R159). -/
def protocolFault (source : FaultSource) (v : BitVec 32) : RaisedFault :=
  { cls := .hostProtocol, source := source, value := some v }

/-- A write to POST[n] (R122). -/
def writePost (r : RingId) (v : BitVec 32) (s : State) : State :=
  match s.rings.work[r] with
  | none => s
  | some w =>
    if !w.phase.posts then s
    else if w.validPost v.toNat then stallCheck (s.setWork r (some (w.posted v.toNat)))
    else settle (raiseFault (protocolFault (.workRing r) v) s)

/-- POST (R122, R123). -/
def execPost (r : RingId) (v : BitVec 32) (s : State) : Result := .next (registerWrite (writePost r v) s)

/-! ## Releases of a result ring (R143) -/

/-- The check of a release write: below N, and going round from the release index not past the produce index. -/
def ResultRing.validRelease (q : ResultRing) (v : Nat) : Bool :=
  decide (v < q.size) && decide (ringGap q.size q.release v ≤ ringGap q.size q.release q.produce)

/-- A valid release write: the credit rises, and a rise ends a stall episode (R143, R146). -/
def ResultRing.released (q : ResultRing) (v : Nat) : ResultRing :=
  { q with
    release := v
    stall := if q.stall = .expired ∧ 0 < ringGap q.size q.release v then .idle else q.stall }

/-- A write to RELEASE[n] (R143). -/
def writeRelease (rr : RingId) (v : BitVec 32) (s : State) : State :=
  match s.rings.results[rr] with
  | none => s
  | some q =>
    if q.validRelease v.toNat then stallCheck (s.setResult rr (some (q.released v.toNat)))
    else settle (raiseFault (protocolFault (.resultRing rr) v) s)

/-- RELEASE (R143). -/
def execRelease (rr : RingId) (v : BitVec 32) (s : State) : Result := .next (registerWrite (writeRelease rr v) s)

/-! ## The admin rings (R152, R159, R160) -/

/-- Whether a command is being read or run (R152). -/
def Command.busy : Command → Bool
  | .none => false
  | _ => true

/-- The check of a POST[0] write (R152). -/
def AdminRings.validPost (a : AdminRings) (p : Nat) : Bool :=
  decide (p < a.workSize) && !(a.command.busy && p == a.consumer)

/-- A write to POST[0] (R152). -/
def writeAdminPost (v : BitVec 32) (s : State) : State :=
  match s.admin.rings with
  | none => s
  | some a =>
    if a.validPost v.toNat then considerAdminRead (s.setAdminRings (some { a with post := v.toNat }))
    else settle (raiseFault (protocolFault .adminRing v) s)

/-- ADMIN_POST (R152). -/
def execAdminPost (v : BitVec 32) (s : State) : Result := .next (registerWrite (writeAdminPost v) s)

/-- The check of a RELEASE[0] write (R159). -/
def AdminRings.validRelease (a : AdminRings) (v : Nat) : Bool :=
  decide (v < a.resultSize) && decide (ringGap a.resultSize a.release v ≤ ringGap a.resultSize a.release a.produce)

/-- A write to RELEASE[0]: the pending notices are posted before a command read is considered (R159). -/
def writeAdminRelease (v : BitVec 32) (s : State) : State :=
  match s.admin.rings with
  | none => s
  | some a =>
    if a.validRelease v.toNat then
      considerAdminRead (postPending (s.setAdminRings (some { a with release := v.toNat })))
    else settle (raiseFault (protocolFault .adminRing v) s)

/-- ADMIN_RELEASE (R159). -/
def execAdminRelease (v : BitVec 32) (s : State) : Result := .next (registerWrite (writeAdminRelease v) s)

/-- PENDING_NOTICE_POST (R160): posts pending notices while there is credit. -/
def execPendingNoticePost (s : State) : Result := .next (event postPending s)

end Sys2Proof.Machine
end

