-- ==== Sys2Proof/Machine/Fetching.lean ====
section
/-! DEFINITION. The fetch reads of the work rings (R124, R125). -/

namespace Sys2Proof.Machine

/-- How many entries a new fetch read covers: the fewest of those posted and not yet fetched, the room in the prefetch
buffer, and those left before the end of the ring (R124). -/
def WorkRing.fetchCount (w : WorkRing) : Nat :=
  min (ringGap w.size w.fetch w.post) (min (Config.prefetchCapacity - w.prefetch.length) (w.size - w.fetch))

/-- Whether a work ring issues a fetch read (R124). -/
def canFetch (s : State) (w : WorkRing) : Bool :=
  w.phase.runs && !s.faults.failed && w.fetchRead.isNone && !w.fetchHeld && w.fetch != w.post &&
    decide (0 < w.fetchCount)

/-- Issues a ring's next fetch read, where the conditions of R124 hold. -/
def issueFetch (r : RingId) (s : State) : State :=
  match s.rings.work[r] with
  | none => s
  | some w =>
    if canFetch s w then
      (issueRead (.fetchRead r) (itemAddr w.base 128 w.fetch) (128 * w.fetchCount) s).setWork r
        (some { w with fetchRead := some { first := w.fetch, count := w.fetchCount } })
    else s

/-- FETCH_READ_ISSUE (R124). -/
def execFetchReadIssue (r : RingId) (s : State) : Result := .next (issueFetch r s)

/-- A ring whose fetch read has ended without its entries being kept. -/
def WorkRing.endFetch (w : WorkRing) : WorkRing := { w with fetchRead := none, fetchStale := false }

/-- A completed read's entries are appended and the fetch index advances (R124). -/
def WorkRing.append (w : WorkRing) (entries : List Entry) : WorkRing :=
  { w.endFetch with
    prefetch := w.prefetch ++ entries
    fetch := (w.fetch + entries.length) % w.size }

/-- The completion of a fetch read: appended, or discarded when stale or when the ring is DELETING in DISCARD mode; a
further read is issued at once where it may be (R123, R124, R134). -/
def completeFetch (entries : List Entry) (r : RingId) (s : State) : State :=
  match s.rings.work[r] with
  | none => s
  | some w =>
    match w.fetchRead with
    | none => s
    | some _ =>
      let w' := if w.fetchStale || w.phase == .deleting .discard then w.endFetch else w.append entries
      settle (issueFetch r (s.setWork r (some w')))

/-- Whether the entries of a completed read are as many as the ring's read in flight asked for, where the read is
still waited for. -/
def fetchCountIs (xfer : Nat) (n : Nat) (s : State) : Bool :=
  match findTransfer xfer s with
  | none => false
  | some x =>
    !x.heeded || ((x.kind.asFetchRead.bind fun r => s.rings.work[r]).bind WorkRing.fetchRead).all fun f => f.count == n

/-- FETCH_READ_COMPLETE (R124): a read that completes brings all its entries. -/
def execFetchReadComplete (xfer : Nat) (entries : List Entry) (s : State) : Result :=
  .next (if fetchCountIs xfer entries.length s then
    event (onReadComplete TransferKind.asFetchRead (completeFetch entries) xfer) s
  else s)

/-- The fault of a failed fetch read (R125). -/
def fetchFault (r : RingId) (f : FetchRead) : RaisedFault :=
  { cls := .hostRead, source := .workRing r, slotIndex := some f.first }

/-- A ring still DELETING in DRAIN mode after the fault of its failed read goes on in DISCARD mode (R125). -/
def drainToDiscard (r : RingId) (s : State) : State :=
  match s.rings.work[r] with
  | none => s
  | some w => if w.phase = .deleting .drain then s.setWork r (some w.discard) else s

/-- The failure of a fetch read (R123, R125, R134). In DISCARD mode it leaves fetch held as it was: R134 says that the
failure is discarded, R125 does not except it, and this reading is DESIGN CHOICE (notes/assumptions/33.md). -/
def failFetch (r : RingId) (s : State) : State :=
  match s.rings.work[r] with
  | none => s
  | some w =>
    match w.fetchRead with
    | none => s
    | some f =>
      if w.fetchStale then settle (issueFetch r (s.setWork r (some w.endFetch)))
      else if w.phase = .deleting .discard then settle (s.setWork r (some w.endFetch))
      else
        settle (drainToDiscard r
          (raiseFault (fetchFault r f) (s.setWork r (some { w.endFetch with fetchHeld := true }))))

/-- FETCH_READ_FAILURE (R125). -/
def execFetchReadFailure (xfer : Nat) (s : State) : Result :=
  .next (event (onReport TransferKind.asFetchRead failFetch xfer) s)

end Sys2Proof.Machine
end

