-- ==== Sys2Proof/Machine/Takes.lean ====
section
/-! DEFINITION. Validation at take, bundles, the take arbiter and the takes (R28 to R36, R60, R61, R126 to R128). -/

namespace Sys2Proof.Machine

/-! ## Validation of one entry (R29) -/

/-- Why an entry fails validation. -/
inductive Rejection where
  | malformed (code : MalformedCode)
  | regionInactive
  | outOfRange
  deriving DecidableEq, Repr

def Rejection.status : Rejection → Status
  | .malformed _ => .malformed
  | .regionInactive => .regionInactive
  | .outOfRange => .outOfRange

def Rejection.faultClass : Rejection → FaultClass
  | .malformed _ => .entryMalformed
  | .regionInactive => .regionInactive
  | .outOfRange => .indexRange

def Rejection.code : Rejection → Option (BitVec 8)
  | .malformed c => some c.code
  | _ => none

/-- Order 3: the indexes an entry reads are below the region's count. -/
def indexesInRange (rg : Region) (e : Entry) : Bool :=
  decide (WorkEntry.recordIndex e < rg.count) &&
    (!(WorkEntry.opcode e == some .update && WorkEntry.redirect e) ||
      decide (WorkEntry.destinationIndex e < rg.count))

/-- Order 4: the functions an entry reads are valid codes. -/
def functionsValid (e : Entry) : Bool :=
  match WorkEntry.opcode e with
  | some .update => (WorkEntry.matchFunction e).isSome && (WorkEntry.magnitudeFunction e).isSome
  | some .fetch => (WorkEntry.matchFunction e).isSome
  | _ => true

/-- The lane operation codes of an arm. -/
def armCode (e : Entry) (arm : ArmChoice) (i : LaneId) : Nat :=
  match arm with
  | .pass => WorkEntry.passCode e i
  | .els => WorkEntry.elseCode e i

/-- The arms of an UPDATE that are read: the pass arm, and the else arm with ELSE_ARM (R20). -/
def readArms (e : Entry) : List ArmChoice := if WorkEntry.elseArm e then [.pass, .els] else [.pass]

/-- A condition on every lane of every arm that is read. -/
def everyLane (e : Entry) (p : ArmChoice → LaneId → Bool) : Bool :=
  (readArms e).all fun arm => (List.finRange 8).all fun i => p arm i

/-- Order 5: every lane operation code is one of the fourteen. -/
def laneOpsValid (e : Entry) : Bool := everyLane e fun arm i => (laneOpOf (armCode e arm i)).isSome

/-- Order 6: every COPY_LANE names a lane. -/
def copyLanesValid (e : Entry) : Bool :=
  everyLane e fun arm i => armOp e arm i != .copyLane || decide ((WorkEntry.operandA e i).toNat < 8)

/-- Order 7: the arms leave the version lane of an auto-version region alone. -/
def versionLaneKept (rg : Region) (e : Entry) : Bool :=
  everyLane e fun arm i => rg.advancedLane != some i || armOp e arm i == .keep

/-- The checks of an UPDATE's arms, orders 5 to 7. -/
def checkArms (rg : Region) (e : Entry) : Option Rejection :=
  if !laneOpsValid e then some (.malformed .badLaneOp)
  else if !copyLanesValid e then some (.malformed .copyLaneOperand)
  else if !versionLaneKept rg e then some (.malformed .versionLaneWritten)
  else none

/-- The validation of an entry: the first condition it fails, if it fails one (R29). -/
def checkEntry (regions : Vector Region 16) (e : Entry) : Option Rejection :=
  let rg := regions[WorkEntry.region e]
  match WorkEntry.opcode e with
  | none => some (.malformed .badOpcode)
  | some .fence | some .nop => none
  | some op =>
    if rg.phase ≠ .active then some .regionInactive
    else if !indexesInRange rg e then some .outOfRange
    else if !functionsValid e then some (.malformed .badFunction)
    else if op = .update then checkArms rg e
    else none

/-! ## Mapping (R5, R61) -/

/-- The member record of an entry: its global record numbers as mapped at validation (R5, R58). -/
def memberOf (regions : Vector Region 16) (slot : Nat) (e : Entry) : Member :=
  let base := regions[WorkEntry.region e].base
  { ringSlot := slot, entry := e, source := base + WorkEntry.recordIndex e,
    destination := if WorkEntry.redirects e then some (base + WorkEntry.destinationIndex e) else none,
    outcome := none, image := none }

/-- The global records a member names (R35). -/
def Member.records (m : Member) : List Nat := m.source :: m.destination.toList

/-- Puts an item into a list that ascends by global record number. -/
def insertItem (i : RecordItem) : List RecordItem → List RecordItem
  | [] => [i]
  | j :: rest => if i.record ≤ j.record then i :: j :: rest else j :: insertItem i rest

/-- The record list of a context: what its members name, ascending (R61). -/
def recordList (ms : List Member) : List RecordItem :=
  (ms.flatMap fun m => m.records.map fun n =>
    ({ record := n, region := WorkEntry.region m.entry, slot := none } : RecordItem)).foldr insertItem []

/-- The records that two different members name (R35). -/
def conflicts : List Member → List Nat
  | [] => []
  | m :: rest => (m.records.filter fun n => rest.any fun m' => m'.names n) ++ conflicts rest

/-- The lowest of some record numbers. -/
def lowest : List Nat → Option Nat
  | [] => none
  | n :: rest => some (rest.foldl min n)

/-! ## Judging a unit (R28, R30, R32 to R36) -/

/-- An entry of a unit and its slot in the ring. -/
structure Placed where
  slot : Nat
  entry : Entry
  deriving DecidableEq, Repr

/-- What becomes of a unit at its take: it is answered with results and faults, or handed to a context. -/
inductive Judgement where
  | answered (posts : List Posting) (faults : List RaisedFault)
  | accepted (members : List Member)
  deriving DecidableEq, Repr

/-- The posting of an entry answered at take (R28). -/
def answer (st : Status) (p : Placed) : Posting := Posting.of p.slot p.entry (MemberOutcome.untested st)

/-- The global record number of an entry whose record index passed order 3 (R30). -/
def passedRecord (regions : Vector Region 16) (e : Entry) : Option Nat :=
  let rg := regions[WorkEntry.region e]
  if WorkEntry.namesRecord e ∧ rg.phase = .active ∧ WorkEntry.recordIndex e < rg.count then
    some (rg.base + WorkEntry.recordIndex e)
  else none

/-- The fault of an entry that fails validation (R30). -/
def rejectionFault (r : RingId) (regions : Vector Region 16) (p : Placed) (x : Rejection) : RaisedFault :=
  { cls := x.faultClass, source := .workRing r, slotIndex := some p.slot, tag := some (WorkEntry.tag p.entry),
    region := if WorkEntry.namesRecord p.entry then some (WorkEntry.region p.entry) else none,
    record := passedRecord regions p.entry, image := some (imageHead p.entry), code := x.code }

/-- The one fault of a unit that is too long, over the limit or in conflict, with the details of member 1 (R32, R33,
R35). -/
def unitFault (r : RingId) (p : Placed) (code : MalformedCode) (region : Option RegionId) (record : Option Nat) :
    RaisedFault :=
  { cls := .entryMalformed, source := .workRing r, slotIndex := some p.slot, tag := some (WorkEntry.tag p.entry),
    region := region, record := record, image := some (imageHead p.entry), code := some code.code }

/-- The check of a bundle member: R29, and then the member condition (R34). -/
def checkMember (regions : Vector Region 16) (e : Entry) : Option Rejection :=
  match checkEntry regions e with
  | some x => some x
  | none =>
    if WorkEntry.opcode e = some .update ∧ WorkEntry.elseArm e = false then none
    else some (.malformed .bundleMember)

/-- A single entry (R28, R29). -/
def judgeSingle (r : RingId) (regions : Vector Region 16) (p : Placed) : Judgement :=
  match checkEntry regions p.entry with
  | some x => .answered [answer x.status p] [rejectionFault r regions p x]
  | none =>
    if WorkEntry.namesRecord p.entry then .accepted [memberOf regions p.slot p.entry]
    else .answered [answer .success p] []

/-- A bundle whose members all pass: the conflict check (R35, R36). -/
def judgeMembers (r : RingId) (regions : Vector Region 16) (first : Placed) (ps : List Placed) : Judgement :=
  let members := ps.map fun p => memberOf regions p.slot p.entry
  match lowest (conflicts members) with
  | some n =>
    .answered (ps.map (answer .bundleConflict))
      [unitFault r first .bundleConflict (some (WorkEntry.region first.entry)) (some n)]
  | none => .accepted members

/-- A bundle that is neither too long nor over the limit (R34). The faults of failing members are raised in the order
in which R34 checks them: DEDUCED (notes/assumptions/38.md). -/
def judgeBundle (r : RingId) (regions : Vector Region 16) (first : Placed) (ps : List Placed) : Judgement :=
  let failing := ps.filterMap fun p => (checkMember regions p.entry).map fun x => (p, x)
  if failing.isEmpty then judgeMembers r regions first ps
  else
    .answered
      (ps.map fun p => match checkMember regions p.entry with
        | some x => answer x.status p
        | none => answer .bundleAbandoned p)
      (failing.map fun px => rejectionFault r regions px.1 px.2)

/-- Judges a unit as the validation of its take does (R28 to R36). -/
def judge (r : RingId) (regions : Vector Region 16) (limit : Nat) (ps : List Placed) : Judgement :=
  match ps with
  | [] => .answered [] []
  | [p] => judgeSingle r regions p
  | p :: rest =>
    if ps.length = 4 ∧ (ps.getLast?.any fun q => WorkEntry.bundleNext q.entry) then
      .answered (ps.map (answer .malformed)) [unitFault r p .bundleTooLong none none]
    else if limit < ps.length then
      .answered (ps.map (answer .malformed)) [unitFault r p .bundleOverLimit none none]
    else judgeBundle r regions p (p :: rest)

/-! ## Eligibility and the take arbiter (R126, R127) -/

/-- The entries of a unit with their slots, from the take index on (R31). -/
def placeUnit (size : Nat) : Nat → List Entry → List Placed
  | _, [] => []
  | slot, e :: rest => { slot := slot, entry := e } :: placeUnit size (ringNext size slot) rest

/-- A ring's next unit with its slots, once complete. -/
def WorkRing.unit (w : WorkRing) : Option (List Placed) := (nextUnit w.prefetch).map (placeUnit w.size w.take)

/-- Whether a unit is a single FENCE (R126). -/
def isFence (ps : List Placed) : Bool :=
  match ps with
  | [p] => WorkEntry.opcode p.entry == some .fence
  | _ => false

/-- Whether some context is FREE. -/
def contextFree (s : State) : Bool := s.contexts.toList.any Option.isNone

/-- What a unit needs besides credit, as it is judged: a context and room in the outstanding set, or for a FENCE an
empty outstanding set (R126). -/
def unitMayGo (s : State) (w : WorkRing) (ps : List Placed) (j : Judgement) : Bool :=
  match j with
  | .accepted _ => decide (w.outstanding.length + ps.length ≤ w.inFlightLimit) && contextFree s
  | .answered _ _ => !isFence ps || w.outstanding.isEmpty

/-- Whether a ring is eligible (R126). -/
def eligible (s : State) (r : RingId) : Bool :=
  !s.faults.failed && s.resetPhase == .operating &&
    match s.rings.work[r] with
    | none => false
    | some w =>
      w.phase.runs &&
        match w.unit, s.rings.results[w.boundTo] with
        | some ps, some q =>
          decide (ps.length ≤ q.credit) && unitMayGo s w ps (judge r s.regions w.inFlightLimit ps)
        | _, _ => false

/-- The rings in the order in which the arbiter looks at them: from the ring after the last-served one (R127). -/
def arbiterOrder (last : RingId) : List RingId :=
  (List.finRange 15).map fun i => last + 1 + i

/-- Whether a ring has arbiter credit. -/
def hasArbiterCredit (s : State) (r : RingId) : Bool :=
  match s.rings.work[r] with
  | some w => decide (0 < w.credit)
  | none => false

/-- A ring whose arbiter credit is reloaded from its weight (R127). -/
def WorkRing.reloaded (w : WorkRing) : WorkRing := { w with credit := w.weight }

/-- Every existing ring's arbiter credit is reloaded from its weight (R127). -/
def reloadCredits (s : State) : State :=
  s.setRings { s.rings with work := s.rings.work.map fun w => w.map WorkRing.reloaded }

/-- The first eligible ring with arbiter credit, in the arbiter's order. -/
def firstWithCredit (s : State) : Option RingId :=
  (arbiterOrder s.rings.lastServed).find? fun r => eligible s r && hasArbiterCredit s r

/-- The arbiter's choice, with the state after the reload it may make (R127). -/
def arbitrate (s : State) : Option (RingId × State) :=
  match firstWithCredit s with
  | some r => some (r, s)
  | none =>
    if (List.finRange 15).any (eligible s) then
      (firstWithCredit (reloadCredits s)).map fun r => (r, reloadCredits s)
    else none

/-! ## The take (R60, R128) -/

/-- The lowest-numbered FREE context (R60). -/
def lowestFree (s : State) : Option CtxId := (List.finRange 16).find? fun c => (s.contexts[c]).isNone

/-- The ring after its unit of `n` entries is taken: the take index passes it, the entries leave the prefetch buffer,
and one arbiter credit is spent (R127, R128). -/
def WorkRing.taken (w : WorkRing) (n : Nat) : WorkRing :=
  { w with
    take := (w.take + n) % w.size
    prefetch := w.prefetch.drop n
    credit := w.credit - 1 }

/-- Reserves `n` entries of a result ring (R128, R138). -/
def reserve (rr : RingId) (n : Nat) (s : State) : State :=
  match s.rings.results[rr] with
  | some q => s.setResult rr (some { q with reserved := q.reserved + n })
  | none => s

/-- The STORE of a single-member unit begins its host read (R23, R60). -/
def beginStoreRead (c : CtxId) (ms : List Member) (s : State) : State :=
  match ms with
  | [m] =>
    if WorkEntry.opcode m.entry = some .store then
      issueRead (.storeRead c) (WorkEntry.hostBuffer m.entry) 32 s
    else s
  | _ => s

/-- A context as it is taken into use: ALLOCATING, with its members and its record list (R60, R61). -/
def newContext (r : RingId) (ms : List Member) : Context :=
  let x : Context :=
    { phase := .allocating, ring := r, members := ms, records := recordList ms, storeData := none,
      storeRead := false, hostWrites := 0 }
  { x with storeRead := x.isStore }

/-- Hands a valid unit to the lowest-numbered FREE context: its slots become outstanding and its slot request joins
the allocator's queue (R60, R128). -/
def handToContext (r : RingId) (ms : List Member) (s : State) : State :=
  match s.rings.work[r], lowestFree s with
  | some w, some c =>
    let s1 := s.setWork r (some { w with outstanding := w.outstanding ++ ms.map Member.ringSlot })
    let s2 := s1.setContext c (some (newContext r ms))
    beginStoreRead c ms (s2.setRequests (s2.cache.requests ++ [c]))
  | _, _ => s

/-- What follows the judgement of a unit: its results and its faults, or its context (R28, R128). -/
def carryOut (r : RingId) (j : Judgement) (s : State) : State :=
  match j with
  | .answered posts faults => raiseFaults faults (postUnit r posts s)
  | .accepted ms => handToContext r ms s

/-- The take of ring `r`'s next unit (R128): the ring is the last served. -/
def takeFrom (r : RingId) (s : State) : State :=
  match s.rings.work[r] with
  | none => s
  | some w =>
    match w.unit with
    | none => s
    | some ps =>
      let s1 := (s.setWork r (some (w.taken ps.length))).setLastServed r
      settle (carryOut r (judge r s.regions w.inFlightLimit ps) (reserve w.boundTo ps.length s1))

/-- The row of the table that a unit belongs to. -/
inductive UnitKind where
  | single (op : Option Opcode)
  | bundle
  deriving DecidableEq, Repr

/-- A single entry by its opcode, or two to four entries. -/
def unitKind (ps : List Placed) : UnitKind :=
  match ps with
  | [p] => .single (WorkEntry.opcode p.entry)
  | _ => .bundle

/-- The kind of the unit that is next in a ring. -/
def nextKind (s : State) (r : RingId) : Option UnitKind :=
  match s.rings.work[r] with
  | some w => w.unit.map unitKind
  | none => none

/-- The take arbiter makes a take, where the unit it chooses is of the given kind; a take of another kind is another
row's event, and nothing changes. -/
def takeUnit (k : UnitKind) (s : State) : State :=
  match arbitrate s with
  | some (r, s1) => if nextKind s r = some k then event (takeFrom r) s1 else s
  | none => s

/-- UPDATE (R21). -/
def execUpdate (s : State) : Result := .next (takeUnit (.single (some .update)) s)

/-- FETCH (R22). -/
def execFetch (s : State) : Result := .next (takeUnit (.single (some .fetch)) s)

/-- STORE (R23). -/
def execStore (s : State) : Result := .next (takeUnit (.single (some .store)) s)

/-- FENCE (R24). -/
def execFence (s : State) : Result := .next (takeUnit (.single (some .fence)) s)

/-- NOP (R25). -/
def execNop (s : State) : Result := .next (takeUnit (.single (some .nop)) s)

/-- BUNDLE (R31 to R36). -/
def execBundle (s : State) : Result := .next (takeUnit .bundle s)

/-- UNKNOWN_OPCODE (R29). -/
def execUnknownOpcode (s : State) : Result := .next (takeUnit (.single none) s)

end Sys2Proof.Machine
end

