-- ==== Sys2Proof/Machine/Grants.lean ====
section
/-! DEFINITION. The grant of the head slot request, and the host read of a STORE (R62, R63, R67, R68). -/

namespace Sys2Proof.Machine

/-- Grants the head request, where it can be granted (R62, R90). -/
def grantHead (s : State) : State :=
  match s.cache.requests with
  | [] => s
  | c :: _ =>
    match s.contexts[c] with
    | none => s
    | some x => if grantable s x then event (fun t => settle (grant c t)) s else s

/-- SLOT_GRANT (R62). -/
def execSlotGrant (s : State) : Result := .next (grantHead s)

/-- The data of a STORE arrive (R67). -/
def acceptStoreData (data : Vector Byte 32) (c : CtxId) (s : State) : State :=
  match s.contexts[c] with
  | none => s
  | some x =>
    settle (s.setContext c (some { x with storeRead := false, storeData := some (recordAt data.toList 0) }))

/-- STORE_READ_COMPLETE (R67). -/
def execStoreReadComplete (xfer : Nat) (data : Vector Byte 32) (s : State) : Result :=
  .next (event (onReadComplete TransferKind.asStoreRead (acceptStoreData data) xfer) s)

/-- The AWAITING_STORE slot that a context heads, and the other contexts in its claim queue (R68). -/
def awaitingHeaded (s : State) (c : CtxId) (x : Context) : Option (SlotId × Nat × List CtxId) :=
  x.records.findSome? fun i =>
    match i.slot with
    | none => none
    | some k =>
      match s.cache.slots[k] with
      | none => none
      | some y =>
        if y.phase = .awaitingStore ∧ y.claims.head? = some c then some (k, y.record, y.claims.tail) else none

/-- The members of a STORE whose host read has failed: HOST_FAULT with the fields of R57 (R68). -/
def Context.hostFaulted (x : Context) : Context :=
  { x with
    storeRead := false
    members := x.members.map fun m => { m with outcome := some (MemberOutcome.untested .hostFault) } }

/-- The HOST_READ fault of a STORE (R76). -/
def storeReadFaults (x : Context) : List RaisedFault :=
  x.members.map fun m => memberFault .hostRead x.ring m m.source

/-- The POISON_HIT faults of the contexts that end behind a failed STORE, in queue order (R68, R76), which is DESIGN
CHOICE (notes/assumptions/32.md). -/
def behindFaults (s : State) (record : Nat) (others : List CtxId) : List RaisedFault :=
  others.flatMap fun d =>
    match s.contexts[d] with
    | some y => poisonFaults [record] y
    | none => []

/-- The failure of a STORE's host read: the STORE ends HOST_FAULT; where it heads an AWAITING_STORE slot, every other
claimant ends POISONED and the slot is freed; then the faults are raised (R68, R76, R97). The others end, and hand over
their results, in the order of the claim queue: R68 names no order, and this one is DESIGN CHOICE
(notes/assumptions/32.md). -/
def failStoreRead (c : CtxId) (s : State) : State :=
  match s.contexts[c] with
  | none => s
  | some x =>
    let ended := endContext c (s.setContext c (some x.hostFaulted))
    settle (match awaitingHeaded s c x with
      | none => raiseFaults (storeReadFaults x) ended
      | some (k, record, others) =>
        raiseFaults (storeReadFaults x ++ behindFaults s record others)
          (freeSlot k (others.foldl (fun acc d => failContext [record] .poisoned d acc) ended)))

/-- STORE_READ_FAILURE (R68). -/
def execStoreReadFailure (xfer : Nat) (s : State) : Result :=
  .next (event (onReport TransferKind.asStoreRead failStoreRead xfer) s)

end Sys2Proof.Machine
end

