-- ==== Sys2Proof/Machine/Jobs.lean ====
section
/-! DEFINITION. The ends of the store controller's jobs: fills, write-backs and the region fill (R95, R96, R100 to R102,
R105 to R111). -/

namespace Sys2Proof.Machine

/-- A job's end has an effect only inside the store that the strap selects (R117). -/
def withinStore (s : State) (record : Nat) (t : State) : Result :=
  if inStore s.store record then .next t else .fault .outsideStore

/-- Whether a region's slots are being released: by a function reset, or by the retire of the region (R101, R102). -/
def releasing (s : State) (rg : RegionId) : Bool :=
  s.resetPhase == .functionReset ||
    match runningProgress s with
    | some (.retireRelease rg' _) => rg' == rg
    | _ => false

/-! ## Fills -/

/-- The work ring and the member for which a fill's fault is raised: those of the context that heads the claim queue
(R107). -/
def fillMember (s : State) (y : Slot) : Option (RingId × Member) :=
  match y.claims.head? with
  | none => none
  | some c =>
    match s.contexts[c] with
    | none => none
    | some x => (x.members.find? fun m => m.names y.record).map fun m => (x.ring, m)

/-- The fault of a fill that ends corrected or uncorrectable (R107, R111). -/
def mediaFault (cls : FaultClass) (s : State) (y : Slot) (words : BitVec 8) : RaisedFault :=
  match fillMember s y with
  | some (r, m) =>
    { cls := cls, source := .workRing r, slotIndex := some m.ringSlot, tag := some (WorkEntry.tag m.entry),
      region := some y.region, record := some y.record, image := some (imageHead m.entry), code := some words }
  | none => { cls := cls, source := .store, region := some y.region, record := some y.record, code := some words }

/-- The slot after a fill that delivers an image: freed while it is being released, RESIDENT otherwise, fully dirty
after a correction (R96, R101, R102). -/
def residentFill (k : SlotId) (y : Slot) (image : Record) (corrected : Bool) (s : State) : State :=
  if releasing s y.region then freeSlot k s
  else
    mostRecent k (s.setSlot k (some { y with
      phase := .resident (Resident.entered image (if corrected then allLanes else 0) s.now) }))

/-- A fill ends with an image; `found` are the bits it finds in error (R65, R96, R105, R107). -/
def completeFill (k : SlotId) (record : Nat) (found : Vector WordErrors 4) (s : State) : State :=
  let words := fillCorrected s.store record found
  let s1 := s.setStore (s.store.endFill k record found)
  match s.cache.slots[k] with
  | none => s1
  | some y =>
    let s2 := residentFill k y (fillLanes s.store record found) (words != 0) s1
    settle (if words = 0 then s2 else raiseFault (mediaFault .mediaCorrected s y words) s2)

/-- FILL_COMPLETE (R96): the fill of the slot ends without error or corrected. -/
def execFillComplete (k : SlotId) (errors : Vector WordErrors 4) (s : State) : Result :=
  match s.store.fillJob k with
  | none => .next s
  | some record =>
    if fillBad s.store record errors = 0 then withinStore s record (event (completeFill k record errors) s)
    else .next s

/-- The faults of an uncorrectable fill, in order (R107, R111). -/
def unreadableFaults (s : State) (y : Slot) (record : Nat) (words : BitVec 8) : List RaisedFault :=
  mediaFault .mediaUncorrectable s y words ::
    if s.store.poisonFull record then [mediaFault .poisonListFull s y words] else []

/-- A fill ends uncorrectable: the poison list, the slot, the contexts and the faults, in the order of R107. Several
contexts of the slot's claim queue end, and hand over their results, in the order of the queue: R66 names no order among
them, and this one is DESIGN CHOICE (notes/assumptions/32.md). -/
def failFill (k : SlotId) (record : Nat) (found : Vector WordErrors 4) (s : State) : State :=
  let s1 := s.setStore ((s.store.endFill k record found).addPoison record)
  match s.cache.slots[k] with
  | none => s1
  | some y =>
    settle (raiseFaults (unreadableFaults s y record (fillBad s.store record found))
      (y.claims.foldl (fun acc c => failContext [record] .mediaError c acc) (freeSlot k s1)))

/-- FILL_UNCORRECTABLE (R107): the fill of the slot ends uncorrectable. -/
def execFillUncorrectable (k : SlotId) (errors : Vector WordErrors 4) (s : State) : Result :=
  match s.store.fillJob k with
  | none => .next s
  | some record =>
    if fillBad s.store record errors = 0 then .next s
    else withinStore s record (event (failFill k record errors) s)

/-! ## Write-backs -/

/-- Whether the cleaner's age limit has passed for a slot that is dirty since a time (R98). -/
def ageReached (s : State) (since : Option Nat) : Bool :=
  match since with
  | none => false
  | some d => s.cache.ageLimit != 0 && decide (s.cache.ageLimit * Config.microsPerMilli ≤ s.now - d)

/-- Whether a running flush awaits a further write-back of a slot after the running one (R100). -/
def awaitedAgain (s : State) (k : SlotId) : Bool :=
  match runningProgress s with
  | some (.flush awaited) => awaited.any fun a => a.slot == k && a.again
  | _ => false

/-- A slot's awaited write-back has completed: it leaves the awaited set, unless a further one is awaited (R100). -/
def awaitedEnd (k : SlotId) (s : State) : State :=
  if awaitedAgain s k then
    match runningProgress s with
    | some (.flush awaited) =>
      setProgress (.flush (awaited.map fun a => if a.slot = k then { a with again := false } else a)) s
    | _ => s
  else unawait k s

/-- Whether a further write-back is started on a slot at the completion of one, if it is still dirty: for a release or
a reset, for a flush, or for the cleaner (R95, R98, R100 to R102). -/
def furtherDue (s : State) (k : SlotId) (rg : RegionId) (c : Resident) : Bool :=
  releasing s rg || awaitedAgain s k || ageReached s c.dirtySince

/-- What follows on the slot when its write-back has completed (R95, R98, R100 to R102), before the allocator evaluates its
head: R95 does not order the two, and this order is DESIGN CHOICE (notes/assumptions/44.md). -/
def afterWriteBack (k : SlotId) (y : Slot) (c : Resident) (s : State) : State :=
  if c.dirty = 0 then
    if releasing s y.region then freeSlot k (awaitedEnd k s) else awaitedEnd k s
  else if furtherDue s k y.region c then startWriteBack k (awaitedEnd k s)
  else awaitedEnd k s

/-- A write-back job completes: its words stand in DRAM, and the slot's write-back is no longer in flight (R95, R108). A
further write-back on the slot is started before the allocator's evaluation, which `settle` makes: DESIGN CHOICE
(notes/assumptions/44.md). -/
def completeWriteBack (k : SlotId) (record : Nat) (lanes : Record) (set : LaneSet) (s : State) : State :=
  let s1 := s.setStore (writeLanes (s.store.endJobs (Job.isWriteBack k)) record lanes set)
  match s.cache.slots[k] with
  | none => s1
  | some y =>
    match y.phase with
    | .resident c =>
      let s2 := s1.setSlot k (some { y with phase := .resident { c with writeBack := false } })
      settle (afterWriteBack k y c s2)
    | _ => s1

/-- WRITE_BACK_COMPLETE (R95). -/
def execWriteBackComplete (k : SlotId) (s : State) : Result :=
  match s.store.writeBackJob k with
  | none => .next s
  | some (record, lanes, set) => withinStore s record (event (completeWriteBack k record lanes set) s)

/-! ## The region fill -/

/-- A region whose fill is complete moves from FILLING to ACTIVE (R10). -/
def Region.filled (rg : Region) : Region := if rg.phase = .filling then { rg with phase := .active } else rg

/-- The DEFINE_REGION that waits for the region fill completes DONE, its region ACTIVE (R10, R109). -/
def finishDefine (s : State) : State :=
  match runningProgress s with
  | some (.regionFill rg) => completeCommand .done 0 (s.setRegion rg s.regions[rg].filled)
  | _ => s

/-- How many records the region-fill job writes at a pace, from its next record on: its last record, and any at or above
S, it leaves for the event that reports its end (R109, R117). -/
def fillStride (st : Store) (pace last next : Nat) : Nat := min pace (min last st.size - next)

/-- The region-fill job goes on: it writes the next records whole, in ascending order, and its next record advances by
one with each; under a function reset it writes none but the record in progress (R109, R110). -/
def advanceRegionFill (pace : Nat) (s : State) : State :=
  match s.store.regionFillJob with
  | none => s
  | some (_, last, pattern, next) =>
    if s.resetPhase = .functionReset then s
    else
      s.setStore ((fillRecords s.store pattern next (fillStride s.store pace last next)).advanceFill
        (fillStride s.store pace last next))

/-- The region-fill job has written its last record (R109). -/
def completeRegionFill (first last : Nat) (pattern : Record) (next : Nat) (s : State) : State :=
  settle (finishDefine (s.setStore
    (((fillRecords s.store pattern next (last + 1 - next)).endJobs Job.isRegionFill).removePoisonRange first last)))

/-- REGION_FILL_COMPLETE (R109): under a function reset the job is stopped instead (R110). -/
def execRegionFillComplete (s : State) : Result :=
  match s.store.regionFillJob with
  | none => .next s
  | some (first, last, pattern, next) =>
    if s.resetPhase = .functionReset then .next s
    else withinStore s last (event (completeRegionFill first last pattern next) s)

/-- Every FILLING region becomes UNDEFINED with its fields cleared (R17). -/
def dropFilling (s : State) : State :=
  { s with regions := s.regions.map fun rg => if rg.phase = .filling then Region.cleared else rg }

/-- The region-fill job stops after the record in progress: the records up to it hold the pattern, and the poison list
is unchanged (R17, R110). -/
def stopRegionFill (pattern : Record) (next current : Nat) (s : State) : State :=
  dropFilling (s.setStore ((fillRecords s.store pattern next (current + 1 - next)).endJobs Job.isRegionFill))

/-- REGION_FILL_STOPPED (R110): it occurs under a function reset, after one of the records not yet written. -/
def execRegionFillStopped (current : Nat) (s : State) : Result :=
  match s.store.regionFillJob with
  | none => .next s
  | some (_, last, pattern, next) =>
    if s.resetPhase = .functionReset ∧ next ≤ current ∧ current ≤ last then
      withinStore s current (stopRegionFill pattern next current s)
    else .next s

end Sys2Proof.Machine
end

