-- ==== Sys2Proof/Machine/Commits.lean ====
section
/-! DEFINITION. The commits: parity, evaluation, arms, probes, image copies, and what follows (R69 to R73, R113,
R167 to R169). -/

namespace Sys2Proof.Machine

/-! ## Parity (R69, R113) -/

/-- The content of a RESIDENT slot. -/
def Slot.content (y : Slot) : Option Resident :=
  match y.phase with
  | .resident c => some c
  | _ => none

/-- The slot that a record item refers to, holding the item's record. -/
def itemSlot (s : State) (i : RecordItem) : Option (SlotId × Slot) :=
  i.slot.bind fun k => (s.cache.slots[k]).bind fun y => if y.record = i.record then some (k, y) else none

/-- The first slot, in record order, that a context holds and whose image is unsound. -/
def unsoundSlot (s : State) (x : Context) : Option Slot :=
  x.records.findSome? fun i =>
    (itemSlot s i).bind fun ky =>
      ky.2.content.bind fun c => if c.image.sound then none else some ky.2

/-- The fault of a parity mismatch found at a commit (R113). -/
def commitParityFault (x : Context) (y : Slot) : RaisedFault :=
  { cls := .internalCheck, source := .none, record := some y.record, region := some y.region,
    image := x.members.head?.map fun m => imageHead m.entry }

/-! ## Evaluation (R37 to R43) -/

/-- The slot that a context holds for a record. -/
def heldSlot (s : State) (x : Context) (record : Nat) : Option (SlotId × Slot) :=
  (x.records.find? fun i => i.record == record).bind (itemSlot s)

/-- The image of a record in the slot that a context holds for it. -/
def heldImage (s : State) (x : Context) (record : Nat) : Option Record :=
  (heldSlot s x record).bind fun ky => ky.2.content.map fun c => c.image.lanes

/-- An evaluated member: its region, its source pre-image and its verdict (R37). -/
structure Evaluated where
  member : Member
  region : Region
  pre : Record
  verdict : Verdict
  deriving DecidableEq, Repr

/-- The verdict on a member's entry (R42): a FETCH has no magnitude test. -/
def entryVerdict (rg : Region) (e : Entry) (pre : Record) : Verdict :=
  if WorkEntry.opcode e = some .fetch then fetchVerdict rg e pre else updateVerdict rg e pre

/-- Evaluates a member on the pre-image of its own source (R69, R71). -/
def evaluateMember (s : State) (x : Context) (m : Member) : Option Evaluated :=
  (heldImage s x m.source).map fun pre =>
    let rg := s.regions[WorkEntry.region m.entry]
    { member := m, region := rg, pre := pre, verdict := entryVerdict rg m.entry pre }

/-- Evaluates every member; a context that is READY holds an image for every source (R64). -/
def evaluateMembers (s : State) (x : Context) : Option (List Evaluated) :=
  x.members.mapM (evaluateMember s x)

/-- The arm applied to a member: none for a FETCH (R43, R70). -/
def Evaluated.arm (v : Evaluated) : Option ArmChoice :=
  if WorkEntry.opcode v.member.entry = some .update then chosenArm v.member.entry v.verdict else none

/-- The image that an applied arm writes. -/
def Evaluated.image (v : Evaluated) (arm : ArmChoice) : Record := armImage v.region v.member.entry arm v.pre

/-- The record that an applied arm writes: the destination of a redirect, the source otherwise (R52, R53). -/
def Member.written (m : Member) : Nat := m.destination.getD m.source

/-- The outcome of an evaluated member (R50, R51, R56). -/
def Evaluated.outcome (v : Evaluated) : MemberOutcome :=
  match v.arm with
  | some arm => MemberOutcome.applied v.region v.member.entry v.verdict arm v.pre
  | none => MemberOutcome.unwritten v.region v.verdict v.pre

/-- The image copy of an evaluated member that writes a host buffer (R55, R70). -/
def Evaluated.copy (v : Evaluated) : Option Record :=
  match WorkEntry.opcode v.member.entry with
  | some .fetch => if v.verdict = .pass then some v.pre else none
  | _ =>
    if WorkEntry.returnImage v.member.entry then
      some (match v.arm with
        | some arm => v.image arm
        | none => v.pre)
    else none

/-- A member with its outcome and its image copy. -/
def Evaluated.decided (v : Evaluated) : Member :=
  { v.member with outcome := some v.outcome, image := v.copy }

/-- A member of a withheld bundle (R55, R71). -/
def Evaluated.withheld (v : Evaluated) : Member :=
  { v.member with
    outcome := some (MemberOutcome.heldBack v.region v.verdict v.pre)
    image := if WorkEntry.returnImage v.member.entry then some v.pre else none }

/-! ## Writing slot images (R52, R53, R69, R85) -/

/-- Writes an image into the slot that a context holds for a record; the dirty-lane set gains the written lanes. -/
def writeImage (x : Context) (record : Nat) (image : Record) (set : LaneSet) (s : State) : State :=
  match heldSlot s x record with
  | none => s
  | some (k, y) =>
    match y.phase with
    | .resident c =>
      s.setSlot k (some { y with
        phase := .resident ({ c with image := Image.fresh image }.addDirty set s.now) })
    | _ => s

/-- Steps 2 to 4 of a commit for one member (R69). -/
def applyMember (x : Context) (s : State) (v : Evaluated) : State :=
  match v.arm with
  | some arm => writeImage x v.member.written (v.image arm) (armWritten v.region v.member.entry arm) s
  | none => s

/-! ## Probes (R167 to R169) -/

/-- The index, within its region, of the record that a member's arm writes. -/
def Member.writtenIndex (m : Member) : Nat :=
  if m.destination.isSome then WorkEntry.destinationIndex m.entry else WorkEntry.recordIndex m.entry

/-- What a hit on a member captures (R165, R167). -/
def captureOf (r : RingId) (v : Evaluated) : Capture :=
  { ring := r, ringSlot := v.member.ringSlot, tag := WorkEntry.tag v.member.entry,
    recordIndex := v.member.writtenIndex, versionWord := v.outcome.versionWord }

/-- Whether a member to which the pass arm was applied wrote a record of a range of a region (R167). -/
def Evaluated.hits (v : Evaluated) (rg : RegionId) (first last : Nat) : Bool :=
  v.arm == some .pass && WorkEntry.region v.member.entry == rg &&
    decide (first ≤ v.member.writtenIndex) && decide (v.member.writtenIndex ≤ last)

/-- One probe examines a commit: the first member that hits it is captured, and a notice is raised (R168, R169). -/
def examineProbe (r : RingId) (vs : List Evaluated) (s : State) (p : ProbeId) : State :=
  match s.probes[p] with
  | .armed rg first last =>
    match vs.find? fun v => v.hits rg first last with
    | some v => raiseNotice (.probeHit p) (s.setProbe p (.hit rg first last (captureOf r v)))
    | none => s
  | _ => s

/-- Every probe examines a commit, in ascending probe number (R169). -/
def consultProbes (r : RingId) (vs : List Evaluated) (s : State) : State :=
  (List.finRange 4).foldl (examineProbe r vs) s

/-! ## After step 7 (R72, R73) -/

/-- Issues the host write of each member's image copy, in member order from member `j`. R73 gives no order of a bundle's
host writes, and this one is DESIGN CHOICE (notes/assumptions/37.md). -/
def issueImages (c : CtxId) : Nat → List Member → State → State
  | _, [], s => s
  | j, m :: rest, s =>
    issueImages c (j + 1) rest (match m.image with
      | some image => issueWrite (.buffer c j) (WorkEntry.hostBuffer m.entry) (recordBytes image) s
      | none => s)

/-- A context that has committed: it holds no slot, and waits for its host writes (R73). -/
def Context.committed (x : Context) (ms : List Member) : Context :=
  { x with
    phase := .hostWrite
    members := ms
    records := x.records.map fun i => { i with slot := none }
    hostWrites := ms.countP fun m => m.image.isSome }

/-- Step 7 and what follows it: the context leaves its queues, and issues its host writes or hands over its results
(R72, R73, R75). -/
def finishCommit (c : CtxId) (x : Context) (ms : List Member) (s : State) : State :=
  let s1 := leaveQueues c (s.setContext c (some (x.committed ms)))
  settle (if (x.committed ms).hostWrites = 0 then endContext c s1 else issueImages c 0 ms s1)

/-! ## The commits -/

/-- A commit is taken from READY on a context of its kind; a parity mismatch prevents it (R69). -/
def commitOn (kind : Context → Bool) (effect : CtxId → Context → State → State) (c : CtxId) (s : State) : State :=
  match s.contexts[c] with
  | none => s
  | some x =>
    if x.phase = .ready ∧ kind x = true then
      event (fun t => match unsoundSlot t x with
        | some y => settle (raiseFault (commitParityFault x y) t)
        | none => effect c x t) s
    else s

/-- Whether a context holds a single entry of an opcode. -/
def Context.single (op : Opcode) (x : Context) : Bool :=
  match x.members with
  | [m] => WorkEntry.opcode m.entry == some op
  | _ => false

/-- Whether a context holds a bundle. -/
def Context.bundle (x : Context) : Bool := decide (2 ≤ x.members.length)

/-- The members' arms are applied, the probes are consulted, and the context leaves its queues (R69, R71). -/
def applyAll (c : CtxId) (x : Context) (vs : List Evaluated) (s : State) : State :=
  finishCommit c x (vs.map Evaluated.decided) (consultProbes x.ring vs (vs.foldl (applyMember x) s))

/-- The commit of a single UPDATE (R69). -/
def commitUpdate (c : CtxId) (x : Context) (s : State) : State :=
  match evaluateMembers s x with
  | some vs => applyAll c x vs s
  | none => s

/-- The commit of a FETCH writes no record (R70). -/
def commitFetch (c : CtxId) (x : Context) (s : State) : State :=
  match evaluateMembers s x with
  | some vs => finishCommit c x (vs.map Evaluated.decided) s
  | none => s

/-- The commit of a bundle: every pass arm, or none (R71). -/
def commitBundle (c : CtxId) (x : Context) (s : State) : State :=
  match evaluateMembers s x with
  | some vs =>
    if vs.all fun v => v.verdict == .pass then applyAll c x vs s
    else finishCommit c x (vs.map Evaluated.withheld) s
  | none => s

/-- The slot of a STORE takes its data: an AWAITING_STORE slot becomes RESIDENT (R70, R97). -/
def storeImage (x : Context) (record : Nat) (data : Record) (s : State) : State :=
  match heldSlot s x record with
  | none => s
  | some (k, y) =>
    match y.phase with
    | .awaitingStore =>
      mostRecent k (s.setSlot k (some { y with phase := .resident (Resident.entered data allLanes s.now) }))
    | _ => writeImage x record data allLanes s

/-- A STORE's member with its outcome. -/
def Member.storedAs (m : Member) (rg : Region) (data : Record) : Member :=
  { m with outcome := some (MemberOutcome.stored rg data) }

/-- The commit of a STORE (R70). -/
def commitStore (c : CtxId) (x : Context) (s : State) : State :=
  match x.members, x.storeData with
  | [m], some data =>
    let s1 := storeImage x m.source data s
    finishCommit c x [m.storedAs s.regions[WorkEntry.region m.entry] data]
      (s1.setStore (s1.store.removePoison m.source))
  | _, _ => s

/-- UPDATE_COMMIT (R69). -/
def execUpdateCommit (c : CtxId) (s : State) : Result := .next (commitOn (Context.single .update) commitUpdate c s)

/-- FETCH_COMMIT (R70). -/
def execFetchCommit (c : CtxId) (s : State) : Result := .next (commitOn (Context.single .fetch) commitFetch c s)

/-- STORE_COMMIT (R70). -/
def execStoreCommit (c : CtxId) (s : State) : Result := .next (commitOn (Context.single .store) commitStore c s)

/-- BUNDLE_COMMIT (R71). -/
def execBundleCommit (c : CtxId) (s : State) : Result := .next (commitOn Context.bundle commitBundle c s)

end Sys2Proof.Machine
end

