-- ==== Sys2Proof/Machine/HostWrites.lean ====
section
/-! DEFINITION. The ends of the part's host writes: host buffers, result entries, the status block and admin result
entries (R74, R130, R141, R142, R161). -/

namespace Sys2Proof.Machine

/-! ## Host buffers (R74) -/

/-- A member whose host buffer write has ended: its outcome is finished and its image copy is gone (R58, R74). -/
def Member.endWrite (finish : MemberOutcome → MemberOutcome) (m : Member) : Member :=
  { m with outcome := m.outcome.map finish, image := none }

/-- A context one of whose host buffer writes has ended. -/
def Context.endWrite (x : Context) (j : Nat) (finish : MemberOutcome → MemberOutcome) : Context :=
  { x with members := x.members.modify j (Member.endWrite finish), hostWrites := x.hostWrites - 1 }

/-- The end of a host buffer write; after the last one the context hands over its results (R74, R75). -/
def endBuffer (finish : MemberOutcome → MemberOutcome) (c : CtxId) (j : Nat) (s : State) : State :=
  match s.contexts[c] with
  | none => s
  | some x =>
    let s1 := s.setContext c (some (x.endWrite j finish))
    if (x.endWrite j finish).hostWrites = 0 then endContext c s1 else s1

/-- A host buffer write completes: IMAGE_RETURNED is set (R74). -/
def completeBuffer (cm : CtxId × Nat) (s : State) : State :=
  settle (endBuffer (fun o => { o with imageReturned := true }) cm.1 cm.2 s)

/-- HOST_BUFFER_WRITE_COMPLETE (R74). -/
def execHostBufferWriteComplete (xfer : Nat) (s : State) : Result :=
  .next (event (onReport TransferKind.asBuffer completeBuffer xfer) s)

/-- The written record of a member: the destination of a redirect that committed, the source otherwise (R54). -/
def Member.writtenRecord (m : Member) : Nat :=
  if m.outcome.any fun o => o.committed then m.written else m.source

/-- The fault of a failed host buffer write of a context's member (R76). -/
def bufferFaults (s : State) (c : CtxId) (j : Nat) : List RaisedFault :=
  match s.contexts[c] with
  | none => []
  | some x => (x.members[j]?).toList.map fun m => memberFault .hostBufferWrite x.ring m m.writtenRecord

/-- A host buffer write fails: the member's status becomes HOST_FAULT, and the fault is raised after any hand-over
(R74, R76, R175). -/
def failBuffer (cm : CtxId × Nat) (s : State) : State :=
  settle (raiseFaults (bufferFaults s cm.1 cm.2) (endBuffer (fun o => { o with status := .hostFault }) cm.1 cm.2 s))

/-- HOST_BUFFER_WRITE_FAILURE (R74). -/
def execHostBufferWriteFailure (xfer : Nat) (s : State) : Result :=
  .next (event (onReport TransferKind.asBuffer failBuffer xfer) s)

/-! ## Ring writes (R130, R141, R142, R161) -/

/-- The fault of a failed write of a result entry (R141). -/
def resultWriteFault (w : RingId × Nat × Serial) : RaisedFault :=
  { cls := .hostRingWrite, source := .resultRing w.1, slotIndex := some w.2.1,
    value := some (w.2.2.setWidth 32) }

/-- RESULT_WRITE_FAILURE (R141). -/
def execResultWriteFailure (xfer : Nat) (s : State) : Result :=
  .next (event (onReport TransferKind.asResult (fun w t => settle (raiseFault (resultWriteFault w) t)) xfer) s)

/-- STATUS_WRITE_COMPLETE (R130): a pending write is issued. -/
def execStatusWriteComplete (xfer : Nat) (s : State) : Result :=
  .next (event (onReport TransferKind.asStatus (fun w t => settle (endStatusWrite w.1 t)) xfer) s)

/-- The fault of a failed status block write: of a work ring's entry, or of the admin ring's entry 0 (R142, R161). -/
def statusWriteFault (entry : Fin 16) (index : Nat) : RaisedFault :=
  match AdminEntry.ringOf entry.val with
  | some r => { cls := .hostRingWrite, source := .workRing r, value := some (BitVec.ofNat 32 index) }
  | none => { cls := .hostRingWrite, source := .adminRing, slotIndex := some index }

/-- STATUS_WRITE_FAILURE (R142, R161): a pending write is still issued, and then the fault is raised. The rules do not
order the two, and this order is DESIGN CHOICE (notes/assumptions/42.md). -/
def execStatusWriteFailure (xfer : Nat) (s : State) : Result :=
  .next (event (onReport TransferKind.asStatus
    (fun w t => settle (raiseFault (statusWriteFault w.1 w.2) (endStatusWrite w.1 t))) xfer) s)

/-- The fault of a failed write of an admin result or notice entry (R161). -/
def adminResultWriteFault (w : Nat × Serial) : RaisedFault :=
  { cls := .hostRingWrite, source := .adminRing, slotIndex := some w.1, value := some (w.2.setWidth 32) }

/-- ADMIN_RESULT_WRITE_FAILURE (R161). -/
def execAdminResultWriteFailure (xfer : Nat) (s : State) : Result :=
  .next (event (onReport TransferKind.asAdminResult
    (fun w t => settle (raiseFault (adminResultWriteFault w) t)) xfer) s)

end Sys2Proof.Machine
end

