-- ==== Sys2Proof/Machine/Timers.lean ====
section
/-! DEFINITION. The expiries: coalescing, stall and cleaner (R98, R144, R146). -/

namespace Sys2Proof.Machine

/-- Whether a result ring's coalescing time has elapsed (R144). -/
def ResultRing.coalesced (q : ResultRing) (now : Nat) : Bool :=
  decide (0 < q.unsignalled) &&
    match q.firstUnsignalled with
    | some t => decide (q.coalesceTime ≤ now - t)
    | none => false

/-- The coalescing expiry of a result ring, where it falls (R144). -/
def expireCoalescing (rr : RingId) (s : State) : State :=
  match s.rings.results[rr] with
  | none => s
  | some q => if q.coalesced s.now then causeMessage rr q s else s

/-- COALESCING_EXPIRY (R144). -/
def execCoalescingExpiry (rr : RingId) (s : State) : Result := .next (event (expireCoalescing rr) s)

/-- Whether a result ring's stall limit has elapsed (R146). -/
def ResultRing.stallReached (q : ResultRing) (now : Nat) : Bool :=
  match q.stall with
  | .timing start => decide (q.stallLimit * Config.microsPerMilli ≤ now - start)
  | _ => false

/-- The fault of a stall expiry (R146). -/
def stallFault (rr : RingId) : RaisedFault := { cls := .resultStall, source := .resultRing rr }

/-- The stall expiry of a result ring, where it falls: EXPIRED, a fault and a notice (R146). -/
def expireStall (rr : RingId) (s : State) : State :=
  match s.rings.results[rr] with
  | none => s
  | some q =>
    if q.stallReached s.now then
      settle (raiseNotice (.resultStall rr)
        (raiseFault (stallFault rr) (s.setResult rr (some { q with stall := .expired }))))
    else s

/-- STALL_EXPIRY (R146). -/
def execStallExpiry (rr : RingId) (s : State) : Result := .next (event (expireStall rr) s)

/-- Whether the cleaner starts a write-back on a slot: dirty for the age limit, with none in flight (R98). A slot with
one in flight has its further write-back started at its completion. -/
def cleanerDue (s : State) (k : SlotId) : Bool :=
  match s.cache.slots[k] with
  | some y =>
    match y.phase with
    | .resident c => !c.writeBack && ageReached s c.dirtySince
    | _ => false
  | none => false

/-- CLEANER_EXPIRY (R98). -/
def execCleanerExpiry (k : SlotId) (s : State) : Result :=
  .next (if cleanerDue s k then event (fun t => settle (startWriteBack k t)) s else s)

end Sys2Proof.Machine
end

