-- ==== Sys2Proof/Machine/AdminReads.lean ====
section
/-! DEFINITION. The read of an admin entry, the take of an admin command, and the end of an admin command's host buffer
write (R153, R154, R157, R162). -/

namespace Sys2Proof.Machine

/-- ADMIN_READ_ISSUE (R153). -/
def execAdminReadIssue (s : State) : Result := .next (event considerAdminRead s)

/-- The fault of a failed admin read (R162). -/
def adminReadFault (s : State) : RaisedFault :=
  { cls := .hostRead, source := .adminRing, slotIndex := some (adminSlot s) }

/-- The admin controller halts: the reservation is released and the consumer index stays (R162). -/
def haltAdmin (s : State) : State :=
  match s.admin.rings with
  | none => s
  | some a =>
    ((s.setAdminRings (some { a with command := .none, reserved := 0 })).setAdminPhase .halted).setRegs
      { s.regs with adminHalted := true }

/-- The failure of an admin read: the halt, the pending notices that the freed credit lets out, and then the fault (R160,
R162). R162 does not order the notices and the fault, and this order is DESIGN CHOICE (notes/assumptions/43.md). -/
def failAdminRead (_ : Unit) (s : State) : State :=
  settle (raiseFault (adminReadFault s) (postPending (haltAdmin s)))

/-- ADMIN_READ_FAILURE (R162). -/
def execAdminReadFailure (xfer : Nat) (s : State) : Result :=
  .next (event (onReport TransferKind.asAdminRead failAdminRead xfer) s)

/-! ## The take of a command (R153, R154) -/

/-- The entry read is held as the running command (R153). -/
def beginCommand (e : Entry) (s : State) : State :=
  match s.admin.rings with
  | some a => s.setAdminRings (some { a with command := .running e .taken })
  | none => s

/-- The take of a command as the completion of its entry's read: it occurs as this row's event where the entry's
opcode is the row's. -/
def takeCommand (row : Nat → Bool) (run : Entry → State → State) (xfer : Nat) (e : Entry) (s : State) : State :=
  if row (AdminEntry.opcode e) then
    event (onReadComplete TransferKind.asAdminRead (fun _ t => settle (run e (beginCommand e t))) xfer) s
  else s

/-- Order 2 of R154: in FAILED the command completes DEVICE_FAILED, with the result value given. -/
def whileOperating (value : BitVec 32) (run : State → State) (s : State) : State :=
  if s.faults.failed then completeCommand .deviceFailed value s else run s

/-- The command is refused with result value 0 (R154). -/
def refuse (st : AdminStatus) (s : State) : State := completeCommand st 0 s

/-- A short command's completion with result value 0. -/
def done (s : State) : State := completeCommand .done 0 s

/-- INVALID_COMMAND (R154). -/
def execInvalidCommand (xfer : Nat) (e : Entry) (s : State) : Result :=
  .next (takeCommand (fun code => !knownAdminCode code) (fun _ => refuse .invalidCommand) xfer e s)

/-! ## Host-buffer commands (R157) -/

/-- Writes a copy to the command's host buffer; the command stays RUNNING until the write ends (R157). -/
def writeAdminBuffer (e : Entry) (body : List Byte) (value : BitVec 32) (s : State) : State :=
  setProgress (.hostBuffer value) (issueWrite .adminBuffer (AdminEntry.addrA e) body s)

/-- The result value of the host-buffer command that runs. -/
def bufferValue (s : State) : BitVec 32 :=
  match runningProgress s with
  | some (.hostBuffer value) => value
  | _ => 0

/-- The fault of a failed admin host buffer write (R157). -/
def adminBufferFault (s : State) : RaisedFault :=
  { cls := .hostBufferWrite, source := .adminRing, tag := (runningEntry s).map AdminEntry.tag,
    code := (runningEntry s).map fun e => BitVec.ofNat 8 (AdminEntry.opcode e) }

/-- ADMIN_BUFFER_WRITE_COMPLETE (R157). -/
def execAdminBufferWriteComplete (xfer : Nat) (s : State) : Result :=
  .next (event (onReport TransferKind.asAdminBuffer
    (fun _ t => settle (completeCommand .done (bufferValue t) t)) xfer) s)

/-- ADMIN_BUFFER_WRITE_FAILURE (R157). The command completes, with all that follows its completion, and then the fault
is raised: R157 does not order the two, and this order is DESIGN CHOICE (notes/assumptions/34.md). -/
def execAdminBufferWriteFailure (xfer : Nat) (s : State) : Result :=
  .next (event (onReport TransferKind.asAdminBuffer
    (fun _ t => settle (raiseFault (adminBufferFault t) (completeCommand .hostFault (bufferValue t) t))) xfer) s)

/-- IDENTIFY (R157). -/
def execIdentify (xfer : Nat) (e : Entry) (s : State) : Result :=
  .next (takeCommand (· == 0x01) (fun e t => writeAdminBuffer e (identifyBytes t.store.size) 0 t) xfer e s)

/-- READ_FAULT_LOG (R179). -/
def execReadFaultLog (xfer : Nat) (e : Entry) (s : State) : Result :=
  .next (takeCommand (· == 0x0D)
    (fun e t => writeAdminBuffer e (faultLogBytes t.faults) (if t.faults.capture.isSome then 1 else 0) t) xfer e s)

/-- LIST_POISON (R116). -/
def execListPoison (xfer : Nat) (e : Entry) (s : State) : Result :=
  .next (takeCommand (· == 0x10)
    (fun e t => writeAdminBuffer e (poisonBytes t.store.poison) (BitVec.ofNat 32 t.store.poison.length) t) xfer e s)

end Sys2Proof.Machine
end

