-- ==== Sys2Proof/Machine/RingCommands.lean ====
section
/-! DEFINITION. The ring commands (R121, R131, R133, R134, R137, R147, R155). -/

namespace Sys2Proof.Machine

/-- A power of two from 16 to 4096 (R119, R136). -/
def validRingSize (n : Nat) : Bool := [16, 32, 64, 128, 256, 512, 1024, 2048, 4096].contains n

/-! ## CREATE_RESULT_RING -/

/-- The parameter ranges of CREATE_RESULT_RING, the ring number apart (R155). -/
def validResultParams (e : Entry) : Bool :=
  (AdminEntry.addrA e).toNat % 16 == 0 && validRingSize (AdminEntry.w1 e) &&
    decide (1 ≤ AdminEntry.w2 e ∧ AdminEntry.w2 e ≤ 255) && decide (AdminEntry.w3 e ≤ 1000) &&
    decide (AdminEntry.w4 e ≤ 1000) && decide (AdminEntry.w5 e ≤ 1)

/-- The stall limit that a parameter selects (R137). -/
def stallLimitOf (w : Nat) : Nat := if w = 0 then Config.defaultStallLimit else w

/-- A result ring as it is created (R137). -/
def createdResult (e : Entry) : ResultRing :=
  { base := AdminEntry.addrA e, size := AdminEntry.w1 e, produce := 0, release := 0, reserved := 0, serial := 0,
    msgAddr := AdminEntry.addrB e, msgData := AdminEntry.dataD e, msgEnabled := AdminEntry.w5 e == 1,
    coalesceCount := AdminEntry.w2 e, coalesceTime := AdminEntry.w3 e, stallLimit := stallLimitOf (AdminEntry.w4 e),
    unsignalled := 0, firstUnsignalled := none, stall := .idle }

/-- The checks and the effect of CREATE_RESULT_RING (R137, R155). -/
def createResult (e : Entry) (s : State) : State :=
  match AdminEntry.ringOf (AdminEntry.w0 e) with
  | none => refuse .invalidParameter s
  | some rr =>
    if !validResultParams e then refuse .invalidParameter s
    else if (s.rings.results[rr]).isSome then refuse .ringBusy s
    else done (s.setResult rr (some (createdResult e)))

/-- CREATE_RESULT_RING (R137). -/
def execCreateResultRing (xfer : Nat) (e : Entry) (s : State) : Result :=
  .next (takeCommand (· == 0x02) (fun e => whileOperating 0 (createResult e)) xfer e s)

/-! ## CREATE_WORK_RING -/

/-- The parameter ranges of CREATE_WORK_RING, the ring numbers apart (R155). -/
def validWorkParams (e : Entry) : Bool :=
  (AdminEntry.addrA e).toNat % 128 == 0 && validRingSize (AdminEntry.w1 e) &&
    decide (1 ≤ AdminEntry.w3 e ∧ AdminEntry.w3 e ≤ 8) && decide (1 ≤ AdminEntry.w4 e ∧ AdminEntry.w4 e ≤ 16)

/-- A work ring as it is created (R121). -/
def createdWork (e : Entry) (rr : RingId) : WorkRing :=
  { phase := .active, base := AdminEntry.addrA e, size := AdminEntry.w1 e, boundTo := rr, weight := AdminEntry.w3 e,
    inFlightLimit := AdminEntry.w4 e, post := 0, fetch := 0, take := 0, retire := 0, prefetch := [],
    fetchRead := none, fetchStale := false, fetchHeld := false, outstanding := [], credit := AdminEntry.w3 e }

/-- The checks and the effect of CREATE_WORK_RING (R121, R155). -/
def createWork (e : Entry) (s : State) : State :=
  match AdminEntry.ringOf (AdminEntry.w0 e), AdminEntry.ringOf (AdminEntry.w2 e) with
  | some r, some rr =>
    if !validWorkParams e then refuse .invalidParameter s
    else if (s.rings.work[r]).isSome then refuse .ringBusy s
    else if (s.rings.results[rr]).isNone then refuse .ringAbsent s
    else done ((s.setWork r (some (createdWork e rr))).setStatus (statusEntryOf r) .idle)
  | _, _ => refuse .invalidParameter s

/-- CREATE_WORK_RING (R121). -/
def execCreateWorkRing (xfer : Nat) (e : Entry) (s : State) : Result :=
  .next (takeCommand (· == 0x03) (fun e => whileOperating 0 (createWork e)) xfer e s)

/-! ## DELETE_WORK_RING -/

/-- The mode that a parameter names (R191). -/
def deleteModeOf : Nat → Option DeleteMode
  | 0 => some .drain
  | 1 => some .discard
  | _ => none

/-- A ring as its deletion begins (R133, R134). -/
def WorkRing.deleting (w : WorkRing) (mode : DeleteMode) : WorkRing :=
  match mode with
  | .drain => { w with phase := .deleting .drain, fetchHeld := false }
  | .discard => w.discard

/-- The checks and the effect of DELETE_WORK_RING; the command runs until the ring is ABSENT, which may be at its take
(R133, R134, R155). -/
def deleteWork (e : Entry) (s : State) : State :=
  match AdminEntry.ringOf (AdminEntry.w0 e), deleteModeOf (AdminEntry.w1 e) with
  | some r, some mode =>
    match s.rings.work[r] with
    | none => refuse .ringAbsent s
    | some w => deleteCheck r (setProgress (.deleteRing r) (s.setWork r (some (w.deleting mode))))
  | _, _ => refuse .invalidParameter s

/-- DELETE_WORK_RING (R133, R134). -/
def execDeleteWorkRing (xfer : Nat) (e : Entry) (s : State) : Result :=
  .next (takeCommand (· == 0x04) (fun e => whileOperating 0 (deleteWork e)) xfer e s)

/-! ## DELETE_RESULT_RING -/

/-- Whether a work ring that is not ABSENT is bound to a result ring (R147). -/
def resultInUse (s : State) (rr : RingId) : Bool := (List.finRange 15).any (boundTo s rr)

/-- The checks and the effect of DELETE_RESULT_RING (R147, R155). -/
def deleteResult (e : Entry) (s : State) : State :=
  match AdminEntry.ringOf (AdminEntry.w0 e) with
  | none => refuse .invalidParameter s
  | some rr =>
    if (s.rings.results[rr]).isNone then refuse .ringAbsent s
    else if resultInUse s rr then refuse .ringInUse s
    else done (s.setResult rr none)

/-- DELETE_RESULT_RING (R147). -/
def execDeleteResultRing (xfer : Nat) (e : Entry) (s : State) : Result :=
  .next (takeCommand (· == 0x05) (fun e => whileOperating 0 (deleteResult e)) xfer e s)

/-! ## PAUSE_RING and RESUME_RING -/

/-- The checks and the effect of PAUSE_RING (R131, R155). -/
def pauseRing (e : Entry) (s : State) : State :=
  match AdminEntry.ringOf (AdminEntry.w0 e) with
  | none => refuse .invalidParameter s
  | some r =>
    match s.rings.work[r] with
    | none => refuse .ringAbsent s
    | some w =>
      match w.phase with
      | .halted => refuse .ringBusy s
      | .active => done (s.setWork r (some { w with phase := .paused }))
      | .paused | .deleting _ => done s

/-- PAUSE_RING (R131). -/
def execPauseRing (xfer : Nat) (e : Entry) (s : State) : Result :=
  .next (takeCommand (· == 0x06) (fun e => whileOperating 0 (pauseRing e)) xfer e s)

/-- The checks and the effect of RESUME_RING (R131, R155). On an ACTIVE ring it changes nothing, and so leaves fetch
held as it was: R131 says the one, R125 lists RESUME_RING among what clears fetch held, and this reading is DESIGN
CHOICE (notes/assumptions/33.md). -/
def resumeRing (e : Entry) (s : State) : State :=
  match AdminEntry.ringOf (AdminEntry.w0 e) with
  | none => refuse .invalidParameter s
  | some r =>
    match s.rings.work[r] with
    | none => refuse .ringAbsent s
    | some w =>
      match w.phase with
      | .paused | .halted => done (s.setWork r (some { w with phase := .active, fetchHeld := false }))
      | .active | .deleting _ => done s

/-- RESUME_RING (R131). -/
def execResumeRing (xfer : Nat) (e : Entry) (s : State) : Result :=
  .next (takeCommand (· == 0x07) (fun e => whileOperating 0 (resumeRing e)) xfer e s)

end Sys2Proof.Machine
end

