-- ==== Sys2Proof/Machine/RegionCommands.lean ====
section
/-! DEFINITION. The region, cache, probe and fault commands (R8 to R12, R99, R100, R156, R157, R166, R170, R178,
R180). -/

namespace Sys2Proof.Machine

/-! ## DEFINE_REGION (R8 to R10) -/

/-- The descriptor that a DEFINE_REGION asks for, where its lane parameters are in range (R8, R191). -/
def requestedRegion (e : Entry) (phase : RegionPhase) : Option Region :=
  match AdminEntry.laneOf (AdminEntry.w2 e), AdminEntry.laneOf (AdminEntry.w3 e), AdminEntry.laneOf (AdminEntry.w4 e)
  with
  | some keyA, some keyB, some version =>
    some { phase := phase, base := (AdminEntry.addrA e).toNat, count := AdminEntry.w1 e, keyA := keyA, keyB := keyB,
           versionLane := version, autoVersion := (AdminEntry.w5 e).testBit 0 }
  | _, _, _ => none

/-- Whether two optional lanes are present and the same. -/
def sameLane (a b : Option LaneId) : Bool :=
  match a, b with
  | some x, some y => x == y
  | _, _ => false

/-- The parameter checks 2 to 5 of R8. -/
def validRegion (size : Nat) (rg : Region) : Bool :=
  decide (1 ≤ rg.count) && decide (rg.base + rg.count ≤ size) &&
    (rg.keyB.isNone || (rg.keyA.isSome && !sameLane rg.keyA rg.keyB)) &&
    !sameLane rg.versionLane rg.keyA && !sameLane rg.versionLane rg.keyB &&
    (!rg.autoVersion || rg.versionLane.isSome)

/-- Whether a range shares a record with a defined region (R4, R8). -/
def regionsOverlap (a b : Region) : Bool :=
  b.phase != .undefined && decide (a.base < b.base + b.count) && decide (b.base < a.base + a.count)

/-- Whether a DEFINE_REGION has the fill option (R191). -/
def fillOption (e : Entry) : Bool := (AdminEntry.w5 e).testBit 1

/-- A DEFINE_REGION that passes every check (R9, R10). -/
def defineAccepted (e : Entry) (n : RegionId) (rg : Region) (s : State) : State :=
  if fillOption e then
    let s1 := s.setRegion n { rg with phase := .filling }
    setProgress (.regionFill n)
      (s1.setStore (s1.store.issueJob
        (.regionFill rg.base (rg.base + rg.count - 1) (AdminEntry.pattern e) rg.base)))
  else done (s.setRegion n rg)

/-- The checks of DEFINE_REGION in order, and its effect (R8 to R10). -/
def defineRegion (e : Entry) (s : State) : State :=
  match AdminEntry.regionOf (AdminEntry.w0 e), requestedRegion e .active with
  | some n, some rg =>
    if !validRegion s.store.size rg then refuse .invalidParameter s
    else if s.regions[n].phase ≠ .undefined then refuse .regionBusy s
    else if s.regions.toList.any (regionsOverlap rg) then refuse .regionOverlap s
    else defineAccepted e n rg s
  | _, _ => refuse .invalidParameter s

/-- DEFINE_REGION (R8). -/
def execDefineRegion (xfer : Nat) (e : Entry) (s : State) : Result :=
  .next (takeCommand (· == 0x08) (fun e => whileOperating 0 (defineRegion e)) xfer e s)

/-! ## RETIRE_REGION (R11, R12) -/

/-- Whether a probe watches or has hit in a region. -/
def probeIn (rg : RegionId) (p : Probe) : Bool :=
  match p with
  | .disarmed => false
  | .armed r _ _ => r == rg
  | .hit r _ _ _ => r == rg

/-- The checks and the effect of RETIRE_REGION; it runs until the region is UNDEFINED (R11, R12, R171). -/
def retireRegion (e : Entry) (s : State) : State :=
  match AdminEntry.regionOf (AdminEntry.w0 e) with
  | none => refuse .invalidParameter s
  | some n =>
    if s.regions[n].phase = .undefined then refuse .regionUndefined s
    else
      retireCheck (setProgress (.retireWait n (s.probes.toList.countP (probeIn n)))
        ((s.setRegion n { s.regions[n] with phase := .draining }).setProbes
          (s.probes.map fun p => if probeIn n p then .disarmed else p)))

/-- RETIRE_REGION (R11). -/
def execRetireRegion (xfer : Nat) (e : Entry) (s : State) : Result :=
  .next (takeCommand (· == 0x09) (fun e => whileOperating 0 (retireRegion e)) xfer e s)

/-! ## FLUSH_REGION (R100, R156) -/

/-- The scope of a flush: every region, or one. -/
def flushScope (w : Nat) : Option (Option RegionId) :=
  if w = AdminEntry.allOnes then some none else (AdminEntry.regionOf w).map some

/-- Whether a slot is in a flush's scope. -/
def inScope (scope : Option RegionId) (y : Slot) : Bool :=
  match scope with
  | none => true
  | some rg => y.region == rg

/-- How a flush awaits a slot: not at all, or with a further write-back to follow or not (R100). -/
def awaitedAs (scope : Option RegionId) (k : SlotId) (y : Slot) : Option Awaited :=
  match y.phase with
  | .resident c =>
    if inScope scope y && (c.dirty != 0 || c.writeBack) then
      some { slot := k, again := c.writeBack && c.dirty != 0 }
    else none
  | _ => none

/-- The awaited set that a flush forms at its take (R100). -/
def awaitedSet (s : State) (scope : Option RegionId) : List Awaited :=
  (List.finRange 64).filterMap fun k => (s.cache.slots[k]).bind (awaitedAs scope k)

/-- The flush at its take: the awaited set, and the write-backs that it starts, in ascending slot number (R100). -/
def beginFlush (scope : Option RegionId) (s : State) : State :=
  let awaited := awaitedSet s scope
  (awaited.foldl (fun acc a => startWriteBack a.slot acc) (setProgress (.flush awaited) s))

/-- The checks and the effect of FLUSH_REGION; it runs until its awaited set is empty (R100, R156). -/
def flushRegion (e : Entry) (s : State) : State :=
  match flushScope (AdminEntry.w0 e) with
  | none => refuse .invalidParameter s
  | some none => flushCheck (beginFlush none s)
  | some (some n) =>
    if s.regions[n].phase = .undefined then refuse .regionUndefined s else flushCheck (beginFlush (some n) s)

/-- FLUSH_REGION (R100). -/
def execFlushRegion (xfer : Nat) (e : Entry) (s : State) : Result :=
  .next (takeCommand (· == 0x0A) (fun e => whileOperating 0 (flushRegion e)) xfer e s)

/-! ## ARM_PROBE and DISARM_PROBE (R166, R170) -/

/-- The checks of ARM_PROBE in order, and its effect (R166). -/
def armProbe (e : Entry) (s : State) : State :=
  let first := AdminEntry.w2 e
  let last := AdminEntry.w3 e
  match AdminEntry.probeOf (AdminEntry.w0 e), AdminEntry.regionOf (AdminEntry.w1 e) with
  | some p, some n =>
    if last < first ∨ s.regions[n].phase ≠ .active ∨ s.regions[n].count ≤ last then refuse .invalidParameter s
    else if s.probes[p] ≠ .disarmed then refuse .probeBusy s
    else done (s.setProbe p (.armed n first last))
  | _, _ => refuse .invalidParameter s

/-- ARM_PROBE (R166). -/
def execArmProbe (xfer : Nat) (e : Entry) (s : State) : Result :=
  .next (takeCommand (· == 0x0B) (fun e => whileOperating 0 (armProbe e)) xfer e s)

/-- The checks and the effect of DISARM_PROBE: a capture is returned in place of a result of kind COMMAND (R170). -/
def disarmProbe (e : Entry) (s : State) : State :=
  match AdminEntry.probeOf (AdminEntry.w0 e) with
  | none => refuse .invalidParameter s
  | some p =>
    match s.probes[p] with
    | .hit _ _ _ capture => finishCommand (captureBody capture) 5 (s.setProbe p .disarmed)
    | .armed _ _ _ | .disarmed => done (s.setProbe p .disarmed)

/-- DISARM_PROBE (R170). -/
def execDisarmProbe (xfer : Nat) (e : Entry) (s : State) : Result :=
  .next (takeCommand (· == 0x0C) (fun e => whileOperating 0 (disarmProbe e)) xfer e s)

/-! ## RELEASE_FAULT_LOG and SET_FAULT_POLICY (R178, R180) -/

/-- The fault unit after its log is released (R180). -/
def FaultUnit.released (u : FaultUnit) (clearSeen : Bool) : FaultUnit :=
  { u with capture := none, later := false, seen := if clearSeen then 0 else u.seen }

/-- The checks and the effect of RELEASE_FAULT_LOG (R180). -/
def releaseLog (e : Entry) (s : State) : State :=
  if 1 < AdminEntry.w0 e then refuse .invalidParameter s
  else
    completeCommand .done (if s.faults.capture.isSome then 1 else 0)
      (s.setFaults (s.faults.released (AdminEntry.w0 e == 1)))

/-- RELEASE_FAULT_LOG (R180). -/
def execReleaseFaultLog (xfer : Nat) (e : Entry) (s : State) : Result :=
  .next (takeCommand (· == 0x0E) (fun e => whileOperating 0 (releaseLog e)) xfer e s)

/-- The mask that a parameter names (R191). -/
def maskOf : Nat → Option Bool
  | 0 => some false
  | 1 => some true
  | _ => none

/-- The policy that a SET_FAULT_POLICY asks for, where its codes are valid (R178). -/
def requestedPolicy (e : Entry) : Option Policy :=
  match maskOf (AdminEntry.w1 e), severityOf (AdminEntry.w2 e) with
  | some masked, some severity => some { masked := masked, severity := severity }
  | _, _ => none

/-- The result value of SET_FAULT_POLICY: the policy in force before it, 0 where the class is none of the thirteen
(R178). -/
def policyValue (e : Entry) (u : FaultUnit) : BitVec 32 :=
  match faultClassOf (AdminEntry.w0 e) with
  | some c => (u.policy c).resultValue
  | none => 0

/-- The checks and the effect of SET_FAULT_POLICY (R172, R178). -/
def setPolicy (e : Entry) (s : State) : State :=
  match faultClassOf (AdminEntry.w0 e), requestedPolicy e with
  | some c, some p =>
    if c.fixed ∧ p.severity ≠ .deviceFatal then completeCommand .invalidParameter (policyValue e s.faults) s
    else
      completeCommand .done (policyValue e s.faults)
        (s.setFaults { s.faults with policies := s.faults.policies.set c.index p })
  | _, _ => completeCommand .invalidParameter (policyValue e s.faults) s

/-- SET_FAULT_POLICY (R178). -/
def execSetFaultPolicy (xfer : Nat) (e : Entry) (s : State) : Result :=
  .next (takeCommand (· == 0x0F) (fun e t => whileOperating (policyValue e t.faults) (setPolicy e) t) xfer e s)

/-! ## SET_CLEANER (R99, R156) -/

/-- The age limit in force, as a result value (R156). -/
def ageValue (s : State) : BitVec 32 := BitVec.ofNat 32 s.cache.ageLimit

/-- Starts a write-back on every slot whose age is already at or above the new limit, in ascending slot number (R99). -/
def cleanNow (s : State) : State :=
  (List.finRange 64).foldl (fun acc k => if cleanerDue acc k then startWriteBack k acc else acc) s

/-- The check and the effect of SET_CLEANER (R99, R156). Where a write-back that it starts finds an unsound image, the
INTERNAL_CHECK is handled before the command's result is posted: the rules do not order the two, and this order is
DESIGN CHOICE (notes/assumptions/39.md). -/
def setCleaner (e : Entry) (s : State) : State :=
  if 1000 < AdminEntry.w0 e then completeCommand .invalidParameter (ageValue s) s
  else completeCommand .done (ageValue s) (cleanNow (s.setAgeLimit (AdminEntry.w0 e)))

/-- SET_CLEANER (R99). -/
def execSetCleaner (xfer : Nat) (e : Entry) (s : State) : Result :=
  .next (takeCommand (· == 0x11) (fun e t => whileOperating (ageValue t) (setCleaner e) t) xfer e s)

end Sys2Proof.Machine
end

