-- ==== Sys2Proof/Machine/Dispatch.lean ====
section
/-! DEFINITION. The meaning of every command: one arm per constructor, each one call of the meaning. -/

namespace Sys2Proof.Machine

def exec (i : Instr) (s : State) : Host.Outcome State Fault Refusal :=
  match i with
  | .powerOnReset strapSz1 strapSz0 => Sys2Proof.Machine.execPowerOnReset strapSz1 strapSz0 s
  | .powerOnReady => Sys2Proof.Machine.execPowerOnReady s
  | .linkReset => Sys2Proof.Machine.execLinkReset s
  | .reset enable msgEn => Sys2Proof.Machine.execReset enable msgEn s
  | .resetEnd => Sys2Proof.Machine.execResetEnd s
  | .enable msgEn => Sys2Proof.Machine.execEnable msgEn s
  | .adminMsgEn msgEn => Sys2Proof.Machine.execAdminMsgEn msgEn s
  | .registerWrite offset width value => Sys2Proof.Machine.execRegisterWrite offset width value s
  | .post ring value => Sys2Proof.Machine.execPost ring value s
  | .adminPost value => Sys2Proof.Machine.execAdminPost value s
  | .release ring value => Sys2Proof.Machine.execRelease ring value s
  | .adminRelease value => Sys2Proof.Machine.execAdminRelease value s
  | .pendingNoticePost => Sys2Proof.Machine.execPendingNoticePost s
  | .fetchReadIssue ring => Sys2Proof.Machine.execFetchReadIssue ring s
  | .fetchReadComplete xfer entries => Sys2Proof.Machine.execFetchReadComplete xfer entries s
  | .fetchReadFailure xfer => Sys2Proof.Machine.execFetchReadFailure xfer s
  | .update => Sys2Proof.Machine.execUpdate s
  | .fetch => Sys2Proof.Machine.execFetch s
  | .store => Sys2Proof.Machine.execStore s
  | .fence => Sys2Proof.Machine.execFence s
  | .nop => Sys2Proof.Machine.execNop s
  | .bundle => Sys2Proof.Machine.execBundle s
  | .unknownOpcode => Sys2Proof.Machine.execUnknownOpcode s
  | .slotGrant => Sys2Proof.Machine.execSlotGrant s
  | .storeReadComplete xfer data => Sys2Proof.Machine.execStoreReadComplete xfer data s
  | .storeReadFailure xfer => Sys2Proof.Machine.execStoreReadFailure xfer s
  | .fillComplete slot errors => Sys2Proof.Machine.execFillComplete slot errors s
  | .fillUncorrectable slot errors => Sys2Proof.Machine.execFillUncorrectable slot errors s
  | .updateCommit ctx => Sys2Proof.Machine.execUpdateCommit ctx s
  | .fetchCommit ctx => Sys2Proof.Machine.execFetchCommit ctx s
  | .storeCommit ctx => Sys2Proof.Machine.execStoreCommit ctx s
  | .bundleCommit ctx => Sys2Proof.Machine.execBundleCommit ctx s
  | .hostBufferWriteComplete xfer => Sys2Proof.Machine.execHostBufferWriteComplete xfer s
  | .hostBufferWriteFailure xfer => Sys2Proof.Machine.execHostBufferWriteFailure xfer s
  | .resultWriteFailure xfer => Sys2Proof.Machine.execResultWriteFailure xfer s
  | .statusWriteComplete xfer => Sys2Proof.Machine.execStatusWriteComplete xfer s
  | .statusWriteFailure xfer => Sys2Proof.Machine.execStatusWriteFailure xfer s
  | .coalescingExpiry ring => Sys2Proof.Machine.execCoalescingExpiry ring s
  | .stallExpiry ring => Sys2Proof.Machine.execStallExpiry ring s
  | .cleanerExpiry slot => Sys2Proof.Machine.execCleanerExpiry slot s
  | .writeBackComplete slot => Sys2Proof.Machine.execWriteBackComplete slot s
  | .regionFillComplete => Sys2Proof.Machine.execRegionFillComplete s
  | .regionFillStopped current => Sys2Proof.Machine.execRegionFillStopped current s
  | .adminReadIssue => Sys2Proof.Machine.execAdminReadIssue s
  | .adminReadFailure xfer => Sys2Proof.Machine.execAdminReadFailure xfer s
  | .invalidCommand xfer entry => Sys2Proof.Machine.execInvalidCommand xfer entry s
  | .identify xfer entry => Sys2Proof.Machine.execIdentify xfer entry s
  | .createResultRing xfer entry => Sys2Proof.Machine.execCreateResultRing xfer entry s
  | .createWorkRing xfer entry => Sys2Proof.Machine.execCreateWorkRing xfer entry s
  | .deleteWorkRing xfer entry => Sys2Proof.Machine.execDeleteWorkRing xfer entry s
  | .deleteResultRing xfer entry => Sys2Proof.Machine.execDeleteResultRing xfer entry s
  | .pauseRing xfer entry => Sys2Proof.Machine.execPauseRing xfer entry s
  | .resumeRing xfer entry => Sys2Proof.Machine.execResumeRing xfer entry s
  | .defineRegion xfer entry => Sys2Proof.Machine.execDefineRegion xfer entry s
  | .retireRegion xfer entry => Sys2Proof.Machine.execRetireRegion xfer entry s
  | .flushRegion xfer entry => Sys2Proof.Machine.execFlushRegion xfer entry s
  | .armProbe xfer entry => Sys2Proof.Machine.execArmProbe xfer entry s
  | .disarmProbe xfer entry => Sys2Proof.Machine.execDisarmProbe xfer entry s
  | .readFaultLog xfer entry => Sys2Proof.Machine.execReadFaultLog xfer entry s
  | .releaseFaultLog xfer entry => Sys2Proof.Machine.execReleaseFaultLog xfer entry s
  | .setFaultPolicy xfer entry => Sys2Proof.Machine.execSetFaultPolicy xfer entry s
  | .listPoison xfer entry => Sys2Proof.Machine.execListPoison xfer entry s
  | .setCleaner xfer entry => Sys2Proof.Machine.execSetCleaner xfer entry s
  | .adminBufferWriteComplete xfer => Sys2Proof.Machine.execAdminBufferWriteComplete xfer s
  | .adminBufferWriteFailure xfer => Sys2Proof.Machine.execAdminBufferWriteFailure xfer s
  | .adminResultWriteFailure xfer => Sys2Proof.Machine.execAdminResultWriteFailure xfer s

end Sys2Proof.Machine
end

