-- ==== Sys2Proof/Machine/Tick.lean ====
section
/-! DEFINITION. One microsecond in which nothing is commanded. -/

namespace Sys2Proof.Machine

/-- A record with one bit of one lane inverted. -/
def flipBit (r : Record) (lane : LaneId) (bit : Fin 32) : Record :=
  r.set lane (r[lane] ^^^ (1 <<< bit.val))

/-- A slot image one bit of which is upset: its parity is left as it was formed (R113). -/
def Slot.upset (y : Slot) (u : ImageUpset) : Slot :=
  match y.phase with
  | .resident c =>
    { y with phase := .resident { c with image := { c.image with lanes := flipBit c.image.lanes u.lane u.bit } } }
  | _ => y

/-- The upset, if any, of the microsecond that begins at the given time. -/
def applyUpset (u : Option ImageUpset) (s : State) : State :=
  match u with
  | none => s
  | some u => s.setSlot u.slot ((s.cache.slots[u.slot]).map fun y => y.upset u)

/-- A microsecond passes: a bit of a slot image may be upset, and a region-fill job goes on. -/
def tick (s : State) : State :=
  let s1 := advanceRegionFill (Config.fillPace s.now) (applyUpset (Config.imageUpset s.now) s)
  { s1 with now := s1.now + 1 }

end Sys2Proof.Machine
end

