-- ==== Sys2Proof/Safety.lean ====
section
/-! DEFINITION. What a sound state of the part is: the invariants that the data sheet states of its tables, lists and
rings, and the end of an event as claims speak of it. -/

namespace Sys2Proof.Machine

/-- The record store's bytes, its check bits and its bits in error are in canonical form. -/
def MemoryCanonical (s : State) : Prop := StoreCanonical s.store

/-- An UNDEFINED descriptor is cleared, and a defined one satisfies the conditions of R3. -/
def regionProper (size : Nat) (rg : Region) : Prop :=
  if rg.phase = .undefined then rg = Region.cleared else validRegion size rg = true

/-- Every descriptor is proper (R3), and two defined regions never share a record (R4). -/
def RegionsProper (s : State) : Prop :=
  (∀ n : RegionId, regionProper s.store.size s.regions[n]) ∧
    ∀ a b : RegionId, a ≠ b → s.regions[a].phase ≠ .undefined → regionsOverlap s.regions[a] s.regions[b] = false

/-- The poison list holds no duplicates and at most 64 entries (R114). -/
def PoisonProper (s : State) : Prop := s.store.poison.Nodup ∧ s.store.poison.length ≤ Config.poisonCapacity

/-- The pending notice list holds one record for each kind and source, with a count of 1 to 255 (R160). -/
def NoticesProper (s : State) : Prop :=
  (s.admin.notices.map PendingNotice.notice).Nodup ∧
    ∀ p ∈ s.admin.notices, 1 ≤ p.repeats ∧ p.repeats ≤ Config.repeatLimit

/-- The record that a slot holds, if any. -/
def slotRecord (s : State) (k : SlotId) : Option Nat := (s.cache.slots[k]).map Slot.record

/-- A global record number is held by at most one slot (R81). -/
def SlotsDistinct (s : State) : Prop :=
  ∀ k k' : SlotId, slotRecord s k ≠ none → slotRecord s k = slotRecord s k' → k = k'

/-- A listed record is held by no slot but one in AWAITING_STORE, and a fill job is that of a FILLING slot which holds
its record (R96, R104, R114). -/
def PoisonApart (s : State) : Prop :=
  (∀ (k : SlotId) (y : Slot), s.cache.slots[k] = some y → y.record ∈ s.store.poison → y.phase = .awaitingStore) ∧
    ∀ (k : SlotId) (n : Nat), Job.fill k n ∈ s.store.jobs →
      ∃ y, s.cache.slots[k] = some y ∧ y.phase = .filling ∧ y.record = n

/-- The recency order lists every RESIDENT slot, once, and nothing else (R84). -/
def RecencyProper (s : State) : Prop :=
  s.cache.recency.Nodup ∧
    ∀ k : SlotId, k ∈ s.cache.recency ↔ ∃ y, s.cache.slots[k] = some y ∧ y.isResident = true

/-- The link numbers the transfers in the order of their issue, each below the next one's number. -/
def LinkOrdered (s : State) : Prop :=
  (s.link.transfers.map Transfer.xfer).Pairwise (· < ·) ∧ ∀ x ∈ s.link.transfers, x.xfer < s.link.next

/-- A work ring that is not DELETING. -/
def notDeleting (w : Option WorkRing) : Bool :=
  match w with
  | some w => match w.phase with
    | .deleting _ => false
    | _ => true
  | none => true

/-- A result ring whose stall is not TIMING. -/
def notTiming (q : Option ResultRing) : Bool :=
  match q with
  | some q => match q.stall with
    | .timing _ => false
    | _ => true
  | none => true

/-- While the device is FAILED every context is FREE, no slot request waits, no ring is DELETING and no stall is timed
(R80, R90, R135, R146, R176). -/
def FailedQuiet (s : State) : Prop :=
  s.faults.failed = true →
    (∀ c : CtxId, s.contexts[c] = none) ∧ s.cache.requests = [] ∧
      (∀ r : RingId, notDeleting s.rings.work[r] = true) ∧ ∀ r : RingId, notTiming s.rings.results[r] = true

/-- A work ring's outstanding set is within its in-flight limit. -/
def withinLimit (w : Option WorkRing) : Bool :=
  match w with
  | some w => decide (w.outstanding.length ≤ w.inFlightLimit)
  | none => true

/-- No outstanding set holds more slot indexes than its ring's in-flight limit (R129). -/
def InFlightBounded (s : State) : Prop := ∀ r : RingId, withinLimit s.rings.work[r] = true

/-- A work ring's indexes are below its size and stand in the order retire, take, fetch, post; its prefetch buffer holds
no more entries than lie between take and fetch, a read in flight that is not stale asks for no entry that is not
posted, and its outstanding slots lie between retire and take (R119, R122 to R124, R129). -/
structure WorkRing.Ordered (w : WorkRing) : Prop where
  post : w.post < w.size
  fetch : w.fetch < w.size
  take : w.take < w.size
  retire : w.retire < w.size
  takeFetch : ringGap w.size w.retire w.take ≤ ringGap w.size w.retire w.fetch
  fetchPost : ringGap w.size w.retire w.fetch ≤ ringGap w.size w.retire w.post
  prefetch : ringGap w.size w.retire w.take + w.prefetch.length ≤ ringGap w.size w.retire w.fetch
  inFlight : ∀ f, w.fetchRead = some f → w.fetchStale = false →
    ringGap w.size w.retire w.fetch + f.count ≤ ringGap w.size w.retire w.post
  distinct : w.outstanding.Nodup
  outstanding : ∀ i ∈ w.outstanding, i < w.size ∧ ringGap w.size w.retire i < ringGap w.size w.retire w.take

/-- The outstanding set of a work ring, empty for an ABSENT one. -/
def outstandingOf (s : State) (r : RingId) : List Nat := (s.rings.work[r]).elim [] WorkRing.outstanding

/-- The ring slots of the members that contexts hold for a work ring. -/
def slotsHeld (s : State) (r : RingId) : List Nat :=
  (List.finRange 16).flatMap fun c : CtxId =>
    match s.contexts[c] with
    | some x => if x.ring = r then x.members.map Member.ringSlot else []
    | none => []

/-- How many entries are outstanding in the work rings that are bound to a result ring. -/
def outstandingBound (s : State) (rr : RingId) : Nat :=
  ((List.finRange 15).map fun r : RingId => if boundTo s rr r then (outstandingOf s r).length else 0).sum

/-- Results are reserved for every outstanding entry: a work ring's result ring exists and has reserved at least as many
entries as are outstanding in the rings bound to it, and the entries that contexts hold are outstanding, each held
once (R128, R129, R138). -/
structure ResultsReserved (s : State) : Prop where
  bound : ∀ (r : RingId) (w : WorkRing), s.rings.work[r] = some w → ∃ q, s.rings.results[w.boundTo] = some q
  reserved : ∀ (rr : RingId) (q : ResultRing), s.rings.results[rr] = some q → outstandingBound s rr ≤ q.reserved
  held : ∀ r : RingId, (slotsHeld s r).Nodup ∧ ∀ i ∈ slotsHeld s r, i ∈ outstandingOf s r

/-- A result ring's produced and unreleased entries and its reserved ones are together at most N - 1 (R138). -/
structure ResultRing.CreditBounded (q : ResultRing) : Prop where
  produce : q.produce < q.size
  release : q.release < q.size
  credit : ringGap q.size q.release q.produce + q.reserved ≤ q.size - 1

/-- The rings are sound: the order of R129, the reservations, and the credit bound of R138. -/
structure RingsSound (s : State) : Prop where
  ordered : ∀ (r : RingId) (w : WorkRing), s.rings.work[r] = some w → w.Ordered
  results : ResultsReserved s
  credit : ∀ (rr : RingId) (q : ResultRing), s.rings.results[rr] = some q → q.CreditBounded

/-- The region and the range of a probe that is ARMED or HIT. -/
def Probe.watch : Probe → Option (RegionId × Nat × Nat)
  | .disarmed => none
  | .armed rg first last => some (rg, first, last)
  | .hit rg first last _ => some (rg, first, last)

/-- The region of a probe that is ARMED or HIT is ACTIVE, and its range lies in the region (R165); the region that a
RETIRE_REGION retires is not ACTIVE (R11). -/
structure ProbesWatchActive (s : State) : Prop where
  watch : ∀ (p : ProbeId) (rg : RegionId) (first last : Nat), (s.probes[p]).watch = some (rg, first, last) →
    s.regions[rg].phase = .active ∧ first ≤ last ∧ last < s.regions[rg].count
  retiring : ∀ (rg : RegionId) (n : Nat), runningProgress s = some (.retireWait rg n) ∨
    runningProgress s = some (.retireRelease rg n) → s.regions[rg].phase ≠ .active

/-- A sound state. -/
structure Sound (s : State) : Prop where
  memory : MemoryCanonical s
  regions : RegionsProper s
  poison : PoisonProper s
  notices : NoticesProper s
  slots : SlotsDistinct s
  apart : PoisonApart s
  recency : RecencyProper s
  link : LinkOrdered s
  failed : FailedQuiet s
  inFlight : InFlightBounded s
  rings : RingsSound s
  probes : ProbesWatchActive s

/-- The end of an event that began in `s`, whose own effect gave `u`, and which raises `faults` in this order: the
faults are handled, the blocks react (R64, R90, R133, R146), and the admin message is caused (R158). That the blocks
react at the end, in one order, is DEDUCED (notes/assumptions/15.md). -/
def afterEvent (s u : State) (faults : List RaisedFault) : State :=
  adminMessage s.link.next (settle (raiseFaults faults u))

/-! ## Words for the states that commands find -/

/-- Whether `xfer` is the number of a transfer of this kind whose issuer waits for its report (R182). -/
def awaits (s : State) (xfer : Nat) (kind : TransferKind) : Bool :=
  match findTransfer xfer s with
  | some x => x.kind == kind && x.heeded
  | none => false

/-- Whether the host read numbered `xfer` can complete now: it is waited for and has not run out (R182). -/
def readAwaits (s : State) (xfer : Nat) (kind : TransferKind) : Bool := awaits s xfer kind && readInTime xfer s

/-- Whether the admin entry that the admin controller reads can arrive now (R153). -/
def commandArrives (s : State) (xfer : Nat) : Bool :=
  readAwaits s xfer .adminRead &&
    match s.admin.rings with
    | some a => a.command == .reading
    | none => false

/-- The state in which an admin command is carried out: its read is over and it is the running command (R153). -/
def commandTaken (xfer : Nat) (e : Entry) (s : State) : State := beginCommand e (dropTransfer xfer s)

/-- The outcome of an event in which the admin command that runs in `u` completes with a status and a result value
(R154, R158). -/
def commandEnds (s u : State) (st : AdminStatus) (value : BitVec 32) : Result :=
  .next (afterEvent s (completeCommand st value u) [])

/-- The state in which a unit of `n` entries of ring `r` is judged, reserved and taken (R127, R128). -/
def unitTaken (r : RingId) (w : WorkRing) (n : Nat) (s : State) : State :=
  reserve w.boundTo n ((s.setWork r (some (w.taken n))).setLastServed r)

/-- The row of the table that the take of a unit belongs to. -/
def takeRow : UnitKind → Instr
  | .single (some .update) => .update
  | .single (some .fetch) => .fetch
  | .single (some .store) => .store
  | .single (some .fence) => .fence
  | .single (some .nop) => .nop
  | .single none => .unknownOpcode
  | .bundle => .bundle

/-- The commands that end a job of the store controller. -/
def endsJob : Instr → Bool
  | .fillComplete _ _ | .fillUncorrectable _ _ | .writeBackComplete _ | .regionFillComplete
  | .regionFillStopped _ => true
  | _ => false

/-- A slot while a function reset releases the cache: unclaimed, and FILLING or with a write-back in flight (R102). -/
def releasedSlot : Option Slot → Bool
  | none => true
  | some y => y.claims.isEmpty && match y.phase with
    | .filling => true
    | .resident c => c.writeBack
    | .awaitingStore => false

/-- What the release of a slot makes of a slot that is not AWAITING_STORE (R101, R102): a clean one is freed; a dirty
one whose image is sound has its write-back started, with its job issued; a dirty one whose image is unsound is freed
(R86); one FILLING, or with a write-back in flight, waits for its completion. -/
structure SlotReleased (k : SlotId) (y : Slot) (t : State) : Prop where
  waits : (y.phase = .filling ∨ ∃ c, y.phase = .resident c ∧ c.writeBack = true) → t.cache.slots[k] = some y
  clean : ∀ c, y.phase = .resident c → c.writeBack = false → c.dirty = 0 → t.cache.slots[k] = none
  dirty : ∀ c, y.phase = .resident c → c.writeBack = false → c.dirty ≠ 0 → c.image.parity = recordParity c.image.lanes →
    t.cache.slots[k] = some { y with
      phase := .resident { c with dirty := 0, dirtySince := none, writeBack := true } } ∧
    Job.writeBack k y.record c.image.lanes c.dirty ∈ t.store.jobs
  unsound : ∀ c, y.phase = .resident c → c.writeBack = false → c.dirty ≠ 0 →
    c.image.parity ≠ recordParity c.image.lanes → t.cache.slots[k] = none

/-- What the request of a function reset does to the slots and to the store controller's jobs: contexts leave, an
AWAITING_STORE slot is freed, every other slot is released, and the jobs at the request run on, joined by nothing but
the write-backs of dirty slots (R102, R103, R118). -/
structure CacheReleased (s t : State) : Prop where
  free : ∀ k : SlotId, s.cache.slots[k] = none → t.cache.slots[k] = none
  awaiting : ∀ (k : SlotId) (y : Slot), s.cache.slots[k] = some y → y.phase = .awaitingStore → t.cache.slots[k] = none
  released : ∀ (k : SlotId) (y : Slot), s.cache.slots[k] = some y → y.phase ≠ .awaitingStore →
    SlotReleased k { y with claims := [] } t
  jobs : ∀ j : Job, j ∈ t.store.jobs ↔ j ∈ s.store.jobs ∨ ∃ k y c, s.cache.slots[(k : SlotId)] = some y ∧
    y.phase = .resident c ∧ c.writeBack = false ∧ c.dirty ≠ 0 ∧ c.image.parity = recordParity c.image.lanes ∧
    j = .writeBack k y.record c.image.lanes c.dirty

/-- What the request of a function reset leaves of every block (R79, R102, R135, R149, R164, R171, R185). -/
structure BlocksDropped (t : State) : Prop where
  phase : t.resetPhase = .functionReset
  contexts : ∀ c : CtxId, t.contexts[c] = none
  slots : ∀ k : SlotId, releasedSlot t.cache.slots[k] = true
  requests : t.cache.requests = []
  ageLimit : t.cache.ageLimit = Config.defaultAgeLimit
  workRings : ∀ r : RingId, t.rings.work[r] = none
  resultRings : ∀ r : RingId, t.rings.results[r] = none
  adminPhase : t.admin.phase = .disabled
  adminRings : t.admin.rings = none
  probes : ∀ p : ProbeId, t.probes[p] = .disarmed
  transfers : ∀ x ∈ t.link.transfers, x.heeded = false

/-- A region after an event of a function reset that is no end of its fill: a DRAINING region becomes UNDEFINED when no
slot holds a record of it, and every other one, ACTIVE or FILLING, is as it was (R16 to R18). -/
def RegionsAtReset (s t : State) : Prop :=
  ∀ n : RegionId,
    ((s.regions[n].phase = .draining ∧ ∀ k y, t.cache.slots[(k : SlotId)] = some y → y.region ≠ n) →
      t.regions[n] = Region.cleared) ∧
    (¬(s.regions[n].phase = .draining ∧ ∀ k y, t.cache.slots[(k : SlotId)] = some y → y.region ≠ n) →
      t.regions[n] = s.regions[n])

/-- What a function reset keeps (R16, R114, R117, R181). -/
structure StoreAndPoliciesKept (s t : State) : Prop where
  size : t.store.size = s.store.size
  dram : t.store.dram = s.store.dram
  check : t.store.check = s.store.check
  errors : t.store.errors = s.store.errors
  poison : t.store.poison = s.store.poison
  policies : t.faults.policies = s.faults.policies
  capture : s.faults.capture ≠ none → t.faults.capture = s.faults.capture
  faults : (∀ k y c, s.cache.slots[(k : SlotId)] = some y → y.phase = .resident c → c.writeBack = false →
    c.dirty ≠ 0 → c.image.parity = recordParity c.image.lanes) → t.faults = s.faults
  regions : RegionsAtReset s t

/-- A work ring once the results of these slots are posted: they are no longer outstanding, and the ring has retired
what it can (R129). -/
def WorkRing.finished (w : WorkRing) (slots : List Nat) : WorkRing :=
  let w' := { w with outstanding := w.outstanding.filter fun i => !slots.contains i }
  { w' with retire := w'.retired }

/-- A result ring once `n` results are posted at a time (R139). -/
def ResultRing.postedMany (now : Nat) : Nat → ResultRing → ResultRing
  | 0, q => q
  | n + 1, q => ResultRing.postedMany now n (q.posted now)

/-- A result ring after the coalescing check at the end of a posting event (R144). -/
def ResultRing.signalled (q : ResultRing) : ResultRing :=
  if q.messageDue then { q with unsignalled := 0, firstUnsignalled := none } else q

/-- The offsets of the admin configuration registers as 32-bit accesses see them (R183). -/
def configOffsets : List Nat :=
  [0x010, 0x014, 0x018, 0x01C, 0x020, 0x028, 0x02C, 0x030, 0x034, 0x038]

/-- The offsets of the 64-bit registers (R183). -/
def wideOffsets : List Nat := [0x010, 0x018, 0x028, 0x030]

end Sys2Proof.Machine
end

