-- ==== Sys2Proof/Certificates/Slice0/Obligations.lean ====
section
/-! DEFINITION. What the provers are asked to prove of the model, in the order of OBLIGATIONS.json. -/

section Statements

open Sys2Proof Sys2Proof.Machine

/-! ## The machine -/

/-- A step takes the command at the front of the queue; on an empty queue a microsecond passes, in which at most one
bit of a slot image is upset and a region-fill job may write some of its next records, its last one apart. Model's
choice: what the queue and a microsecond are, and the job's speed (notes/assumptions/1.md, 2.md, 3.md and 8.md). -/
def Obligations.StepRunsFront : Prop :=
  (∀ (c : Instr) (rest : List Instr) (s : State),
    step { s with pending := c :: rest } = exec c { s with pending := rest }) ∧
  ∀ s : State, s.pending = [] → ∃ t, step s = .next t ∧
    t = { s with cache := { s.cache with slots := t.cache.slots }, store := t.store, now := s.now + 1 } ∧
    (∀ k : SlotId, t.cache.slots[k] = s.cache.slots[k] ∨
      ∃ y u, s.cache.slots[k] = some y ∧ t.cache.slots[k] = some (y.upset u)) ∧
    (s.store.regionFillJob = none ∨ s.resetPhase = .functionReset → t.store = s.store) ∧
    ∀ first last pattern next, s.store.regionFillJob = some (first, last, pattern, next) →
      s.resetPhase ≠ .functionReset → ∃ n, (n = 0 ∨ next + n ≤ last ∧ next + n ≤ s.store.size) ∧
        t.store.regionFillJob = some (first, last, pattern, next + n) ∧
        t.store = { fillRecords s.store pattern next n with jobs := t.store.jobs } ∧
        ∀ j : Job, j.isRegionFill = false → (j ∈ t.store.jobs ↔ j ∈ s.store.jobs)

/-- The state after power-on reset (R16, R80, R103, R117, R118, R127, R135, R149, R150, R171, R172, R186). Model's
choice: the link state READY and strap pins low (notes/assumptions/5.md). -/
def Obligations.ResetValues : Prop :=
  (∀ o ∈ [0x004, 0x010, 0x014, 0x018, 0x01C, 0x020, 0x028, 0x02C, 0x030, 0x034, 0x038],
    readRegister State.reset o = 0) ∧
  readRegister State.reset 0x000 = 0x126C5C01 ∧ readRegister State.reset 0x008 = 1 ∧
  (∀ n : RegionId, State.reset.regions[n].phase = .undefined) ∧
  (∀ c : CtxId, State.reset.contexts[c] = none) ∧
  (∀ k : SlotId, State.reset.cache.slots[k] = none) ∧
  State.reset.cache.recency = [] ∧ State.reset.cache.requests = [] ∧ State.reset.cache.ageLimit = 100 ∧
  State.reset.store.poison = [] ∧ State.reset.store.jobs = [] ∧
  (∀ r : RingId, State.reset.rings.work[r] = none ∧ State.reset.rings.results[r] = none) ∧
  State.reset.store.size = 33554432 ∧ State.reset.store.dram = [] ∧ State.reset.store.errors = [] ∧
  ringNumber State.reset.rings.lastServed = 15 ∧
  State.reset.admin.phase = .disabled ∧ State.reset.admin.rings = none ∧ State.reset.admin.notices = [] ∧
  (∀ p : ProbeId, State.reset.probes[p] = .disarmed) ∧
  State.reset.faults.capture = none ∧ State.reset.faults.seen = 0 ∧ State.reset.faults.failed = false ∧
  (∀ c : FaultClass, ((State.reset.faults.policy c).masked = true ↔
    c = .regionInactive ∨ c = .poisonHit ∨ c = .mediaCorrected ∨ c = .resultStall)) ∧
  ∀ c : FaultClass, (State.reset.faults.policy c).severity =
    match c with
    | .poisonListFull | .hostRead | .hostBufferWrite | .hostProtocol => .ringFatal
    | .hostRingWrite | .internalCheck => .deviceFatal
    | _ => .advisory

/-- The state after power-on reset is sound. Model's choice: the state that reset leaves (notes/assumptions/5.md). -/
def Obligations.ResetSound : Prop := Sound State.reset

/-! ## Invariants that every step keeps -/

/-- Every descriptor stays proper, and no two defined regions ever share a record (R3, R4). -/
def Obligations.StepKeepsRegionsProper : Prop :=
  ∀ s t : State, RegionsProper s → step s = .next t → RegionsProper t

/-- A record is held by at most one slot, a listed record only by an AWAITING_STORE slot, the poison list stays within
its 64 entries, and the recency order lists the RESIDENT slots (R81, R84, R114). -/
def Obligations.StepKeepsCacheSound : Prop :=
  ∀ s t : State, SlotsDistinct s → PoisonApart s → PoisonProper s → RecencyProper s → step s = .next t →
    SlotsDistinct t ∧ PoisonApart t ∧ PoisonProper t ∧ RecencyProper t

/-- A FAILED device holds no context, no slot request, no DELETING ring and no timed stall (R80, R90, R135, R146,
R176). -/
def Obligations.StepKeepsFailedQuiet : Prop :=
  ∀ s t : State, FailedQuiet s → step s = .next t → FailedQuiet t

/-- The link's transfers stay in the order of their numbers. Model's choice: the numbers of transfers
(notes/assumptions/4.md). -/
def Obligations.StepKeepsLinkOrdered : Prop :=
  ∀ s t : State, LinkOrdered s → step s = .next t → LinkOrdered t

/-- The record store keeps its canonical form. Model's choice: the canonical form (notes/assumptions/6.md). -/
def Obligations.StepKeepsMemoryCanonical : Prop :=
  ∀ s t : State, MemoryCanonical s → step s = .next t → MemoryCanonical t

/-- The pending notices stay one to a kind and source with counts of 1 to 255, the outstanding sets stay within the
in-flight limits, the indexes of a work ring stay in the order retire, take, fetch, post, every outstanding entry keeps
its reservation and a result ring's produced and reserved entries stay within N - 1, and the region of an ARMED or HIT
probe stays ACTIVE (R122, R129, R138, R160, R165). -/
def Obligations.StepKeepsListsBounded : Prop :=
  (∀ s t : State, NoticesProper s → step s = .next t → NoticesProper t) ∧
  (∀ s t : State, InFlightBounded s → step s = .next t → InFlightBounded t) ∧
  (∀ s t : State, RingsSound s → step s = .next t → RingsSound t) ∧
  ∀ s t : State, ProbesWatchActive s → step s = .next t → ProbesWatchActive t

/-! ## Rules of the whole machine -/

/-- No command is refused, and none stops but the end of a store controller job outside the store (R117). Model's
choice: that a command whose condition does not hold answers a next state in which nothing is changed, that a command
takes no time and leaves the queue as it was, and the fault outsideStore (notes/assumptions/1.md, 2.md and 9.md). -/
def Obligations.NothingRefused : Prop :=
  ∀ (c : Instr) (s : State),
    (∃ t, exec c s = .next t ∧ t.pending = s.pending ∧ t.now = s.now) ∨
      (exec c s = .fault .outsideStore ∧ endsJob c = true)

/-- A captured fault is held until RELEASE_FAULT_LOG or a power-on reset (R174, R180, R181). -/
def Obligations.CapturedFaultStays : Prop :=
  ∀ (c : Instr) (s t : State) (f : RaisedFault), exec c s = .next t → s.faults.capture = some f →
    (∀ xfer e, c ≠ .releaseFaultLog xfer e) → (∀ sz1 sz0, c ≠ .powerOnReset sz1 sz0) → t.faults.capture = some f

/-- Policies change only by SET_FAULT_POLICY, and a seen class leaves the seen-class set only by RELEASE_FAULT_LOG,
whatever fault adds classes to it; a power-on reset apart (R172, R174, R178, R180, R181). -/
def Obligations.PoliciesAndSeenClassesKept : Prop :=
  ∀ (c : Instr) (s t : State), exec c s = .next t → (∀ sz1 sz0, c ≠ .powerOnReset sz1 sz0) →
    ((∀ xfer e, c ≠ .setFaultPolicy xfer e) → t.faults.policies = s.faults.policies) ∧
    ((∀ xfer e, c ≠ .releaseFaultLog xfer e) → s.faults.seen ||| t.faults.seen = t.faults.seen)

/-- FAILED is left only at the end of a function reset, or at a power-on reset (R176). -/
def Obligations.FailedLeftOnlyByReset : Prop :=
  ∀ (c : Instr) (s t : State), exec c s = .next t → s.faults.failed = true → c ≠ .resetEnd →
    (∀ sz1 sz0, c ≠ .powerOnReset sz1 sz0) → t.faults.failed = true

/-- What changes the record store: S only at a power-on reset; its bytes and check bits only at the end of a write-back
or a region fill; the bits that stand in error only there and at the end of a fill; the poison list only at an
uncorrectable fill, a STORE's commit or the end of a region fill (R16, R105, R108, R109, R111, R112, R114, R117).
Model's choice: which bits stand in error, what the bytes hold at the end of a job, and that a region fill also writes
while no command is taken (notes/assumptions/7.md and 8.md). -/
def Obligations.StoreChangedOnlyByItsJobs : Prop :=
  ∀ (c : Instr) (s t : State), exec c s = .next t → (∀ sz1 sz0, c ≠ .powerOnReset sz1 sz0) →
    t.store.size = s.store.size ∧
    ((∀ k, c ≠ .writeBackComplete k) → c ≠ .regionFillComplete → (∀ n, c ≠ .regionFillStopped n) →
      t.store.dram = s.store.dram ∧ t.store.check = s.store.check ∧
        ((∀ k errors, c ≠ .fillComplete k errors) → (∀ k errors, c ≠ .fillUncorrectable k errors) →
          t.store.errors = s.store.errors)) ∧
    ((∀ k errors, c ≠ .fillUncorrectable k errors) → (∀ x, c ≠ .storeCommit x) → c ≠ .regionFillComplete →
      t.store.poison = s.store.poison)

/-- A HIT probe keeps its range and its capture until it is disarmed, its region retires or a reset comes (R165, R170,
R171). -/
def Obligations.HitProbeStays : Prop :=
  ∀ (c : Instr) (s t : State) (p : ProbeId) (rg : RegionId) (first last : Nat) (cap : Capture),
    exec c s = .next t → s.probes[p] = .hit rg first last cap → (∀ xfer e, c ≠ .disarmProbe xfer e) →
    (∀ xfer e, c ≠ .retireRegion xfer e) → (∀ en m, c ≠ .reset en m) → c ≠ .linkReset →
    (∀ sz1 sz0, c ≠ .powerOnReset sz1 sz0) → t.probes[p] = .hit rg first last cap

/-- While RESETTING is set every register write is ignored, and a further request of a function reset joins the reset
that is under way (R185, R186). Model's choice: the strap operand and the joining of a request
(notes/assumptions/19.md). -/
def Obligations.WritesIgnoredWhileResetting : Prop :=
  ∀ s : State, s.resetPhase ≠ .operating →
    (∀ en m, exec (.reset en m) s = .next s) ∧ exec .linkReset s = .next s ∧ (∀ m, exec (.enable m) s = .next s) ∧
    (∀ m, exec (.adminMsgEn m) s = .next s) ∧ (∀ o w v, exec (.registerWrite o w v) s = .next s) ∧
    (∀ r v, exec (.post r v) s = .next s) ∧ (∀ r v, exec (.release r v) s = .next s) ∧
    (∀ v, exec (.adminPost v) s = .next s) ∧ ∀ v, exec (.adminRelease v) s = .next s

/-! ## Tests, lane operations and validation -/

/-- R39: the outcomes of EQUAL and NOT_EQUAL for each arrangement of key lanes. -/
def Obligations.MatchOutcomes : Prop :=
  ∀ (rg : Region) (e : Entry) (pre : Record),
    let aMatches := fun k : LaneId => pre[k] = WorkEntry.keyOperandA e
    let bMatches := fun k : LaneId => pre[k] = WorkEntry.keyOperandB e
    (WorkEntry.matchFunction e = some .equal →
      (rg.keyA = none → rg.keyB = none → matchTest rg e pre = true) ∧
      (∀ a, rg.keyA = some a → rg.keyB = none → (matchTest rg e pre = true ↔ aMatches a)) ∧
      ∀ a b, rg.keyA = some a → rg.keyB = some b → (matchTest rg e pre = true ↔ aMatches a ∧ bMatches b)) ∧
    (WorkEntry.matchFunction e = some .notEqual →
      (rg.keyA = none → rg.keyB = none → matchTest rg e pre = false) ∧
      (∀ a, rg.keyA = some a → rg.keyB = none → (matchTest rg e pre = true ↔ ¬aMatches a)) ∧
      ∀ a b, rg.keyA = some a → rg.keyB = some b → (matchTest rg e pre = true ↔ ¬aMatches a ∨ ¬bMatches b)) ∧
    (WorkEntry.matchFunction e = some .always → matchTest rg e pre = true) ∧
    (WorkEntry.matchFunction e = some .never → matchTest rg e pre = false)

/-- R40 and R41: the magnitude test compares the masked lane with the masked operand, unsigned, the record on the left;
operand bits outside the mask have no effect. -/
def Obligations.MagnitudeCompares : Prop :=
  (∀ (rg : Region) (e : Entry) (pre : Record) (f : MagnitudeFunction), WorkEntry.magnitudeFunction e = some f →
    let left := (pre[WorkEntry.magnitudeLane e] &&& WorkEntry.magnitudeMask e).toNat
    let right := (WorkEntry.magnitudeOperand e &&& WorkEntry.magnitudeMask e).toNat
    (magnitudeTest e pre = true ↔
      match f with
      | .always => True
      | .never => False
      | .eq => left = right
      | .ne => left ≠ right
      | .lt => left < right
      | .le => left ≤ right
      | .gt => left > right
      | .ge => left ≥ right) ∧
    (matchTest rg e pre = true → magnitudeTest e pre = true → updateVerdict rg e pre = .pass) ∧
    (matchTest rg e pre = true → magnitudeTest e pre = false → updateVerdict rg e pre = .magnitudeFail) ∧
    (matchTest rg e pre = false → updateVerdict rg e pre = .matchFail)) ∧
  ∀ (f : MagnitudeFunction) (lane x y mask : Lane), x &&& mask = y &&& mask →
    f.passes (lane &&& mask) (x &&& mask) = f.passes (lane &&& mask) (y &&& mask)

/-- What an evaluated UPDATE's verdict and ELSE_ARM flag choose, and the flags of its result (R42, R43, R50, R56). -/
def Obligations.VerdictChoosesArm : Prop :=
  ∀ v : Evaluated, WorkEntry.opcode v.member.entry = some .update →
    (v.verdict = .pass → v.arm = some .pass) ∧
    (v.verdict = .magnitudeFail → WorkEntry.elseArm v.member.entry = true → v.arm = some .els) ∧
    (v.verdict = .magnitudeFail → WorkEntry.elseArm v.member.entry = false → v.arm = none) ∧
    (v.verdict = .matchFail → v.arm = none) ∧
    (v.arm = none → v.outcome.committed = false ∧ v.outcome.elseApplied = false ∧ v.outcome.written = 0 ∧
      v.outcome.floor = false ∧ v.outcome.ceiling = false ∧ v.outcome.versionWord = versionWordOf v.region v.pre) ∧
    (∀ arm, v.arm = some arm → v.outcome.committed = true ∧ (v.outcome.elseApplied = true ↔ arm = .els) ∧
      (v.outcome.floor = true ↔ ∃ i : LaneId, (armResult v.member.entry arm v.pre i).floor = true) ∧
      (v.outcome.ceiling = true ↔ ∃ i : LaneId, (armResult v.member.entry arm v.pre i).ceiling = true) ∧
      v.outcome.versionWord = versionWordOf v.region (v.image arm)) ∧
    v.outcome.status = .success ∧ v.outcome.verdict = v.verdict ∧ v.outcome.withheld = false ∧
    v.outcome.imageReturned = false

/-- R45, R46 and R49: the operations that set no flag, and their places in the written-lane set. -/
def Obligations.LaneOperations : Prop :=
  (∀ (pre : Record) (i : LaneId) (a b : Lane),
    laneResult .keep pre i a b = .plain pre[i] ∧
    laneResult .zero pre i a b = .plain 0 ∧
    laneResult .set pre i a b = .plain a ∧
    laneResult .and pre i a b = .plain (pre[i] &&& a) ∧
    laneResult .or pre i a b = .plain (pre[i] ||| a) ∧
    laneResult .xor pre i a b = .plain (pre[i] ^^^ a) ∧
    (∃ x, laneResult .clear pre i a b = .plain x ∧
      ∀ n, n < 32 → x.getLsbD n = (pre[i].getLsbD n && !a.getLsbD n)) ∧
    (∃ x, laneResult .invert pre i a b = .plain x ∧ ∀ n, n < 32 → x.getLsbD n = !pre[i].getLsbD n) ∧
    (∃ x, laneResult .addWrap pre i a b = .plain x ∧ x.toNat = (pre[i].toNat + a.toNat) % 2 ^ 32) ∧
    (∃ x, laneResult .min pre i a b = .plain x ∧ x.toNat = min pre[i].toNat a.toNat) ∧
    (∃ x, laneResult .max pre i a b = .plain x ∧ x.toNat = max pre[i].toNat a.toNat) ∧
    ∀ j : LaneId, a.toNat = j.val → laneResult .copyLane pre i a b = .plain pre[j]) ∧
  ∀ (rg : Region) (e : Entry) (arm : ArmChoice) (i : LaneId), WorkEntry.redirects e = false →
    rg.advancedLane ≠ some i → ((armWritten rg e arm).getLsbD i.val = true ↔ armOp e arm i ≠ .keep)

/-- R47 and R48: ADD_SAT and SUB_FLOOR in every case, and when they set CEILING and FLOOR. -/
def Obligations.SaturatingOperations : Prop :=
  ∀ (pre : Record) (i : LaneId) (a b : Lane),
    let old := pre[i].toNat
    let up := laneResult .addSat pre i a b
    let down := laneResult .subFloor pre i a b
    (old + a.toNat ≤ b.toNat → up.value.toNat = old + a.toNat) ∧
    (b.toNat < old + a.toNat → old ≤ b.toNat → up.value = b) ∧
    (b.toNat < old + a.toNat → b.toNat < old → up.value = pre[i]) ∧
    (up.ceiling = true ↔ up.value.toNat ≠ old + a.toNat) ∧ up.floor = false ∧
    (b.toNat + a.toNat ≤ old → down.value.toNat = old - a.toNat) ∧
    (old < b.toNat + a.toNat → b.toNat ≤ old → down.value = b) ∧
    (old < b.toNat + a.toNat → old < b.toNat → down.value = pre[i]) ∧
    (down.floor = true ↔ (down.value.toNat : Int) ≠ (old : Int) - (a.toNat : Int)) ∧ down.ceiling = false

/-- The image that an arm writes, and its written-lane set: every lane outside the set keeps its pre-image value, and
the version lane of an auto-version region advances by 1 (R14, R44, R51, R52, R53). -/
def Obligations.ArmWritesItsLanes : Prop :=
  ∀ (rg : Region) (e : Entry) (arm : ArmChoice) (pre : Record) (i : LaneId),
    (rg.autoVersion = true → rg.versionLane = some i → (armImage rg e arm pre)[i] = pre[i] + 1) ∧
    ((rg.autoVersion = false ∨ rg.versionLane ≠ some i) →
      (armImage rg e arm pre)[i] =
        (laneResult (armOp e arm i) pre i (WorkEntry.operandA e i) (WorkEntry.operandB e i)).value) ∧
    (WorkEntry.redirects e = true → (armWritten rg e arm).getLsbD i.val = true) ∧
    (WorkEntry.redirects e = false →
      ((armWritten rg e arm).getLsbD i.val = true ↔
        armOp e arm i ≠ .keep ∨ (rg.autoVersion = true ∧ rg.versionLane = some i)) ∧
      ((armWritten rg e arm).getLsbD i.val = false → (armImage rg e arm pre)[i] = pre[i]))

/-- The validation of an entry, in the order of R29, on the bytes of the entry (R20, R29, R188, R189). -/
def Obligations.EntryChecksInOrder : Prop :=
  ∀ (regions : Vector Region 16) (e : Entry),
    let op := entryField e 0x00 1
    let rg := regions[WorkEntry.region e]
    let reads := fun arm : ArmChoice => arm = .pass ∨ WorkEntry.elseArm e = true
    let inactive := rg.phase ≠ .active
    let outOfRange := rg.count ≤ entryField e 0x08 4 ∨
      (op = 1 ∧ WorkEntry.redirect e = true ∧ rg.count ≤ entryField e 0x0C 4)
    let badFunction := ((op = 1 ∨ op = 2) ∧ 3 < entryField e 0x05 1) ∨ (op = 1 ∧ 7 < entryField e 0x06 1)
    let badLaneOp := ∃ arm i, reads arm ∧ 13 < armCode e arm i
    let badCopy := ∃ arm i, reads arm ∧ armCode e arm i = 13 ∧ 7 < entryField e (0x38 + 4 * i.val) 4
    let versionWritten := ∃ arm i, reads arm ∧ rg.autoVersion = true ∧ rg.versionLane = some i ∧ armCode e arm i ≠ 0
    (op = 0 ∨ 5 < op → checkEntry regions e = some (.malformed .badOpcode)) ∧
    (op = 4 ∨ op = 5 → checkEntry regions e = none) ∧
    (op = 1 ∨ op = 2 ∨ op = 3 →
      (inactive → checkEntry regions e = some .regionInactive) ∧
      (¬inactive → outOfRange → checkEntry regions e = some .outOfRange) ∧
      (¬inactive → ¬outOfRange → badFunction → checkEntry regions e = some (.malformed .badFunction)) ∧
      (¬inactive → ¬outOfRange → ¬badFunction → op ≠ 1 → checkEntry regions e = none) ∧
      (¬inactive → ¬outOfRange → ¬badFunction → op = 1 →
        (badLaneOp → checkEntry regions e = some (.malformed .badLaneOp)) ∧
        (¬badLaneOp → badCopy → checkEntry regions e = some (.malformed .copyLaneOperand)) ∧
        (¬badLaneOp → ¬badCopy → versionWritten → checkEntry regions e = some (.malformed .versionLaneWritten)) ∧
        (¬badLaneOp → ¬badCopy → ¬versionWritten → checkEntry regions e = none)))

/-- The judgement of a bundle: too long, over the limit, a failing member, a conflict, or accepted; the condition on a
bundle's members; the judgement of a single entry: refused with the status of the condition it fails, handed to a
context, or, for a FENCE or a NOP, answered SUCCESS; and the fault that a failing entry raises (R28 to R30, R32 to
R36). Model's choice: the record that a rejected entry's fault names, and the order of the faults of one bundle
(notes/assumptions/21.md and 38.md). -/
def Obligations.BundleJudgedInOrder : Prop :=
  (∀ (r : RingId) (regions : Vector Region 16) (limit : Nat) (first second : Placed) (rest : List Placed),
    let ps := first :: second :: rest
    let members := ps.map fun p => memberOf regions p.slot p.entry
    let tooLong := ps.length = 4 ∧ ∃ q, ps.getLast? = some q ∧ WorkEntry.bundleNext q.entry = true
    let failing := fun p : Placed => ∃ x, checkMember regions p.entry = some x
    let shared := fun n : Nat => ∃ i j : Nat, i < j ∧ ∃ a b, members[i]? = some a ∧ members[j]? = some b ∧
      n ∈ a.records ∧ n ∈ b.records
    (tooLong → judge r regions limit ps =
      .answered (ps.map (answer .malformed)) [unitFault r first .bundleTooLong none none]) ∧
    (¬tooLong → limit < ps.length → judge r regions limit ps =
      .answered (ps.map (answer .malformed)) [unitFault r first .bundleOverLimit none none]) ∧
    (¬tooLong → ps.length ≤ limit → (∃ p ∈ ps, failing p) → ∃ posts faults,
      judge r regions limit ps = .answered posts faults ∧
      posts = ps.map (fun p => answer ((checkMember regions p.entry).elim .bundleAbandoned Rejection.status) p) ∧
      faults = ps.filterMap (fun p => (checkMember regions p.entry).map (rejectionFault r regions p))) ∧
    (¬tooLong → ps.length ≤ limit → (∀ p ∈ ps, ¬failing p) → (∃ n, shared n) → ∃ n,
      shared n ∧ (∀ m, shared m → n ≤ m) ∧ judge r regions limit ps =
        .answered (ps.map (answer .bundleConflict))
          [unitFault r first .bundleConflict (some (WorkEntry.region first.entry)) (some n)]) ∧
    (¬tooLong → ps.length ≤ limit → (∀ p ∈ ps, ¬failing p) → (∀ n, ¬shared n) →
      judge r regions limit ps = .accepted members)) ∧
  (∀ (regions : Vector Region 16) (e : Entry), checkMember regions e =
    match checkEntry regions e with
    | some x => some x
    | none =>
      if entryField e 0x00 1 = 1 ∧ (entryField e 0x01 1).testBit 2 = false then none
      else some (.malformed .bundleMember)) ∧
  (∀ (r : RingId) (regions : Vector Region 16) (p : Placed) (x : Rejection),
    let rg := regions[WorkEntry.region p.entry]
    let index := entryField p.entry 0x08 4
    let op := entryField p.entry 0x00 1
    rejectionFault r regions p x =
      { cls := match x with
          | .malformed _ => .entryMalformed
          | .regionInactive => .regionInactive
          | .outOfRange => .indexRange
        source := .workRing r
        slotIndex := some p.slot
        tag := some (BitVec.ofNat 16 (entryField p.entry 0x02 2))
        region := if 1 ≤ op ∧ op ≤ 3 then some (WorkEntry.region p.entry) else none
        record := if 1 ≤ op ∧ op ≤ 3 ∧ rg.phase = .active ∧ index < rg.count then some (rg.base + index) else none
        image := some (imageHead p.entry)
        code := match x with
          | .malformed c => some c.code
          | _ => none }) ∧
  ∀ (r : RingId) (regions : Vector Region 16) (limit : Nat) (p : Placed),
    let op := entryField p.entry 0x00 1
    (∀ x, checkEntry regions p.entry = some x → ∃ st : Status,
      (st = match x with
        | .malformed _ => .malformed
        | .regionInactive => .regionInactive
        | .outOfRange => .outOfRange) ∧
      judge r regions limit [p] = .answered [answer st p] [rejectionFault r regions p x]) ∧
    (checkEntry regions p.entry = none → op = 1 ∨ op = 2 ∨ op = 3 →
      judge r regions limit [p] = .accepted [memberOf regions p.slot p.entry]) ∧
    (op = 4 ∨ op = 5 → judge r regions limit [p] = .answered [answer .success p] [])

/-- A ring's next unit is complete in its prefetch buffer: one to four entries of which each but the last has
BUNDLE_NEXT set, and the last has it clear unless it is the fourth. A ring is eligible while it takes units, its unit is
complete, its result ring has the credit, and the unit, as its validation will find it, has its room: for a valid unit
in the outstanding set and in a FREE context, for a FENCE an empty outstanding set. The take arbiter's choice is
eligible and has arbiter credit, and no ring before it in the order from the last-served ring has both; the credits are
reloaded only where no eligible ring has credit (R31, R126, R127, R138). -/
def Obligations.ArbiterChoosesInOrder : Prop :=
  (∀ (w : WorkRing) (ps : List Placed), w.take < w.size → (w.unit = some ps ↔ 1 ≤ ps.length ∧ ps.length ≤ 4 ∧
    ∀ (i : Nat) (p : Placed), ps[i]? = some p →
      p.slot = (w.take + i) % w.size ∧ w.prefetch[i]? = some p.entry ∧
      (i + 1 < ps.length → WorkEntry.bundleNext p.entry = true) ∧
      (i + 1 = ps.length → ps.length = 4 ∨ WorkEntry.bundleNext p.entry = false))) ∧
  (∀ (s : State) (r : RingId), eligible s r = true ↔
    s.faults.failed = false ∧ s.resetPhase = .operating ∧ ∃ w q ps,
      s.rings.work[r] = some w ∧ (w.phase = .active ∨ w.phase = .deleting .drain) ∧ w.unit = some ps ∧
      s.rings.results[w.boundTo] = some q ∧
      ps.length ≤ q.size - 1 - ringGap q.size q.release q.produce - q.reserved ∧
      match judge r s.regions w.inFlightLimit ps with
      | .accepted _ => w.outstanding.length + ps.length ≤ w.inFlightLimit ∧ ∃ c : CtxId, s.contexts[c] = none
      | .answered _ _ => (∃ p, ps = [p] ∧ entryField p.entry 0x00 1 = 4) → w.outstanding = []) ∧
  ∀ s : State,
    (∀ r s1, arbitrate s = some (r, s1) →
      eligible s r = true ∧ hasArbiterCredit s1 r = true ∧
      (∃ i : Fin 15, r = s.rings.lastServed + 1 + i ∧
        ∀ j : Fin 15, j < i → ¬(eligible s1 (s.rings.lastServed + 1 + j) = true ∧
          hasArbiterCredit s1 (s.rings.lastServed + 1 + j) = true)) ∧
      (s1 = s ∨ (s1 = reloadCredits s ∧ ∀ n, eligible s n = true → hasArbiterCredit s n = false))) ∧
    (arbitrate s = none → ∀ r, eligible s r = true → hasArbiterCredit (reloadCredits s) r = false)

/-! ## The operations that the events share -/

/-- A posting event: the results leave in member order, one after the other, each taking a reserved entry, and the
produce index, the reserved count, the serial and the unsignalled count move with them; the retire index passes every
finished slot up to the take index or the first outstanding slot, and a moved one goes to the status block after the
result entries, or waits behind the write in flight; last, by count or by a coalescing time of 0, a message is caused
and the batch is cleared; nothing else changes (R129, R130, R138, R139, R144, R145). Model's choice: one posting event
for each hand-over of results (notes/assumptions/13.md). -/
def Obligations.PostingEvent : Prop :=
  ∀ (s : State) (r : RingId) (posts : List Posting) (w : WorkRing) (q : ResultRing),
    s.rings.work[r] = some w → s.rings.results[w.boundTo] = some q →
    let t := postUnit r posts s
    let n := posts.length
    let entry := statusEntryOf r
    t.rings.work[r] = some (w.finished (posts.map Posting.ringSlot)) ∧
    t.rings.results[w.boundTo] = some (q.postedMany s.now posts.length).signalled ∧
    (∀ n : RingId, n ≠ r → t.rings.work[n] = s.rings.work[n]) ∧
    (∀ n : RingId, n ≠ w.boundTo → t.rings.results[n] = s.rings.results[n]) ∧
    t.rings.lastServed = s.rings.lastServed ∧ t.regs = s.regs ∧ t.resetPhase = s.resetPhase ∧
    t.regions = s.regions ∧ t.contexts = s.contexts ∧ t.cache = s.cache ∧ t.store = s.store ∧ t.admin = s.admin ∧
    t.probes = s.probes ∧ t.faults = s.faults ∧
    (∀ (i : Nat) (p : Posting), posts[i]? = some p → ∃ x ∈ t.link.transfers, ∃ q', q' = q.postedMany s.now i ∧
      x.kind = .result w.boundTo q'.produce q'.serial ∧ x.addr = itemAddr q.base 16 q'.produce ∧
      x.body = resultEntryBytes p.tag r p.ringSlot p.outcome (i + 1) posts.length q'.serial) ∧
    (w.retire < w.size → w.take < w.size → q.produce < q.size →
      ∃ (w' : WorkRing) (q' : ResultRing) (d : Nat) (due : Bool) (status message : List Transfer),
        t.rings.work[r] = some w' ∧
        w' = { w with outstanding := w'.outstanding, retire := (w.retire + d) % w.size } ∧
        (∀ i, i ∈ w'.outstanding ↔ i ∈ w.outstanding ∧ ∀ p ∈ posts, p.ringSlot ≠ i) ∧
        d ≤ ringGap w.size w.retire w.take ∧ (∀ i, i < d → (w.retire + i) % w.size ∉ w'.outstanding) ∧
        (d < ringGap w.size w.retire w.take → (w.retire + d) % w.size ∈ w'.outstanding) ∧
        t.rings.results[w.boundTo] = some q' ∧
        (due = true ↔ q.coalesceCount ≤ q.unsignalled + n ∨ (q.coalesceTime = 0 ∧ 0 < q.unsignalled + n)) ∧
        q' = { q with
          produce := (q.produce + n) % q.size
          reserved := q.reserved - n
          serial := q.serial + BitVec.ofNat 24 n
          unsignalled := if due then 0 else q.unsignalled + n
          firstUnsignalled := if due then none else if q.unsignalled = 0 ∧ 0 < n then some s.now else q.firstUnsignalled } ∧
        t.link.transfers = s.link.transfers ++
          (posts.zipIdx.map fun x =>
            { xfer := s.link.next + x.2
              kind := .result w.boundTo ((q.produce + x.2) % q.size) (q.serial + BitVec.ofNat 24 x.2)
              addr := itemAddr q.base 16 ((q.produce + x.2) % q.size)
              length := 16
              body := resultEntryBytes x.1.tag r x.1.ringSlot x.1.outcome (x.2 + 1) n (q.serial + BitVec.ofNat 24 x.2)
              issued := s.now
              heeded := true }) ++ status ++ message ∧
        (d = 0 → status = [] ∧ t.rings.status = s.rings.status) ∧
        (0 < d → s.rings.status[entry] = .idle → t.rings.status = s.rings.status.set entry (.inFlight none) ∧
          status = [{
            xfer := s.link.next + n, kind := .status entry w'.retire
            addr := itemAddr (statusBase s) 8 (ringNumber r), length := 8, body := statusEntryBytes w'.retire
            issued := s.now, heeded := true }]) ∧
        (0 < d → ∀ p, s.rings.status[entry] = .inFlight p → status = [] ∧
          t.rings.status = s.rings.status.set entry (.inFlight (some w'.retire))) ∧
        (due = true → q.msgEnabled = true → message = [{
          xfer := s.link.next + n + status.length, kind := .message (some w.boundTo), addr := q.msgAddr, length := 4
          body := leBytes 4 q.msgData.toNat, issued := s.now, heeded := true }]) ∧
        (due = false ∨ q.msgEnabled = false → message = []))

/-- The end of a running admin command: its result entry is written, the consumer index passes it and goes to the
status block, and the next read is considered (R153, R154, R158, R192). Model's choice: the grants that follow inside
one completion (notes/assumptions/10.md). -/
def Obligations.CommandCompletes : Prop :=
  ∀ (s : State) (a : AdminRings) (e : Entry) (p : Progress) (st : AdminStatus) (value : BitVec 32),
    s.admin.rings = some a → a.command = .running e p →
    let consumer := (a.consumer + 1) % a.workSize
    let a' := { a with
      produce := (a.produce + 1) % a.resultSize, serial := a.serial + 1, reserved := 0, consumer := consumer,
      command := .none }
    let posted := issueWrite (.adminResult a.produce a.serial) (itemAddr a.resultBase 16 a.produce)
      (leBytes 2 (AdminEntry.tag e).toNat ++ [BitVec.ofNat 8 a.consumer, BitVec.ofNat 8 (AdminEntry.opcode e),
        BitVec.ofNat 8 st.code, 0, 0, 0] ++ leBytes 4 value.toNat ++ [0] ++ leBytes 3 a.serial.toNat) s
    completeCommand st value s = considerAdminRead (writeStatus 0 consumer (posted.setAdminRings (some a')))

/-- The handling of a raised fault: the seen-class set, the capture with its FAULT_CAPTURED notice, and the severity. A
RING_FATAL fault halts the work ring that is its source, or every work ring bound to the result ring that is its source
in ascending ring number, and acts as ADVISORY with any other source; a halt makes an ACTIVE or PAUSED ring HALTED and
turns a drain into a discard, with a RING_HALTED notice, and does nothing to another ring; a DEVICE_FATAL fault is the
entry into FAILED (R132, R134, R172, R174, R175, R177). Model's choice: that a DELETE_WORK_RING which a halt lets end
completes at that halt, before the next ring is halted (notes/assumptions/40.md). -/
def Obligations.FaultHandled : Prop :=
  ∀ (s : State) (f : RaisedFault),
    let t := raiseFault f s
    let halted := fun (v : State) (r : RingId) =>
      match v.rings.work[r] with
      | none => v
      | some w =>
        match w.phase with
        | .active | .paused => raiseNotice (.ringHalted r) (v.setWork r (some { w with phase := .halted }))
        | .deleting .drain => deleteCheck r (raiseNotice (.ringHalted r)
            (v.setWork r (some { w with phase := .deleting .discard, prefetch := [] })))
        | .halted | .deleting .discard => v
    let haltedRing := fun r : RingId => ∀ w, s.rings.work[r] = some w →
      ((w.phase = .active ∨ w.phase = .paused) → t.rings.work[r] = some { w with phase := .halted }) ∧
      (w.phase = .deleting .drain →
        (w.outstanding = [] → w.fetchRead = none → s.rings.status[statusEntryOf r] = .idle → t.rings.work[r] = none) ∧
        (w.outstanding ≠ [] ∨ w.fetchRead ≠ none ∨ s.rings.status[statusEntryOf r] ≠ .idle →
          t.rings.work[r] = some { w with phase := .deleting .discard, prefetch := [] })) ∧
      ((w.phase = .halted ∨ w.phase = .deleting .discard) → t.rings.work[r] = some w)
    (s.faults.failed = true → t = s.setFaults (s.faults.see f.cls)) ∧
    t.faults.seen.getLsbD f.cls.index.val = true ∧
    (∀ i, i ≠ f.cls.index.val → s.faults.seen.getLsbD i = true → t.faults.seen.getLsbD i = true) ∧
    (s.faults.failed = false →
      ((s.faults.policy f.cls).masked = true → t.faults.capture = s.faults.capture) ∧
      ((s.faults.policy f.cls).masked = false → s.faults.capture = none → t.faults.capture = some f) ∧
      ((s.faults.policy f.cls).masked = false → ∀ g, s.faults.capture = some g →
        t.faults.capture = some g ∧ t.faults.later = true) ∧
      (s.faults.severity f.cls = .deviceFatal → t.faults.failed = true) ∧
      (s.faults.severity f.cls ≠ .deviceFatal → t.faults.failed = false) ∧
      (s.faults.severity f.cls = .advisory → t.rings.work = s.rings.work) ∧
      (s.faults.severity f.cls = .ringFatal → ∀ r w, f.source = .workRing r → s.rings.work[r] = some w →
        (w.phase = .active ∨ w.phase = .paused) → t.rings.work[r] = some { w with phase := .halted }) ∧
      ∃ u : State,
        ((s.faults.policy f.cls).masked = true → u = s.setFaults (s.faults.see f.cls)) ∧
        ((s.faults.policy f.cls).masked = false → s.faults.capture = none →
          u = raiseNotice .faultCaptured (s.setFaults { s.faults.see f.cls with capture := some f })) ∧
        ((s.faults.policy f.cls).masked = false → s.faults.capture ≠ none →
          u = s.setFaults { s.faults.see f.cls with later := true }) ∧
        (s.faults.severity f.cls = .advisory → t = u) ∧
        (s.faults.severity f.cls = .deviceFatal → t = enterFailed u) ∧
        (s.faults.severity f.cls = .ringFatal →
          (∀ r, f.source = .workRing r → t = halted u r ∧ haltedRing r ∧
            ∀ n : RingId, n ≠ r → t.rings.work[n] = s.rings.work[n]) ∧
          (∀ rr, f.source = .resultRing rr →
            t = ((List.finRange 15).filter fun r => boundTo s rr r).foldl halted u ∧
            (∀ (r : RingId) (w : WorkRing), s.rings.work[r] = some w → w.boundTo = rr → haltedRing r) ∧
            ∀ (r : RingId) (w : WorkRing), s.rings.work[r] = some w → w.boundTo ≠ rr →
              t.rings.work[r] = some w) ∧
          (f.source = .adminRing ∨ f.source = .store ∨ f.source = .none → t = u)))

/-- The entry into FAILED: every context is abandoned, no DELETING ring is left, no stall is timed, and a slot that was
RESIDENT or FILLING is unclaimed (R78, R80, R135, R146, R176). -/
def Obligations.FailedEntry : Prop :=
  ∀ s : State,
    let t := enterFailed s
    t.faults.failed = true ∧ (∀ c : CtxId, t.contexts[c] = none) ∧ t.cache.requests = [] ∧
    (∀ r : RingId, notDeleting t.rings.work[r] = true) ∧ (∀ r : RingId, notTiming t.rings.results[r] = true) ∧
    (∀ (r : RingId) (w : WorkRing), s.rings.work[r] = some w → (∀ m, w.phase ≠ .deleting m) →
      t.rings.work[r] = some w) ∧
    (∀ (k : SlotId) (y : Slot), t.cache.slots[k] = some y → y.claims = [] ∧ y.phase ≠ .awaitingStore) ∧
    t.store.dram = s.store.dram ∧ t.store.poison = s.store.poison ∧ t.probes = s.probes ∧
    t.faults.policies = s.faults.policies ∧ t.faults.capture = s.faults.capture

/-- A notice is posted at once where the list is empty and there is room, and joins the pending list otherwise, its
count stopping at 255 (R160). -/
def Obligations.NoticeRaised : Prop :=
  ∀ (s : State) (n : Notice),
    let t := raiseNotice n s
    (∀ a, s.admin.rings = some a → 1 ≤ a.credit → s.admin.notices = [] → t.admin.notices = [] ∧
      (∃ x ∈ t.link.transfers, x.kind = .adminResult a.produce a.serial ∧
        x.addr = itemAddr a.resultBase 16 a.produce ∧
        x.body = adminEntryBytes (noticeBody n 1) n.kind a.serial) ∧
      t.admin.rings = some { a with produce := (a.produce + 1) % a.resultSize, serial := a.serial + 1 }) ∧
    ((∀ a, s.admin.rings = some a → a.credit = 0) ∨ s.admin.notices ≠ [] →
      (∀ p ∈ s.admin.notices, p.notice = n → { p with repeats := min (p.repeats + 1) 255 } ∈ t.admin.notices) ∧
      (∀ p ∈ s.admin.notices, p.notice ≠ n → p ∈ t.admin.notices) ∧
      ((∀ p ∈ s.admin.notices, p.notice ≠ n) →
        t.admin.notices = s.admin.notices ++ [{ notice := n, repeats := 1 }]) ∧
      t = s.setNotices t.admin.notices)

/-- A write-back starts on a dirty slot whose image is sound with copies of image and dirty-lane set; an unsound image
raises INTERNAL_CHECK and frees the slot unwritten (R86, R93). Model's choice: which mismatch is reported first
(notes/assumptions/16.md). -/
def Obligations.WriteBackStarts : Prop :=
  ∀ (s : State) (k : SlotId) (y : Slot) (c : Resident), s.cache.slots[k] = some y → y.phase = .resident c →
    c.dirty ≠ 0 → c.writeBack = false →
    (c.image.parity = recordParity c.image.lanes → startWriteBack k s =
      (s.setSlot k (some { y with
        phase := .resident { c with dirty := 0, dirtySince := none, writeBack := true } })).setStore
        { s.store with jobs := s.store.jobs ++ [.writeBack k y.record c.image.lanes c.dirty] }) ∧
    (c.image.parity ≠ recordParity c.image.lanes → ∃ f : RaisedFault, f.cls = .internalCheck ∧ f.source = .none ∧
      f.record = some y.record ∧ startWriteBack k s = dropUnsound k y.record (raiseFault f s) ∧
      (startWriteBack k s).cache.slots[k] = none ∧
      ∀ n lanes set, Job.writeBack k n lanes set ∈ (startWriteBack k s).store.jobs →
        Job.writeBack k n lanes set ∈ s.store.jobs)

/-! ## Resets and the register window -/

/-- POWER_ON_RESET puts every block into its power-on state with S from the strap, and POWER_ON_READY ends it with
every register at its reset value (R16, R117, R118, R186). Model's choice: the strap operand
(notes/assumptions/19.md). -/
def Obligations.PowerOnResetsEveryBlock : Prop :=
  (∀ (sz1 sz0 : Bool) (s : State), ∃ t, exec (.powerOnReset sz1 sz0) s = .next t ∧
    t = { State.reset with
      link := t.link, resetPhase := .powerOn, now := s.now, pending := s.pending
      store := { State.reset.store with size := t.store.size, powerOns := s.store.powerOns + 1 } } ∧
    t.store.size =
      (if sz1 = true ∧ sz0 = false then 134217728 else if sz1 = false ∧ sz0 = true then 67108864 else 33554432) ∧
    t.link.next = s.link.next ∧ (∀ x ∈ t.link.transfers, x.heeded = false) ∧ devStatusValue t = 2) ∧
  ∀ s : State, s.resetPhase = .powerOn →
    exec .powerOnReady s = .next { s with regs := Registers.reset, resetPhase := .operating }

/-- RESET and LINK_RESET begin a function reset: every block drops its state at once; every slot is released, a dirty
one by a write-back whose job is issued, so that what was committed reaches DRAM; the jobs at the request run on. A
DRAINING region becomes UNDEFINED at the event at which no slot holds a record of it any more, a FILLING one at the
report that its fill has stopped, and an ACTIVE one stays as it is. RESET_END ends the reset once every slot is FREE
and no job is in flight (R16 to R18, R79, R102, R103, R118, R149, R164, R171, R181, R185). Model's choice: the order in
which bits of one write act, the error masks of a fill, the record that a stopped region fill had in progress, and the
joining of a request (notes/assumptions/7.md, 8.md, 17.md and 19.md). -/
def Obligations.FunctionResetRuns : Prop :=
  (∀ (en m : Bool) (s : State), s.resetPhase = .operating → ∃ t, exec (.reset en m) s = .next t ∧
    BlocksDropped t ∧ StoreAndPoliciesKept s t ∧ CacheReleased s t ∧ t.regs = { s.regs with adminMsgEn := m }) ∧
  (∀ s : State, s.resetPhase = .operating → ∃ t, exec .linkReset s = .next t ∧
    BlocksDropped t ∧ StoreAndPoliciesKept s t ∧ CacheReleased s t ∧ t.regs = s.regs) ∧
  (∀ (s : State) (k : SlotId) (y : Slot) (n : Nat), s.resetPhase = .functionReset → s.admin.rings = none →
    s.cache.slots[k] = some y → n < s.store.size →
    (∀ errors, s.store.fillJob k = some n → fillBad s.store n errors = 0 → ∃ t,
      exec (.fillComplete k errors) s = .next t ∧ RegionsAtReset s t) ∧
    (∀ lanes set content, s.store.writeBackJob k = some (n, lanes, set) → y.phase = .resident content → ∃ t,
      exec (.writeBackComplete k) s = .next t ∧ RegionsAtReset s t)) ∧
  (∀ (s : State) (first last next current : Nat) (pattern : Record), s.resetPhase = .functionReset →
    s.store.regionFillJob = some (first, last, pattern, next) → next ≤ current → current ≤ last →
    current < s.store.size → ∃ t, exec (.regionFillStopped current) s = .next t ∧ ∀ n : RegionId,
      (s.regions[n].phase = .filling → t.regions[n] = Region.cleared) ∧
      (s.regions[n].phase ≠ .filling → t.regions[n] = s.regions[n])) ∧
  ∀ s : State, s.resetPhase = .functionReset → (∀ k : SlotId, s.cache.slots[k] = none) → s.store.jobs = [] →
    exec .resetEnd s = .next { s with
      regs := Registers.reset, resetPhase := .operating, faults := { s.faults with failed := false } }

/-- ENABLE opens the admin rings with a valid configuration and posts the pending notices, halts the admin controller
with an invalid one, and while ENABLE is set changes ADMIN_MSG_EN alone (R151, R160, R184). Model's choice: the order
in which bits of one write act (notes/assumptions/17.md). -/
def Obligations.EnableOpensAdminRings : Prop :=
  ∀ (m : Bool) (s : State), s.resetPhase = .operating → LinkOrdered s →
    let r := s.regs
    let sizes := [16, 32, 64, 128, 256]
    let nw := r.adminSizes.toNat % 65536
    let nr := r.adminSizes.toNat / 65536
    let valid := nw ∈ sizes ∧ nr ∈ sizes ∧ r.adminWorkBase.toNat % 128 = 0 ∧ r.adminResultBase.toNat % 16 = 0 ∧
      r.statusBlockBase.toNat % 8 = 0
    (r.enable = false → valid → ∃ t a, exec (.enable m) s = .next t ∧
      t.regs = { r with enable := true, adminMsgEn := m } ∧ t.admin.phase = .opened ∧ t.admin.rings = some a ∧
      a.workBase = r.adminWorkBase ∧ a.workSize = nw ∧ a.resultBase = r.adminResultBase ∧ a.resultSize = nr ∧
      a.statusBase = r.statusBlockBase ∧ a.post = 0 ∧ a.consumer = 0 ∧ a.release = 0 ∧ a.reserved = 0 ∧
      a.command = .none ∧
      (∃ posted, s.admin.notices = posted ++ t.admin.notices ∧ a.produce = posted.length ∧
        a.serial = BitVec.ofNat 24 posted.length) ∧
      (t.admin.notices = [] ∨ a.credit = 0) ∧
      t = { s with regs := t.regs, admin := t.admin, link := t.link, rings := { s.rings with status := t.rings.status } }) ∧
    (r.enable = false → ¬valid → exec (.enable m) s = .next { s with
      regs := { r with enable := true, adminMsgEn := m, adminHalted := true }
      admin := { s.admin with phase := .halted, rings := none } }) ∧
    (r.enable = true → exec (.enable m) s = .next { s with regs := { r with adminMsgEn := m } })

/-- What REGISTER_WRITE stores is what reads return, 32 bits at a time or a 64-bit register as a whole, its low half at
the lower offset; an offset that is no register or read-only changes nothing, an admin configuration register is closed
while ENABLE is set, and ADMIN_MSG_EN stores its bit (R183, R184). Model's choice: that an ill-formed or 64-bit write of
a 32-bit register is ignored, and that a 64-bit read of another offset answers 0 (notes/assumptions/18.md). -/
def Obligations.RegisterWritesReadBack : Prop :=
  (∀ (s : State) (o : Nat), readRegister64 s o =
    if o ∈ wideOffsets then readRegister s (o + 4) ++ readRegister s o else 0) ∧
  (∀ (offset : Nat) (width : AccessWidth) (v : BitVec 64) (s : State), s.resetPhase = .operating → LinkOrdered s →
    (s.regs.enable = true → exec (.registerWrite offset width v) s = .next s) ∧
    (s.regs.enable = false → ∃ t, exec (.registerWrite offset width v) s = .next t ∧ t = { s with regs := t.regs } ∧
      (width = .word32 → ∀ o, readRegister t o =
        if o = offset ∧ o ∈ configOffsets then v.extractLsb' 0 32 else readRegister s o) ∧
      (width = .word64 → ∀ o, readRegister t o =
        if offset ∈ wideOffsets ∧ o = offset then v.extractLsb' 0 32
        else if offset ∈ wideOffsets ∧ o = offset + 4 then v.extractLsb' 32 32
        else readRegister s o) ∧
      (width = .word64 → ∀ o, readRegister64 t o =
        if offset ∈ wideOffsets ∧ o = offset then v else readRegister64 s o))) ∧
  ∀ (m : Bool) (s : State), s.resetPhase = .operating → LinkOrdered s →
    ∃ t, exec (.adminMsgEn m) s = .next t ∧ t = { s with regs := { s.regs with adminMsgEn := m } } ∧
      (readRegister t 0x004).getLsbD 2 = m ∧ (readRegister t 0x004).getLsbD 1 = false ∧
      (readRegister t 0x004).getLsbD 0 = s.regs.enable

/-- POST and RELEASE: a valid post moves the post index and withdraws what lies behind it, a valid release moves the
release index and ends a stall episode, an invalid value raises HOST_PROTOCOL and changes nothing else, and a write to
an ABSENT or a DELETING ring is ignored (R122, R123, R125, R143, R146). Model's choice: that a POST of the current post
index, which is valid, clears fetch held (notes/assumptions/33.md). -/
def Obligations.PostAndReleaseWrites : Prop :=
  (∀ (r : RingId) (v : BitVec 32) (s : State), s.resetPhase = .operating → LinkOrdered s →
    (s.rings.work[r] = none → exec (.post r v) s = .next s) ∧
    ∀ w : WorkRing, s.rings.work[r] = some w →
      let p := v.toNat
      let gap := fun i => ringGap w.size w.retire i
      ((∃ m, w.phase = .deleting m) → exec (.post r v) s = .next s) ∧
      ((∀ m, w.phase ≠ .deleting m) → (w.size ≤ p ∨ gap p < gap w.take) → exec (.post r v) s =
        .next (afterEvent s s [{ cls := .hostProtocol, source := .workRing r, value := some v }])) ∧
      ((∀ m, w.phase ≠ .deleting m) → p < w.size → gap w.take ≤ gap p → ∃ t w', exec (.post r v) s = .next t ∧
        t.rings.work[r] = some w' ∧
        w' = { w with
          post := p, fetchHeld := false, prefetch := w'.prefetch, fetch := w'.fetch, fetchStale := w'.fetchStale } ∧
        (if gap p < gap w.post then
          w'.prefetch = w.prefetch.take (ringGap w.size w.take p) ∧
            w'.fetch = (if gap p < gap w.fetch then p else w.fetch) ∧
            w'.fetchStale = (w.fetchStale || w.fetchRead.isSome)
        else w'.prefetch = w.prefetch ∧ w'.fetch = w.fetch ∧ w'.fetchStale = w.fetchStale) ∧
        (∀ n : RingId, n ≠ r → t.rings.work[n] = s.rings.work[n]) ∧
        (∀ n : RingId, (t.rings.results[n]).map (fun q => { q with stall := .idle }) =
          (s.rings.results[n]).map fun q => { q with stall := .idle }) ∧
        t = { s with rings := { s.rings with work := t.rings.work, results := t.rings.results } })) ∧
  ∀ (rr : RingId) (v : BitVec 32) (s : State), s.resetPhase = .operating → LinkOrdered s →
    (s.rings.results[rr] = none → exec (.release rr v) s = .next s) ∧
    ∀ q : ResultRing, s.rings.results[rr] = some q →
      let gap := fun i => ringGap q.size q.release i
      ((q.size ≤ v.toNat ∨ gap q.produce < gap v.toNat) → exec (.release rr v) s =
        .next (afterEvent s s [{ cls := .hostProtocol, source := .resultRing rr, value := some v }])) ∧
      (v.toNat < q.size → gap v.toNat ≤ gap q.produce → ∃ t q', exec (.release rr v) s = .next t ∧
        t.rings.results[rr] = some q' ∧ q' = { q with release := v.toNat, stall := q'.stall } ∧
        (0 < gap v.toNat → q'.stall ≠ .expired) ∧
        (∀ n : RingId, n ≠ rr → (t.rings.results[n]).map (fun q => { q with stall := .idle }) =
          (s.rings.results[n]).map fun q => { q with stall := .idle }) ∧
        t = { s with rings := { s.rings with results := t.rings.results } })

/-! ## The admin rings -/

/-- ADMIN_POST and ADMIN_RELEASE: a valid value moves the index, after which pending notices are posted and a command
read is considered; an invalid one raises HOST_PROTOCOL; while no rings are configured the write is ignored (R152,
R159, R160). Model's choice: that reads and notices follow inside the write (notes/assumptions/10.md). -/
def Obligations.AdminPostAndRelease : Prop :=
  ∀ (v : BitVec 32) (s : State), s.resetPhase = .operating → LinkOrdered s →
    (s.admin.rings = none → exec (.adminPost v) s = .next s ∧ exec (.adminRelease v) s = .next s) ∧
    ∀ a : AdminRings, s.admin.rings = some a →
      let p := v.toNat
      let gap := fun i => ringGap a.resultSize a.release i
      let fault : RaisedFault := { cls := .hostProtocol, source := .adminRing, value := some v }
      ((a.workSize ≤ p ∨ (a.command ≠ .none ∧ p = a.consumer)) →
        exec (.adminPost v) s = .next (afterEvent s s [fault])) ∧
      (p < a.workSize → (a.command = .none ∨ p ≠ a.consumer) → exec (.adminPost v) s =
        .next (considerAdminRead (s.setAdminRings (some { a with post := p })))) ∧
      ((a.resultSize ≤ p ∨ gap a.produce < gap p) → exec (.adminRelease v) s = .next (afterEvent s s [fault])) ∧
      (p < a.resultSize → gap p ≤ gap a.produce → ∃ t a', exec (.adminRelease v) s = .next t ∧
        t.admin.rings = some a' ∧ a'.release = p ∧ a'.consumer = a.consumer ∧ a'.post = a.post ∧
        (∃ posted, s.admin.notices = posted ++ t.admin.notices ∧
          a'.serial = a.serial + BitVec.ofNat 24 posted.length) ∧
        (t.admin.notices = [] ∨ a'.credit = 0) ∧
        t = { s with admin := { s.admin with rings := t.admin.rings, notices := t.admin.notices }, link := t.link })

/-- ADMIN_READ_ISSUE reads the next admin entry and reserves its result; PENDING_NOTICE_POST posts pending notices,
oldest first, while there is credit (R153, R160). Model's choice: that reads and notices also happen inside the event
that allows them (notes/assumptions/10.md). -/
def Obligations.AdminReadAndPendingNotices : Prop :=
  ∀ (s : State) (a : AdminRings), LinkOrdered s → s.admin.rings = some a →
    (s.admin.phase = .opened → s.resetPhase = .operating → a.command = .none → a.post ≠ a.consumer → 1 ≤ a.credit →
      exec .adminReadIssue s = .next { s with
        link :=
          { transfers := s.link.transfers ++ [{
              xfer := s.link.next, kind := .adminRead, addr := itemAddr a.workBase 128 a.consumer, length := 128,
              body := [], issued := s.now, heeded := true }]
            next := s.link.next + 1 }
        admin := { s.admin with rings := some { a with command := .reading, reserved := 1 } } }) ∧
    ∀ p rest, s.admin.notices = p :: rest → 1 ≤ a.credit → ∃ t a', exec .pendingNoticePost s = .next t ∧
      t.admin.rings = some a' ∧
      (∃ posted, s.admin.notices = p :: posted ++ t.admin.notices ∧
        a'.serial = a.serial + BitVec.ofNat 24 (posted.length + 1)) ∧
      (t.admin.notices = [] ∨ a'.credit = 0) ∧
      (∃ x ∈ t.link.transfers, x.kind = .adminResult a.produce a.serial ∧
        x.addr = itemAddr a.resultBase 16 a.produce ∧
        x.body = adminEntryBytes (noticeBody p.notice p.repeats) p.notice.kind a.serial) ∧
      (s.regs.adminMsgEn = true → ∃ x ∈ t.link.transfers, x.kind = .message none ∧ x.addr = s.regs.adminMsgAddr ∧
        x.body = leBytes 4 s.regs.adminMsgData.toNat) ∧
      t = { s with admin := { s.admin with rings := t.admin.rings, notices := t.admin.notices }, link := t.link }

/-- ADMIN_READ_FAILURE halts the admin controller, which keeps its consumer index; INVALID_COMMAND completes with its
status (R154, R160, R162). Model's choice: that an admin row is the completion of a read that holds its opcode, and
that the pending notices are posted before the fault of the failed read is raised (notes/assumptions/12.md and 43.md).
-/
def Obligations.AdminReadFailsOrIsInvalid : Prop :=
  (∀ (s : State) (xfer : Nat) (a : AdminRings), awaits s xfer .adminRead = true → s.admin.rings = some a →
    ∃ u, exec (.adminReadFailure xfer) s = .next (afterEvent s (postPending u)
        [{ cls := .hostRead, source := .adminRing, slotIndex := some a.consumer }]) ∧
      u = { s with
        link := (dropTransfer xfer s).link
        admin := { s.admin with phase := .halted, rings := some { a with command := .none, reserved := 0 } }
        regs := { s.regs with adminHalted := true } }) ∧
  ∀ (s : State) (xfer : Nat) (e : Entry), commandArrives s xfer = true →
    (entryField e 0x00 1 = 0 ∨ 17 < entryField e 0x00 1) →
    exec (.invalidCommand xfer e) s =
      .next (afterEvent s (completeCommand .invalidCommand 0 (commandTaken xfer e s)) [])

/-- IDENTIFY, READ_FAULT_LOG and LIST_POISON write their copies to the host buffer, byte for byte as R193 lays them out,
and run until it ends, in FAILED too; the end completes them DONE, or HOST_FAULT with a HOST_BUFFER_WRITE fault (R116,
R154, R157, R179, R193). Model's choice: the row as the completion of its admin read, the fields of a result that is not
DONE, the order of a failure's result and fault, and the bytes of what the fault log does not have
(notes/assumptions/12.md, 22.md, 34.md and 35.md). -/
def Obligations.BufferCommandsRun : Prop :=
  (∀ (s : State) (xfer : Nat) (e : Entry), commandArrives s xfer = true →
    let t := commandTaken xfer e s
    let written := fun (body : List Byte) (value : BitVec 32) =>
      setProgress (.hostBuffer value) (issueWrite .adminBuffer (entryAddr e 0x08) body t)
    let bit := fun (b : Bool) (i : Nat) => if b then 2 ^ i else 0
    let logged := fun f : RaisedFault =>
      [BitVec.ofNat 8 f.cls.index.val,
        match f.source with
        | .none => 0
        | .workRing _ => 1
        | .resultRing _ => 2
        | .adminRing => 3
        | .store => 4,
        match f.source with
        | .workRing r | .resultRing r => BitVec.ofNat 8 (r.val + 1)
        | _ => 0,
        BitVec.ofNat 8 (bit f.slotIndex.isSome 0 + bit f.tag.isSome 1 + bit f.region.isSome 2 + bit f.record.isSome 3 +
          bit f.image.isSome 4 + bit f.code.isSome 5 + bit f.value.isSome 6)] ++
      leBytes 2 (f.slotIndex.getD 0) ++ leBytes 2 ((f.tag.getD 0).toNat) ++
      [BitVec.ofNat 8 (f.region.elim 0 Fin.val), f.code.getD 0, 0, 0] ++ leBytes 4 (f.record.getD 0) ++
      leBytes 4 ((f.value.getD 0).toNat) ++ f.image.elim (List.replicate 32 0) Vector.toList
    let log := [BitVec.ofNat 8 (bit s.faults.capture.isSome 0 + bit s.faults.later 1), 0] ++
      leBytes 2 s.faults.seen.toNat ++ s.faults.capture.elim (List.replicate 52 0) logged ++
      s.faults.policies.toList.map fun p => BitVec.ofNat 8 (bit p.masked 0 + 2 * p.severity.code)
    (entryField e 0x00 1 = 0x01 → exec (.identify xfer e) s = .next (afterEvent s
      (written ([0x5C, 0x01, 0x6C, 0x12] ++ leBytes 4 s.store.size ++
        [64, 0, 16, 15, 15, 4, 64, 0, 0x00, 0x10, 0, 0, 0, 0, 0, 0]) 0) [])) ∧
    (entryField e 0x00 1 = 0x0D → log.length = 69 ∧ exec (.readFaultLog xfer e) s =
      .next (afterEvent s (written log (if s.faults.capture = none then 0 else 1)) [])) ∧
    (entryField e 0x00 1 = 0x10 → exec (.listPoison xfer e) s =
      .next (afterEvent s (written (leBytes 4 s.store.poison.length ++ s.store.poison.flatMap (leBytes 4))
        (BitVec.ofNat 32 s.store.poison.length)) []))) ∧
  ∀ (s : State) (xfer : Nat) (a : AdminRings) (e : Entry) (value : BitVec 32),
    awaits s xfer .adminBuffer = true → s.admin.rings = some a → a.command = .running e (.hostBuffer value) →
    exec (.adminBufferWriteComplete xfer) s =
      .next (afterEvent s (completeCommand .done value (dropTransfer xfer s)) []) ∧
    exec (.adminBufferWriteFailure xfer) s =
      .next (afterEvent s (completeCommand .hostFault value (dropTransfer xfer s))
        [{ cls := .hostBufferWrite, source := .adminRing, tag := some (AdminEntry.tag e),
           code := some (BitVec.ofNat 8 (entryField e 0x00 1)) }])

/-! ## Ring commands -/

/-- CREATE_RESULT_RING and CREATE_WORK_RING: their checks in order, and the ring that they create (R121, R137, R154,
R155). Model's choice: the row as the completion of its admin read, the fields of a result that is not DONE, and the
state of the status writes at CREATE_WORK_RING (notes/assumptions/12.md, 22.md and 25.md). -/
def Obligations.RingsCreated : Prop :=
  ∀ (s : State) (xfer : Nat) (e : Entry), commandArrives s xfer = true →
    let t := commandTaken xfer e s
    let ends := fun st u => commandEnds s u st 0
    let sizes := [16, 32, 64, 128, 256, 512, 1024, 2048, 4096]
    let w0 := entryField e 0x04 4
    let w1 := entryField e 0x10 4
    let w2 := entryField e 0x14 4
    let w3 := entryField e 0x18 4
    let w4 := entryField e 0x1C 4
    let w5 := entryField e 0x20 4
    let addrA := (entryAddr e 0x08).toNat
    let validResult := 1 ≤ w0 ∧ w0 ≤ 15 ∧ addrA % 16 = 0 ∧ w1 ∈ sizes ∧ 1 ≤ w2 ∧ w2 ≤ 255 ∧ w3 ≤ 1000 ∧ w4 ≤ 1000 ∧
      w5 ≤ 1
    let validWork := 1 ≤ w0 ∧ w0 ≤ 15 ∧ 1 ≤ w2 ∧ w2 ≤ 15 ∧ addrA % 128 = 0 ∧ w1 ∈ sizes ∧ 1 ≤ w3 ∧ w3 ≤ 8 ∧
      1 ≤ w4 ∧ w4 ≤ 16
    (entryField e 0x00 1 = 0x02 →
      (s.faults.failed = true → exec (.createResultRing xfer e) s = ends .deviceFailed t) ∧
      (s.faults.failed = false →
        (¬validResult → exec (.createResultRing xfer e) s = ends .invalidParameter t) ∧
        (validResult → ∀ rr : RingId, ringNumber rr = w0 →
          (s.rings.results[rr] ≠ none → exec (.createResultRing xfer e) s = ends .ringBusy t) ∧
          (s.rings.results[rr] = none → exec (.createResultRing xfer e) s = ends .done (t.setResult rr (some
            { base := entryAddr e 0x08, size := w1, produce := 0, release := 0, reserved := 0, serial := 0,
              msgAddr := entryAddr e 0x28, msgData := entryWord e 0x30, msgEnabled := w5 == 1, coalesceCount := w2,
              coalesceTime := w3, stallLimit := if w4 = 0 then 50 else w4, unsignalled := 0,
              firstUnsignalled := none, stall := .idle })))))) ∧
    (entryField e 0x00 1 = 0x03 →
      (s.faults.failed = true → exec (.createWorkRing xfer e) s = ends .deviceFailed t) ∧
      (s.faults.failed = false →
        (¬validWork → exec (.createWorkRing xfer e) s = ends .invalidParameter t) ∧
        (validWork → ∀ r rr : RingId, ringNumber r = w0 → ringNumber rr = w2 →
          (s.rings.work[r] ≠ none → exec (.createWorkRing xfer e) s = ends .ringBusy t) ∧
          (s.rings.work[r] = none → s.rings.results[rr] = none →
            exec (.createWorkRing xfer e) s = ends .ringAbsent t) ∧
          (s.rings.work[r] = none → s.rings.results[rr] ≠ none → exec (.createWorkRing xfer e) s = ends .done
            ((t.setWork r (some
              { phase := .active, base := entryAddr e 0x08, size := w1, boundTo := rr, weight := w3,
                inFlightLimit := w4, post := 0, fetch := 0, take := 0, retire := 0, prefetch := [],
                fetchRead := none, fetchStale := false, fetchHeld := false, outstanding := [],
                credit := w3 })).setStatus (statusEntryOf r) .idle)))))

/-- DELETE_WORK_RING begins a drain or a discard and runs until its ring is ABSENT: a drain drops an incomplete last
unit, and the deletion is over, and the command DONE, when no entry is outstanding and no fetch read and no status write
is in flight, in DRAIN mode with every posted entry taken or dropped; DELETE_RESULT_RING deletes a ring to which no work
ring is bound; PAUSE_RING and RESUME_RING move a ring between its states (R124, R131, R133, R134, R147, R154, R155).
Model's choice: the row as the completion of its admin read, the fields of a result that is not DONE, and fetch held at
a RESUME_RING on an ACTIVE ring (notes/assumptions/12.md, 22.md and 33.md). -/
def Obligations.RingsDeletedPausedResumed : Prop :=
  (∀ (u : State) (r : RingId) (w : WorkRing), u.rings.work[r] = some w →
    let incomplete := w.phase = .deleting .drain ∧ w.fetch = w.post ∧ nextUnit w.prefetch = none
    ∃ w' : WorkRing, (incomplete → w' = { w with prefetch := [] }) ∧ (¬incomplete → w' = w) ∧
      let ended := w.outstanding = [] ∧ w.fetchRead = none ∧ u.rings.status[statusEntryOf r] = .idle ∧
        (w.phase = .deleting .discard ∨ (w.phase = .deleting .drain ∧ w.fetch = w.post ∧ w'.prefetch = []))
      (¬ended → deleteCheck r u = u.setWork r (some w')) ∧
      (ended → runningProgress u = some (.deleteRing r) →
        deleteCheck r u = completeCommand .done 0 (u.setWork r none)) ∧
      (ended → runningProgress u ≠ some (.deleteRing r) → deleteCheck r u = u.setWork r none)) ∧
  ∀ (s : State) (xfer : Nat) (e : Entry), commandArrives s xfer = true →
    let t := commandTaken xfer e s
    let ends := fun st u => commandEnds s u st 0
    let op := entryField e 0x00 1
    let w0 := entryField e 0x04 4
    let w1 := entryField e 0x10 4
    let named := 1 ≤ w0 ∧ w0 ≤ 15
    (s.faults.failed = true →
      (op = 0x04 → exec (.deleteWorkRing xfer e) s = ends .deviceFailed t) ∧
      (op = 0x05 → exec (.deleteResultRing xfer e) s = ends .deviceFailed t) ∧
      (op = 0x06 → exec (.pauseRing xfer e) s = ends .deviceFailed t) ∧
      (op = 0x07 → exec (.resumeRing xfer e) s = ends .deviceFailed t)) ∧
    (s.faults.failed = false → op = 0x04 → (¬(named ∧ w1 ≤ 1) → exec (.deleteWorkRing xfer e) s = ends .invalidParameter t) ∧
      (w1 ≤ 1 → ∀ r : RingId, ringNumber r = w0 →
        (s.rings.work[r] = none → exec (.deleteWorkRing xfer e) s = ends .ringAbsent t) ∧
        ∀ w, s.rings.work[r] = some w → exec (.deleteWorkRing xfer e) s = .next (afterEvent s
          (deleteCheck r (setProgress (.deleteRing r) (t.setWork r (some (if w1 = 0
            then { w with phase := .deleting .drain, fetchHeld := false }
            else { w with phase := .deleting .discard, prefetch := [] }))))) []))) ∧
    (s.faults.failed = false → op = 0x05 → (¬named → exec (.deleteResultRing xfer e) s = ends .invalidParameter t) ∧
      ∀ rr : RingId, ringNumber rr = w0 →
        (s.rings.results[rr] = none → exec (.deleteResultRing xfer e) s = ends .ringAbsent t) ∧
        (s.rings.results[rr] ≠ none → (∃ r w, s.rings.work[(r : RingId)] = some w ∧ w.boundTo = rr) →
          exec (.deleteResultRing xfer e) s = ends .ringInUse t) ∧
        (s.rings.results[rr] ≠ none → (∀ r w, s.rings.work[(r : RingId)] = some w → w.boundTo ≠ rr) →
          exec (.deleteResultRing xfer e) s = ends .done (t.setResult rr none))) ∧
    (s.faults.failed = false → op = 0x06 → (¬named → exec (.pauseRing xfer e) s = ends .invalidParameter t) ∧
      ∀ r : RingId, ringNumber r = w0 →
        (s.rings.work[r] = none → exec (.pauseRing xfer e) s = ends .ringAbsent t) ∧
        ∀ w, s.rings.work[r] = some w →
          (w.phase = .halted → exec (.pauseRing xfer e) s = ends .ringBusy t) ∧
          (w.phase = .active → exec (.pauseRing xfer e) s =
            ends .done (t.setWork r (some { w with phase := .paused }))) ∧
          (w.phase = .paused ∨ (∃ m, w.phase = .deleting m) → exec (.pauseRing xfer e) s = ends .done t)) ∧
    (s.faults.failed = false → op = 0x07 → (¬named → exec (.resumeRing xfer e) s = ends .invalidParameter t) ∧
      ∀ r : RingId, ringNumber r = w0 →
        (s.rings.work[r] = none → exec (.resumeRing xfer e) s = ends .ringAbsent t) ∧
        ∀ w, s.rings.work[r] = some w →
          (w.phase = .paused ∨ w.phase = .halted → exec (.resumeRing xfer e) s =
            ends .done (t.setWork r (some { w with phase := .active, fetchHeld := false }))) ∧
          (w.phase = .active ∨ (∃ m, w.phase = .deleting m) → exec (.resumeRing xfer e) s = ends .done t))

/-! ## Region, cache, probe and fault commands -/

/-- DEFINE_REGION: its checks in order, the region ACTIVE at once, or FILLING with the fill job issued; RETIRE_REGION
makes the region DRAINING and disarms its probes, waits while a context names the region, then has the region's slots
released, and completes, the region UNDEFINED, when no slot holds a record of it (R8 to R12, R101, R154, R171). Model's
choice: the row as the completion of its admin read, the ascending order in which slots are released, and the fields of
a result that is not DONE (notes/assumptions/12.md, 14.md and 22.md). -/
def Obligations.RegionsDefinedAndRetired : Prop :=
  (∀ (u : State) (n : RegionId) (probes : Nat),
    let named := ∃ (c : CtxId) (x : Context), u.contexts[c] = some x ∧ ∃ i ∈ x.records, i.region = n
    let held := ∃ (k : SlotId) (y : Slot), u.cache.slots[k] = some y ∧ y.region = n
    let release := fun v : State => releaseSlotsWith raiseFault (fun y => y.region == n) v
    (runningProgress u = some (.retireWait n probes) → (named → retireCheck u = u) ∧
      (¬named → retireCheck u = retireCheck (release (setProgress (.retireRelease n probes) u)))) ∧
    (runningProgress u = some (.retireRelease n probes) → (held → retireCheck u = u) ∧
      (¬held → retireCheck u =
        completeCommand .done (BitVec.ofNat 32 probes) (u.setRegion n Region.cleared))) ∧
    ((∀ k y c, u.cache.slots[(k : SlotId)] = some y → y.phase = .resident c →
        c.image.parity = recordParity c.image.lanes) → ∀ (k : SlotId) (y : Slot), u.cache.slots[k] = some y →
      (y.region = n → y.phase ≠ .awaitingStore → SlotReleased k y (release u)) ∧
      (y.region ≠ n → (release u).cache.slots[k] = some y))) ∧
  ∀ (s : State) (xfer : Nat) (e : Entry), commandArrives s xfer = true →
    let t := commandTaken xfer e s
    let ends := fun st u => commandEnds s u st 0
    let base := (entryAddr e 0x08).toNat
    let count := entryField e 0x10 4
    let lane := fun off => entryField e off 4
    let laneOk := fun off => lane off < 8 ∨ lane off = 0xFFFFFFFF
    let present := fun off => lane off < 8
    let options := entryField e 0x20 4
    let valid := entryField e 0x04 4 < 16 ∧ laneOk 0x14 ∧ laneOk 0x18 ∧ laneOk 0x1C ∧ 1 ≤ count ∧
      base + count ≤ s.store.size ∧ (present 0x18 → present 0x14 ∧ lane 0x18 ≠ lane 0x14) ∧
      (present 0x1C → lane 0x1C ≠ lane 0x14 ∧ lane 0x1C ≠ lane 0x18) ∧ (options.testBit 0 = true → present 0x1C)
    (s.faults.failed = true →
      (entryField e 0x00 1 = 0x08 → exec (.defineRegion xfer e) s = ends .deviceFailed t) ∧
      (entryField e 0x00 1 = 0x09 → exec (.retireRegion xfer e) s = ends .deviceFailed t)) ∧
    (s.faults.failed = false → entryField e 0x00 1 = 0x08 →
      (¬valid → exec (.defineRegion xfer e) s = ends .invalidParameter t) ∧
      (valid → ∀ n : RegionId, n.val = entryField e 0x04 4 →
        let overlap := ∃ m : RegionId, s.regions[m].phase ≠ .undefined ∧
          base < s.regions[m].base + s.regions[m].count ∧ s.regions[m].base < base + count
        (s.regions[n].phase ≠ .undefined → exec (.defineRegion xfer e) s = ends .regionBusy t) ∧
        (s.regions[n].phase = .undefined → overlap → exec (.defineRegion xfer e) s = ends .regionOverlap t) ∧
        (s.regions[n].phase = .undefined → ¬overlap → ∃ rg : Region, rg.phase = .active ∧ rg.base = base ∧
          rg.count = count ∧ (rg.keyA.elim 0xFFFFFFFF Fin.val = lane 0x14) ∧
          (rg.keyB.elim 0xFFFFFFFF Fin.val = lane 0x18) ∧ (rg.versionLane.elim 0xFFFFFFFF Fin.val = lane 0x1C) ∧
          rg.autoVersion = options.testBit 0 ∧
          (options.testBit 1 = false → exec (.defineRegion xfer e) s = ends .done (t.setRegion n rg)) ∧
          (options.testBit 1 = true → exec (.defineRegion xfer e) s = .next (afterEvent s
            (setProgress (.regionFill n) ((t.setRegion n { rg with phase := .filling }).setStore
              { s.store with jobs := s.store.jobs ++
                [.regionFill base (base + count - 1) (recordAt e.toList 0x40) base] })) []))))) ∧
    (s.faults.failed = false → entryField e 0x00 1 = 0x09 →
      (16 ≤ entryField e 0x04 4 → exec (.retireRegion xfer e) s = ends .invalidParameter t) ∧
      ∀ n : RegionId, n.val = entryField e 0x04 4 →
        (s.regions[n].phase = .undefined → exec (.retireRegion xfer e) s = ends .regionUndefined t) ∧
        (s.regions[n].phase ≠ .undefined → ∃ u, exec (.retireRegion xfer e) s = .next (afterEvent s (retireCheck u) []) ∧
          u.regions[n] = { s.regions[n] with phase := .draining } ∧
          (∀ m : RegionId, m ≠ n → u.regions[m] = s.regions[m]) ∧
          (∀ p : ProbeId, u.probes[p] = if probeIn n s.probes[p] then .disarmed else s.probes[p]) ∧
          runningProgress u = some (.retireWait n (s.probes.toList.countP (probeIn n))) ∧
          u.store = s.store ∧ u.cache = s.cache ∧ u.contexts = s.contexts ∧ u.rings = s.rings ∧
          u.faults = s.faults ∧ u.regs = s.regs))

/-- FLUSH_REGION forms its awaited set, marks those slots whose running write-back a further one is to follow, starts
write-backs on the set and completes DONE when it is empty; SET_CLEANER returns the age limit in force and starts a
write-back on every slot whose age has reached the new one (R99, R100, R154, R156). Model's choice: the row as the
completion of its admin read, the ascending order of slots, the age limit in force as the result value of a SET_CLEANER
that completes DEVICE_FAILED, and that a fault found at its take is handled before its result is posted
(notes/assumptions/12.md, 14.md, 22.md and 39.md). -/
def Obligations.FlushAndCleanerCommands : Prop :=
  (∀ (u : State) (awaited : List Awaited), runningProgress u = some (.flush awaited) →
    (awaited = [] → flushCheck u = completeCommand .done 0 u) ∧ (awaited ≠ [] → flushCheck u = u)) ∧
  ∀ (s : State) (xfer : Nat) (e : Entry), commandArrives s xfer = true →
    let t := commandTaken xfer e s
    let ends := fun st value u => commandEnds s u st value
    let w0 := entryField e 0x04 4
    let prior := BitVec.ofNat 32 s.cache.ageLimit
    (entryField e 0x00 1 = 0x0A →
      (s.faults.failed = true → exec (.flushRegion xfer e) s = ends .deviceFailed 0 t) ∧
      (s.faults.failed = false → 16 ≤ w0 → w0 ≠ 0xFFFFFFFF →
        exec (.flushRegion xfer e) s = ends .invalidParameter 0 t) ∧
      (s.faults.failed = false → ∀ n : RegionId, n.val = w0 → s.regions[n].phase = .undefined →
        exec (.flushRegion xfer e) s = ends .regionUndefined 0 t) ∧
      (s.faults.failed = false → ∀ scope : Option RegionId,
        (scope = none ∧ w0 = 0xFFFFFFFF ∨ ∃ n, scope = some n ∧ n.val = w0 ∧ s.regions[n].phase ≠ .undefined) →
        exec (.flushRegion xfer e) s = .next (afterEvent s (flushCheck ((awaitedSet s scope).foldl
          (fun acc a => startWriteBack a.slot acc) (setProgress (.flush (awaitedSet s scope)) t))) []) ∧
        ∀ (k : SlotId), (∃ a ∈ awaitedSet s scope, a.slot = k) ↔ ∃ y c, s.cache.slots[k] = some y ∧
          y.phase = .resident c ∧ (∀ n, scope = some n → y.region = n) ∧ (c.dirty ≠ 0 ∨ c.writeBack = true)) ∧
      ∀ scope, ∀ a ∈ awaitedSet s scope, ∀ y c, s.cache.slots[a.slot] = some y → y.phase = .resident c →
        (a.again = true ↔ c.writeBack = true ∧ c.dirty ≠ 0)) ∧
    (entryField e 0x00 1 = 0x11 →
      (s.faults.failed = true → exec (.setCleaner xfer e) s = ends .deviceFailed prior t) ∧
      (s.faults.failed = false → 1000 < w0 → exec (.setCleaner xfer e) s = ends .invalidParameter prior t) ∧
      (s.faults.failed = false → w0 ≤ 1000 → exec (.setCleaner xfer e) s = ends .done prior
        ((List.finRange 64).foldl (fun acc k => if cleanerDue acc k then startWriteBack k acc else acc)
          (t.setAgeLimit w0))))

/-- ARM_PROBE arms a DISARMED probe on records of an ACTIVE region; DISARM_PROBE returns a HIT probe's capture as an
entry of kind COMMAND with capture (R154, R166, R170, R192). Model's choice: the row as the completion of its admin
read, and the fields of a result that is not DONE (notes/assumptions/12.md and notes/assumptions/22.md). -/
def Obligations.ProbeCommands : Prop :=
  ∀ (s : State) (xfer : Nat) (e : Entry), commandArrives s xfer = true →
    let t := commandTaken xfer e s
    let ends := fun st u => commandEnds s u st 0
    let w0 := entryField e 0x04 4
    let w1 := entryField e 0x10 4
    let first := entryField e 0x14 4
    let last := entryField e 0x18 4
    let valid := w0 < 4 ∧ w1 < 16 ∧ first ≤ last ∧
      ∃ n : RegionId, n.val = w1 ∧ s.regions[n].phase = .active ∧ last < s.regions[n].count
    (entryField e 0x00 1 = 0x0B →
      (s.faults.failed = true → exec (.armProbe xfer e) s = ends .deviceFailed t) ∧
      (s.faults.failed = false →
        (¬valid → exec (.armProbe xfer e) s = ends .invalidParameter t) ∧
        (valid → ∀ (p : ProbeId) (n : RegionId), p.val = w0 → n.val = w1 →
          (s.probes[p] ≠ .disarmed → exec (.armProbe xfer e) s = ends .probeBusy t) ∧
          (s.probes[p] = .disarmed →
            exec (.armProbe xfer e) s = ends .done (t.setProbe p (.armed n first last)))))) ∧
    (entryField e 0x00 1 = 0x0C →
      (s.faults.failed = true → exec (.disarmProbe xfer e) s = ends .deviceFailed t) ∧
      (s.faults.failed = false → 4 ≤ w0 → exec (.disarmProbe xfer e) s = ends .invalidParameter t) ∧
      (s.faults.failed = false → ∀ p : ProbeId, p.val = w0 →
        ((∀ rg a b c, s.probes[p] ≠ .hit rg a b c) →
          exec (.disarmProbe xfer e) s = ends .done (t.setProbe p .disarmed)) ∧
        ∀ rg a b c, s.probes[p] = .hit rg a b c → exec (.disarmProbe xfer e) s = .next (afterEvent s
          (finishCommand (leBytes 2 (c.ringSlot % 4096 + 4096 * ringNumber c.ring) ++ leBytes 2 c.tag.toNat ++
            leBytes 4 c.recordIndex ++ leBytes 4 c.versionWord.toNat) 5 (t.setProbe p .disarmed)) [])))

/-- RELEASE_FAULT_LOG empties the fault log, and the seen-class set where it is asked to; SET_FAULT_POLICY sets the
policy of a class and returns the one before it, a fixed severity staying DEVICE_FATAL (R154, R172, R178, R180, R191).
Model's choice: the row as the completion of its admin read, and the fields of a result that is not DONE
(notes/assumptions/12.md and notes/assumptions/22.md). -/
def Obligations.FaultCommands : Prop :=
  ∀ (s : State) (xfer : Nat) (e : Entry), commandArrives s xfer = true →
    let t := commandTaken xfer e s
    let ends := fun st value u => commandEnds s u st value
    let w0 := entryField e 0x04 4
    let w1 := entryField e 0x10 4
    let w2 := entryField e 0x14 4
    (entryField e 0x00 1 = 0x0E →
      (s.faults.failed = true → exec (.releaseFaultLog xfer e) s = ends .deviceFailed 0 t) ∧
      (s.faults.failed = false → 1 < w0 → exec (.releaseFaultLog xfer e) s = ends .invalidParameter 0 t) ∧
      (s.faults.failed = false → w0 ≤ 1 → exec (.releaseFaultLog xfer e) s =
        ends .done (if s.faults.capture = none then 0 else 1) (t.setFaults { s.faults with
          capture := none, later := false, seen := if w0 = 1 then 0 else s.faults.seen }))) ∧
    (entryField e 0x00 1 = 0x0F →
      (13 ≤ w0 → exec (.setFaultPolicy xfer e) s =
        ends (if s.faults.failed then .deviceFailed else .invalidParameter) 0 t) ∧
      ∀ c : FaultClass, c.index.val = w0 →
        let prior := s.faults.policy c
        let value := BitVec.ofNat 32 (prior.masked.toNat + 256 * prior.severity.code)
        let valid := w1 ≤ 1 ∧ w2 ≤ 2 ∧ ((c = .hostRingWrite ∨ c = .internalCheck) → w2 = 2)
        (s.faults.failed = true → exec (.setFaultPolicy xfer e) s = ends .deviceFailed value t) ∧
        (s.faults.failed = false → ¬valid → exec (.setFaultPolicy xfer e) s = ends .invalidParameter value t) ∧
        (s.faults.failed = false → valid → ∃ p : Policy, p.masked.toNat = w1 ∧ p.severity.code = w2 ∧
          exec (.setFaultPolicy xfer e) s = ends .done value
            (t.setFaults { s.faults with policies := s.faults.policies.set c.index p })))

/-! ## Fetches and takes -/

/-- FETCH_READ_ISSUE asks for the posted entries that fit; FETCH_READ_COMPLETE appends what arrives, unless the read is
stale or the ring is discarding; FETCH_READ_FAILURE raises HOST_READ and holds the ring's fetching (R120, R123, R124,
R125, R134). Model's choice: that FETCH_READ_ISSUE changes nothing where its conditions do not hold, the numbers of
transfers, and fetch held at a failure in DISCARD mode (notes/assumptions/1.md, 4.md and 33.md). -/
def Obligations.FetchReads : Prop :=
  (∀ (s : State) (r : RingId) (w : WorkRing), s.rings.work[r] = some w →
    let n := min (ringGap w.size w.fetch w.post) (min (8 - w.prefetch.length) (w.size - w.fetch))
    let may := (w.phase = .active ∨ w.phase = .deleting .drain) ∧ s.faults.failed = false ∧ w.fetchRead = none ∧
      w.fetchHeld = false ∧ w.fetch ≠ w.post
    let read : Transfer :=
      { xfer := s.link.next, kind := .fetchRead r, addr := itemAddr w.base 128 w.fetch, length := 128 * n, body := [],
        issued := s.now, heeded := true }
    let u : State := { s with link := { transfers := s.link.transfers ++ [read], next := s.link.next + 1 } }
    (may → 0 < n → exec (.fetchReadIssue r) s =
      .next (u.setWork r (some { w with fetchRead := some { first := w.fetch, count := n } }))) ∧
    (¬may ∨ n = 0 → exec (.fetchReadIssue r) s = .next s)) ∧
  (∀ (s : State) (r : RingId) (w : WorkRing) (f : FetchRead) (xfer : Nat) (entries : List Entry),
    readAwaits s xfer (.fetchRead r) = true → s.rings.work[r] = some w → w.fetchRead = some f →
    f.count = entries.length →
    let ended := { w with fetchRead := none, fetchStale := false }
    let kept := { ended with prefetch := w.prefetch ++ entries, fetch := (w.fetch + entries.length) % w.size }
    exec (.fetchReadComplete xfer entries) s = .next (afterEvent s (issueFetch r ((dropTransfer xfer s).setWork r
      (some (if w.fetchStale = true ∨ w.phase = .deleting .discard then ended else kept)))) [])) ∧
  ∀ (s : State) (r : RingId) (w : WorkRing) (f : FetchRead) (xfer : Nat), awaits s xfer (.fetchRead r) = true →
    s.rings.work[r] = some w → w.fetchRead = some f →
    let ended := { w with fetchRead := none, fetchStale := false }
    let t := dropTransfer xfer s
    (w.fetchStale = true → exec (.fetchReadFailure xfer) s =
      .next (afterEvent s (issueFetch r (t.setWork r (some ended))) [])) ∧
    (w.fetchStale = false → w.phase = .deleting .discard → exec (.fetchReadFailure xfer) s =
      .next (afterEvent s (t.setWork r (some ended)) [])) ∧
    (w.fetchStale = false → w.phase ≠ .deleting .discard → exec (.fetchReadFailure xfer) s =
      .next (adminMessage s.link.next (settle (drainToDiscard r
        (raiseFault { cls := .hostRead, source := .workRing r, slotIndex := some f.first }
          (t.setWork r (some { ended with fetchHeld := true })))))))

/-- A unit that its take answers: the results are posted and the faults raised. FENCE and NOP answer SUCCESS without a
fault, an unknown opcode MALFORMED (R24, R25, R28 to R30, R126, R127, R128, R139). Model's choice: a take row names no
unit: it is the arbiter's choice (notes/assumptions/11.md). -/
def Obligations.TakesAnswered : Prop :=
  ∀ (s s1 : State) (r : RingId) (w : WorkRing) (ps : List Placed), arbitrate s = some (r, s1) →
    s1.rings.work[r] = some w → w.unit = some ps →
    (∀ posts faults, judge r s.regions w.inFlightLimit ps = .answered posts faults →
      exec (takeRow (unitKind ps)) s = .next (afterEvent s (postUnit r posts (unitTaken r w ps.length s1)) faults)) ∧
    ∀ p, ps = [p] →
      let taken := fun st => postUnit r [answer st p] (unitTaken r w 1 s1)
      (entryField p.entry 0x00 1 = 4 → exec .fence s = .next (afterEvent s (taken .success) [])) ∧
      (entryField p.entry 0x00 1 = 5 → exec .nop s = .next (afterEvent s (taken .success) [])) ∧
      (entryField p.entry 0x00 1 = 0 ∨ 5 < entryField p.entry 0x00 1 → exec .unknownOpcode s =
        .next (afterEvent s (taken .malformed)
          [{ cls := .entryMalformed, source := .workRing r, slotIndex := some p.slot,
             tag := some (WorkEntry.tag p.entry), image := some (imageHead p.entry), code := some 1 }]))

/-- A unit that its take accepts goes to the lowest-numbered FREE context, which holds a member for each entry, with
its global record numbers as the region's base and the indexes give them, and a record list of what the members name,
ascending, each record once: UPDATE, FETCH, STORE and BUNDLE (R5, R21 to R23, R26, R31, R58, R60, R61, R126, R127,
R128). Model's choice: that the new slot request is first evaluated at the end of the event, and that a take row names
no unit: it is the arbiter's choice (notes/assumptions/10.md and 11.md). -/
def Obligations.TakesHandedToContext : Prop :=
  ∀ (s s1 : State) (r : RingId) (w : WorkRing) (ps : List Placed) (ms : List Member), arbitrate s = some (r, s1) →
    s1.rings.work[r] = some w → w.unit = some ps → judge r s.regions w.inFlightLimit ps = .accepted ms →
    (ms = ps.map fun p =>
      let base := s.regions[WorkEntry.region p.entry].base
      let source := entryField p.entry 0x08 4
      let dest := entryField p.entry 0x0C 4
      { ringSlot := p.slot
        entry := p.entry
        source := base + source
        destination := if entryField p.entry 0x00 1 = 1 ∧ (entryField p.entry 0x01 1).testBit 1 = true ∧ dest ≠ source
          then some (base + dest) else none
        outcome := none
        image := none }) ∧
    ∃ c u x, s.contexts[(c : CtxId)] = none ∧ (∀ d : CtxId, d < c → s.contexts[d] ≠ none) ∧
      (∀ p, ps = [p] → entryField p.entry 0x00 1 = 1 → exec .update s = .next (afterEvent s u [])) ∧
      (∀ p, ps = [p] → entryField p.entry 0x00 1 = 2 → exec .fetch s = .next (afterEvent s u [])) ∧
      (∀ p, ps = [p] → entryField p.entry 0x00 1 = 3 → exec .store s = .next (afterEvent s u [])) ∧
      (2 ≤ ps.length → exec .bundle s = .next (afterEvent s u [])) ∧
      u.contexts[c] = some x ∧ x = newContext r ms ∧
      x = { phase := .allocating, ring := r, members := ms, records := x.records, storeData := none,
            storeRead := x.storeRead, hostWrites := 0 } ∧
      (x.storeRead = true ↔ ∃ p, ps = [p] ∧ entryField p.entry 0x00 1 = 3) ∧
      (x.records.map RecordItem.record).Pairwise (· < ·) ∧
      (∀ n, n ∈ x.records.map RecordItem.record ↔ ∃ m ∈ ms, m.source = n ∨ m.destination = some n) ∧
      (∀ i ∈ x.records, i.slot = none ∧ ∃ m ∈ ms, i.region = WorkEntry.region m.entry ∧
        (m.source = i.record ∨ m.destination = some i.record)) ∧
      (∀ d : CtxId, d ≠ c → u.contexts[d] = s.contexts[d]) ∧
      u.cache = { s.cache with requests := s.cache.requests ++ [c] } ∧
      u.rings.work[r] = some { w with
        take := (w.take + ps.length) % w.size, prefetch := w.prefetch.drop ps.length, credit := w.credit - 1,
        outstanding := w.outstanding ++ ms.map Member.ringSlot } ∧
      (∀ n : RingId, n ≠ r → u.rings.work[n] = s1.rings.work[n]) ∧ u.rings.lastServed = r ∧
      (∀ q, s.rings.results[w.boundTo] = some q →
        u.rings.results[w.boundTo] = some { q with reserved := q.reserved + ps.length }) ∧
      (∀ n : RingId, n ≠ w.boundTo → u.rings.results[n] = s.rings.results[n]) ∧
      (∀ p, ps = [p] → entryField p.entry 0x00 1 = 3 → u.link.transfers = s.link.transfers ++ [{
        xfer := s.link.next, kind := .storeRead c, addr := entryAddr p.entry 0x20, length := 32, body := [],
        issued := s.now, heeded := true }]) ∧
      ((∀ p, ps = [p] → entryField p.entry 0x00 1 ≠ 3) → u.link = s.link) ∧
      u.regs = s.regs ∧ u.regions = s.regions ∧ u.store = s.store ∧ u.admin = s.admin ∧ u.probes = s.probes ∧
      u.faults = s.faults

/-! ## Contexts and the cache -/

/-- The grant of the head request: every record of the context is held by a slot whose claim queue ends with it, a new
slot FILLING with its fill issued or AWAITING_STORE; a context that names an unheld poisoned record ends POISONED
instead; a request that cannot be granted waits, and write-backs are started on stale slots to cover the shortfall; a
context whose claims all head their queues enters READY (R62 to R64, R76, R89 to R92). Model's choice: that SLOT_GRANT
changes nothing where the head cannot be granted, that grants also happen inside the event that allows them, that
pressure starts no more write-backs once no request is left, the record that a poison-hit fault names, and the order of
a bundle's faults (notes/assumptions/1.md, 10.md, 16.md, 21.md and 38.md). -/
def Obligations.SlotGrantServesEveryRecord : Prop :=
  (∀ (x : Context) (y : Slot),
    let idle := y.claims = [] ∧ y.record ∉ x.records.map RecordItem.record
    (spareSlot x y = true ↔ idle ∧ ∃ c, y.phase = .resident c ∧ c.dirty = 0 ∧ c.writeBack = false) ∧
    (cleaningSlot x y = true ↔ idle ∧ ∃ c, y.phase = .resident c ∧ c.dirty = 0 ∧ c.writeBack = true) ∧
    (staleSlot x y = true ↔ idle ∧ ∃ c, y.phase = .resident c ∧ c.dirty ≠ 0 ∧ c.writeBack = false)) ∧
  (∀ (u : State) (c : CtxId) (rest : List CtxId) (x : Context), u.cache.requests = c :: rest →
    u.contexts[c] = some x → slotsAvailable u x < slotNeed u x →
    let stale := u.cache.recency.filter fun k => (u.cache.slots[k]).any (staleSlot x)
    let cleaning := (List.finRange 64).countP fun k : SlotId => (u.cache.slots[k]).any (cleaningSlot x)
    evaluate u = (stale.take (slotNeed u x - slotsAvailable u x - cleaning)).foldl
      (fun v k => if v.cache.requests = [] then v else startWriteBack k v) u) ∧
  (∀ u : State, readyCheck u = { u with contexts := (readyCheck u).contexts } ∧ ∀ (c : CtxId),
    (u.contexts[c] = none → (readyCheck u).contexts[c] = none) ∧
    ∀ x, u.contexts[c] = some x →
      let ready := x.phase = .claiming ∧
        (∀ i ∈ x.records, ∃ k y, i.slot = some k ∧ u.cache.slots[k] = some y ∧ y.claims.head? = some c ∧
          y.phase ≠ .filling) ∧
        ((∃ m, x.members = [m] ∧ entryField m.entry 0x00 1 = 3) → x.storeData ≠ none)
      (ready → (readyCheck u).contexts[c] = some { x with phase := .ready }) ∧
      (¬ready → (readyCheck u).contexts[c] = some x)) ∧
  ∀ (s : State) (c : CtxId) (rest : List CtxId) (x : Context), s.cache.requests = c :: rest →
    s.contexts[c] = some x →
    let poisoned := x.recordNumbers.filter fun n => unheld s n && s.store.poisoned n
    let g := grant c s
    (slotsAvailable s x < slotNeed s x → exec .slotGrant s = .next s) ∧
    (slotNeed s x ≤ slotsAvailable s x → exec .slotGrant s = .next (afterEvent s g []) ∧
      (x.isStore = true ∨ poisoned = [] → RecencyProper s → x.recordNumbers.Nodup →
        g.cache.requests = rest.filter (· != c) ∧
        ∃ x', g.contexts[c] = some x' ∧ x'.members = x.members ∧ x'.recordNumbers = x.recordNumbers ∧
          (x'.phase = .claiming ∨ x'.phase = .ready) ∧
          ∀ i ∈ x'.records, ∃ k y, i.slot = some k ∧ g.cache.slots[k] = some y ∧ y.record = i.record ∧
            y.claims.getLast? = some c ∧
            (unheld s i.record = true → y.claims = [c] ∧
              (s.store.poisoned i.record = true → y.phase = .awaitingStore) ∧
              (s.store.poisoned i.record = false → y.phase = .filling ∧ Job.fill k i.record ∈ g.store.jobs))) ∧
      (x.isStore = false → poisoned ≠ [] → g.contexts[c] = none ∧ g = readyCheck
        (raiseFaults (poisonFaults poisoned x) (failContext poisoned .poisoned c (withdrawRequest c s)))))

/-- STORE_READ_COMPLETE gives the STORE its data; STORE_READ_FAILURE ends it HOST_FAULT, and with it every context
behind it on an AWAITING_STORE slot, which is freed (R67, R68, R76, R187). Model's choice: that each context hands over
its results by itself, the faults' details, that only the failure of the record's own STORE ends the queue, the order
in which the contexts behind it end, and the order of the faults (notes/assumptions/13.md, 21.md, 27.md, 32.md and
38.md). -/
def Obligations.StoreReadEnds : Prop :=
  (∀ (s : State) (xfer : Nat) (data : Vector Byte 32) (c : CtxId) (x : Context),
    readAwaits s xfer (.storeRead c) = true → s.contexts[c] = some x → ∃ d : Record,
      (∀ i : LaneId, d[i].toNat = (data.toList.getD (4 * i.val) 0).toNat +
        256 * (data.toList.getD (4 * i.val + 1) 0).toNat + 65536 * (data.toList.getD (4 * i.val + 2) 0).toNat +
        16777216 * (data.toList.getD (4 * i.val + 3) 0).toNat) ∧
      exec (.storeReadComplete xfer data) s = .next (afterEvent s ((dropTransfer xfer s).setContext c
        (some { x with storeRead := false, storeData := some d })) [])) ∧
  ∀ (s : State) (xfer : Nat) (c : CtxId) (x : Context), awaits s xfer (.storeRead c) = true →
    s.contexts[c] = some x →
    let faulted := { x with
      storeRead := false
      members := x.members.map fun m => { m with outcome := some (MemberOutcome.untested .hostFault) } }
    let ended := endContext c ((dropTransfer xfer s).setContext c (some faulted))
    let own := x.members.map fun m => memberFault .hostRead x.ring m m.source
    (awaitingHeaded s c x = none ↔ ∀ i ∈ x.records, ∀ k y, i.slot = some k → s.cache.slots[k] = some y →
      ¬(y.phase = .awaitingStore ∧ y.claims.head? = some c)) ∧
    (awaitingHeaded s c x = none → exec (.storeReadFailure xfer) s = .next (afterEvent s ended own)) ∧
    ∀ k record others, awaitingHeaded s c x = some (k, record, others) →
      (∃ y, s.cache.slots[k] = some y ∧ y.phase = .awaitingStore ∧ y.record = record ∧ y.claims = c :: others) ∧
      exec (.storeReadFailure xfer) s = .next (afterEvent s
        (freeSlot k (others.foldl (fun acc d => failContext [record] .poisoned d acc) ended))
        (own ++ behindFaults s record others))

/-- How a fill decodes, and what its end does: FILL_COMPLETE makes the slot RESIDENT, fully dirty after a correction,
or frees it while it is released; FILL_UNCORRECTABLE lists the record, frees the slot and ends its claimants
MEDIA_ERROR; the fill writes nothing, and every bit that it finds in error stands in error until its word is written; a
record outside the store is not addressed (R65, R96, R101, R102, R105, R106, R107, R111, R112, R117). Model's choice:
the error masks as operands, the stop outside the store, that each context hands over its results by itself, the
fault's detail code as the set of uncorrectable words alone, the order of lanes and bytes in DRAM, and the order in
which the claimants end (notes/assumptions/7.md, 9.md, 13.md, 21.md, 31.md and 32.md). -/
def Obligations.FillsEnd : Prop :=
  ∀ (s : State) (k : SlotId) (errors : Vector WordErrors 4) (n : Nat), s.store.fillJob k = some n →
    let bad := fillBad s.store n errors
    let corrected := fillCorrected s.store n errors
    let inError := fun w : WordId => wordErrors s.store n w ||| errors[w]
    ((∀ w : WordId, wordWritten s.store n w = true ∧ errorCount (inError w) ≤ 1) →
      bad = 0 ∧ fillLanes s.store n errors = recordOfWords (dramWord s.store n) ∧
      ∀ w : WordId, corrected.getLsbD w.val = true ↔ errorCount (inError w) = 1) ∧
    ((∃ w : WordId, wordWritten s.store n w = true ∧ errorCount (inError w) = 2) → bad ≠ 0) ∧
    (s.store.size ≤ n → (bad = 0 → exec (.fillComplete k errors) s = .fault .outsideStore) ∧
      (bad ≠ 0 → exec (.fillUncorrectable k errors) s = .fault .outsideStore)) ∧
    (n < s.store.size → ∀ y, s.cache.slots[k] = some y → ∃ ended : Store,
      ended = { s.store with jobs := s.store.jobs.filter (fun j => !j.isFill k), errors := ended.errors } ∧
      (MemoryCanonical s → ∀ (m : Nat) (w : WordId),
        wordErrors ended m w = if m = n then inError w else wordErrors s.store m w) ∧
      let s1 := s.setStore ended
      let faults := if corrected = 0 then [] else [mediaFault .mediaCorrected s y corrected]
      let lanes := fillLanes s.store n errors
      let content : Resident :=
        { image := { lanes := lanes, parity := recordParity lanes }
          dirty := if corrected = 0 then 0 else allLanes
          dirtySince := if corrected = 0 then none else some s.now
          writeBack := false }
      (bad = 0 → releasing s y.region = true →
        exec (.fillComplete k errors) s = .next (afterEvent s (freeSlot k s1) faults)) ∧
      (bad = 0 → releasing s y.region = false → exec (.fillComplete k errors) s = .next (afterEvent s
        ((s1.setSlot k (some { y with phase := .resident content })).setRecency (s.cache.recency.filter (· != k) ++ [k])) faults)) ∧
      (bad ≠ 0 → ∃ list, exec (.fillUncorrectable k errors) s = .next (afterEvent s
        (y.claims.foldl (fun acc c => failContext [n] .mediaError c acc)
          (freeSlot k (s.setStore { ended with poison := list })))
        (mediaFault .mediaUncorrectable s y bad ::
          if n ∉ s.store.poison ∧ 64 ≤ s.store.poison.length then [mediaFault .poisonListFull s y bad] else [])) ∧
        list = if n ∈ s.store.poison ∨ 64 ≤ s.store.poison.length then s.store.poison else s.store.poison ++ [n]))

/-! ## Commits -/

/-- UPDATE_COMMIT and BUNDLE_COMMIT evaluate every member on the image of its own source; where a single UPDATE's
verdict chooses an arm, or every member of a bundle passes, the arms are applied to the slots that the context holds
and the probes are consulted: a probe that is ARMED captures the first member, in member order, whose pass arm wrote a
record of its range, becomes HIT and raises its notice, in ascending probe number; where a member of a bundle does not
pass, every member is withheld, and nothing is written. Each member keeps an image copy where it asks for one; then the
context leaves its queues and issues its host writes, or hands over its results (R37, R55, R69, R71, R73, R75, R85,
R167 to R169). Model's choice: that one parity mismatch is reported, that parity bits are set for an odd number of ones
and a record item loses its slot reference, and that a bundle's host writes are issued in member order
(notes/assumptions/16.md, 28.md and 37.md). -/
def Obligations.UpdatesAndBundlesCommit : Prop :=
  ∀ (s : State) (c : CtxId) (x : Context) (vs : List Evaluated), s.contexts[c] = some x → x.phase = .ready →
    unsoundSlot s x = none → evaluateMembers s x = some vs →
    let applied := consultProbes x.ring vs (vs.foldl (applyMember x) s)
    let left := fun (ms : List Member) (u : State) => leaveQueues c (u.setContext c (some { x with
      phase := .hostWrite
      members := ms
      records := x.records.map fun i => { i with slot := none }
      hostWrites := ms.countP fun m => m.image.isSome }))
    let ended := fun (ms : List Member) (u : State) =>
      if ∀ m ∈ ms, m.image = none then endContext c (left ms u) else issueImages c 0 ms (left ms u)
    (vs.map Evaluated.member = x.members ∧ ∀ v ∈ vs, ∃ i k y content,
      i ∈ x.records ∧ i.record = v.member.source ∧ i.slot = some k ∧ s.cache.slots[k] = some y ∧
      heldSlot s x v.member.source = some (k, y) ∧ y.record = v.member.source ∧ y.phase = .resident content ∧
      v.pre = content.image.lanes ∧ v.region = s.regions[WorkEntry.region v.member.entry] ∧
      (WorkEntry.opcode v.member.entry ≠ some .fetch → v.verdict = updateVerdict v.region v.member.entry v.pre)) ∧
    (∀ u v arm k y content, v.arm = some arm → heldSlot u x v.member.written = some (k, y) →
      y.phase = .resident content → ∃ since,
        applyMember x u v = u.setSlot k (some { y with phase := .resident { content with
          image := { lanes := v.image arm, parity := recordParity (v.image arm) }
          dirty := content.dirty ||| armWritten v.region v.member.entry arm
          dirtySince := since } }) ∧
        (content.dirty = 0 → armWritten v.region v.member.entry arm ≠ 0 → since = some u.now) ∧
        (content.dirty ≠ 0 → since = content.dirtySince)) ∧
    (∀ u v, v.arm = none → applyMember x u v = u) ∧
    (∀ v : Evaluated, v.member.written = match v.member.destination with
      | some n => n
      | none => v.member.source) ∧
    (∀ v : Evaluated, WorkEntry.opcode v.member.entry = some .update →
      v.decided = { v.member with
        outcome := some v.outcome
        image := if WorkEntry.returnImage v.member.entry then some (v.arm.elim v.pre v.image) else none } ∧
      v.withheld = { v.member with
        outcome := some
          { status := .success, verdict := v.verdict, committed := false, elseApplied := false, floor := false,
            ceiling := false, withheld := true, imageReturned := false, versionWord := v.region.versionLane.elim 0 (v.pre[·]),
            written := 0 }
        image := if WorkEntry.returnImage v.member.entry then some v.pre else none }) ∧
    (∀ u : State,
      let t := consultProbes x.ring vs u
      let index := fun v : Evaluated => if v.member.destination = none then entryField v.member.entry 0x08 4
        else entryField v.member.entry 0x0C 4
      let hits := fun (v : Evaluated) (rg : RegionId) (first last : Nat) =>
        v.arm = some .pass ∧ WorkEntry.region v.member.entry = rg ∧ first ≤ index v ∧ index v ≤ last
      (∀ (p : ProbeId) (rg : RegionId) (first last : Nat), u.probes[p] = .armed rg first last →
        ((∀ v ∈ vs, ¬hits v rg first last) → t.probes[p] = u.probes[p]) ∧
        ∀ before v rest, vs = before ++ v :: rest → hits v rg first last → (∀ w ∈ before, ¬hits w rg first last) →
          t.probes[p] = .hit rg first last
            { ring := x.ring, ringSlot := v.member.ringSlot, tag := BitVec.ofNat 16 (entryField v.member.entry 0x02 2),
              recordIndex := index v, versionWord := v.outcome.versionWord }) ∧
      (∀ p : ProbeId, (∀ rg first last, u.probes[p] ≠ .armed rg first last) → t.probes[p] = u.probes[p]) ∧
      t = ((List.finRange 4).filter fun p => decide (t.probes[p] ≠ u.probes[p])).foldl
        (fun v p => raiseNotice (.probeHit p) v) (u.setProbes t.probes)) ∧
    (∀ (u : State) (ms : List Member) (j : Nat) (m : Member) (image : Record), ms[j]? = some m → m.image = some image →
      ∃ y ∈ (issueImages c 0 ms u).link.transfers, y.kind = .buffer c j ∧ y.addr = entryAddr m.entry 0x20 ∧
        y.body = recordBytes image) ∧
    (∀ m, x.members = [m] → WorkEntry.opcode m.entry = some .update → exec (.updateCommit c) s =
      .next (afterEvent s (ended (vs.map Evaluated.decided) applied) [])) ∧
    (2 ≤ x.members.length → (∀ v ∈ vs, v.verdict = .pass) → exec (.bundleCommit c) s =
      .next (afterEvent s (ended (vs.map Evaluated.decided) applied) [])) ∧
    (2 ≤ x.members.length → (∃ v ∈ vs, v.verdict ≠ .pass) → exec (.bundleCommit c) s =
      .next (afterEvent s (ended (vs.map Evaluated.withheld) s) []))

/-- FETCH_COMMIT evaluates the match test on the image that the context holds, writes no record and copies the image
out on PASS; STORE_COMMIT writes the whole record, which leaves the poison list (R22, R23, R38, R39, R42, R70, R97,
R112). Model's choice: that parity bits are set for an odd number of ones and a record item loses its slot reference
(notes/assumptions/28.md). -/
def Obligations.FetchesAndStoresCommit : Prop :=
  ∀ (s : State) (c : CtxId) (x : Context) (m : Member), s.contexts[c] = some x → x.phase = .ready →
    unsoundSlot s x = none → x.members = [m] →
    let left := fun (m' : Member) (u : State) => leaveQueues c (u.setContext c (some (x.committed [m'])))
    let ended := fun (m' : Member) (u : State) =>
      if m'.image = none then endContext c (left m' u) else issueImages c 0 [m'] (left m' u)
    (∀ v, WorkEntry.opcode m.entry = some .fetch → evaluateMember s x m = some v →
      (∃ k y content, heldSlot s x m.source = some (k, y) ∧ s.cache.slots[k] = some y ∧ y.record = m.source ∧
        y.phase = .resident content ∧ v.pre = content.image.lanes) ∧
      v.region = s.regions[WorkEntry.region m.entry] ∧
      (matchTest v.region m.entry v.pre = true → v.verdict = .pass) ∧
      (matchTest v.region m.entry v.pre = false → v.verdict = .matchFail) ∧
      ∃ m', exec (.fetchCommit c) s = .next (afterEvent s (ended m' s) []) ∧
        m' = { m with outcome := m'.outcome, image := m'.image } ∧
        m'.outcome = some { MemberOutcome.untested .success with
          verdict := v.verdict, versionWord := versionWordOf v.region v.pre } ∧
        (v.verdict = .pass → m'.image = some v.pre) ∧ (v.verdict ≠ .pass → m'.image = none)) ∧
    (∀ data, WorkEntry.opcode m.entry = some .store → x.storeData = some data → ∃ m' u,
      exec (.storeCommit c) s = .next (afterEvent s (ended m' u) []) ∧
      m' = { m with outcome := some { MemberOutcome.untested .success with
        committed := true, written := allLanes
        versionWord := versionWordOf s.regions[WorkEntry.region m.entry] data } } ∧
      u.store = { s.store with poison := s.store.poison.filter (· != m.source) } ∧ u.contexts = s.contexts ∧
      let image : Image := { lanes := data, parity := recordParity data }
      (∀ k y, heldSlot s x m.source = some (k, y) →
        (∀ k' : SlotId, k' ≠ k → u.cache.slots[k'] = s.cache.slots[k']) ∧
        (y.phase = .awaitingStore → u.cache.recency = s.cache.recency.filter (· != k) ++ [k] ∧
          u.cache.slots[k] = some { y with phase := .resident (Resident.mk image allLanes (some s.now) false) }) ∧
        (∀ content, y.phase = .resident content → u.cache.recency = s.cache.recency ∧
          u.cache.slots[k] = some { y with phase := .resident (Resident.mk image (content.dirty ||| allLanes)
            (if content.dirty = 0 then some s.now else content.dirtySince) content.writeBack) })))

/-- A parity mismatch prevents every kind of commit: INTERNAL_CHECK is raised, and the device becomes FAILED (R69,
R113, R172, R176). Model's choice: that the first mismatch is reported, once (notes/assumptions/16.md). -/
def Obligations.ParityPreventsCommit : Prop :=
  ∀ (s : State) (c : CtxId) (x : Context) (y : Slot), s.contexts[c] = some x → x.phase = .ready →
    unsoundSlot s x = some y →
    let f : RaisedFault :=
      { cls := .internalCheck, source := .none, record := some y.record, region := some y.region,
        image := x.members.head?.map fun m => imageHead m.entry }
    ∃ t, t = afterEvent s s [f] ∧ t.faults.failed = true ∧ t.store.dram = s.store.dram ∧ t.store.poison = s.store.poison ∧
      (∀ m, x.members = [m] → WorkEntry.opcode m.entry = some .update → exec (.updateCommit c) s = .next t) ∧
      (∀ m, x.members = [m] → WorkEntry.opcode m.entry = some .fetch → exec (.fetchCommit c) s = .next t) ∧
      (∀ m, x.members = [m] → WorkEntry.opcode m.entry = some .store → exec (.storeCommit c) s = .next t) ∧
      (2 ≤ x.members.length → exec (.bundleCommit c) s = .next t)

/-! ## Ends of host writes -/

/-- The end of a host buffer write: IMAGE_RETURNED, or HOST_FAULT with a fault; after its last one the context hands
over its results (R74, R75, R76). Model's choice: the fault's detail (notes/assumptions/21.md). -/
def Obligations.HostBufferWritesEnd : Prop :=
  ∀ (s : State) (xfer : Nat) (c : CtxId) (j : Nat) (x : Context), awaits s xfer (.buffer c j) = true →
    s.contexts[c] = some x →
    let ended := fun finish : MemberOutcome → MemberOutcome =>
      let u := (dropTransfer xfer s).setContext c (some { x with
        hostWrites := x.hostWrites - 1
        members := x.members.modify j fun m => { m with outcome := m.outcome.map finish, image := none } })
      if x.hostWrites ≤ 1 then endContext c u else u
    exec (.hostBufferWriteComplete xfer) s =
      .next (afterEvent s (ended fun o => { o with imageReturned := true }) []) ∧
    ∀ m, x.members[j]? = some m → ∃ record, exec (.hostBufferWriteFailure xfer) s =
        .next (afterEvent s (ended fun o => { o with status := .hostFault })
          [memberFault .hostBufferWrite x.ring m record]) ∧
      (∀ o, m.outcome = some o → o.committed = true → record = m.written) ∧
      (∀ o, m.outcome = some o → o.committed = false → record = m.source)

/-- The end of a write of a result entry, a status block entry or an admin result entry: a completed status write lets
the pending one follow, and every failure raises HOST_RING_WRITE, with which the device is FAILED (R130, R141, R142,
R161, R172, R176). Model's choice: the faults' details, writes that outlive their ring, and that the pending status
write is issued before the fault of a failed one is raised (notes/assumptions/21.md, 25.md and 42.md). -/
def Obligations.RingWritesEnd : Prop :=
  (∀ (s : State) (xfer : Nat) (rr : RingId) (slot : Nat) (serial : Serial),
    awaits s xfer (.result rr slot serial) = true → ∃ t, exec (.resultWriteFailure xfer) s = .next t ∧
      t = afterEvent s (dropTransfer xfer s)
        [{ cls := .hostRingWrite, source := .resultRing rr, slotIndex := some slot,
           value := some (BitVec.ofNat 32 serial.toNat) }] ∧ t.faults.failed = true) ∧
  (∀ (s : State) (xfer : Nat) (slot : Nat) (serial : Serial), awaits s xfer (.adminResult slot serial) = true →
    ∃ t, exec (.adminResultWriteFailure xfer) s = .next t ∧
      t = afterEvent s (dropTransfer xfer s)
        [{ cls := .hostRingWrite, source := .adminRing, slotIndex := some slot,
           value := some (BitVec.ofNat 32 serial.toNat) }] ∧ t.faults.failed = true) ∧
  ∀ (s : State) (xfer : Nat) (e : Fin 16) (index : Nat), awaits s xfer (.status e index) = true →
    let ended := endStatusWrite e (dropTransfer xfer s)
    exec (.statusWriteComplete xfer) s = .next (afterEvent s ended []) ∧
    (∃ f t, exec (.statusWriteFailure xfer) s = .next t ∧ t = afterEvent s ended [f] ∧ t.faults.failed = true ∧
      f.cls = .hostRingWrite ∧ (e = 0 → f.source = .adminRing) ∧
      (∀ r, e = statusEntryOf r → f.source = .workRing r ∧ f.value = some (BitVec.ofNat 32 index))) ∧
    (s.rings.status[e] = .inFlight none → ended = (dropTransfer xfer s).setStatus e .idle) ∧
    ∀ next, s.rings.status[e] = .inFlight (some next) → ended.rings.status[e] = .inFlight none ∧
      ∃ x ∈ ended.link.transfers, x.kind = .status e next ∧ x.xfer = s.link.next ∧
        x.addr = itemAddr (statusBase s) 8 e.val ∧ x.body = statusEntryBytes next

/-! ## Expiries and the ends of jobs -/

/-- COALESCING_EXPIRY causes a message, STALL_EXPIRY makes the stall EXPIRED with a fault and a notice, CLEANER_EXPIRY
starts a write-back; a result ring's stall is timed from the event at which the ring becomes credit-blocked, and no
longer when it stops being so (R93, R98, R144, R145, R146). Model's choice: that an expiry is not forced, and EXPIRED in FAILED
(notes/assumptions/23.md and notes/assumptions/29.md). -/
def Obligations.ExpiriesFall : Prop :=
  (∀ (u : State) (rr : RingId), (u.rings.results[rr] = none → (stallCheck u).rings.results[rr] = none) ∧
    ∀ q, u.rings.results[rr] = some q →
      let blocked := u.faults.failed = false ∧ u.resetPhase = .operating ∧ ∃ (r : RingId) (w : WorkRing) (unit : List Entry),
        u.rings.work[r] = some w ∧ w.boundTo = rr ∧ (w.phase = .active ∨ w.phase = .deleting .drain) ∧
        nextUnit w.prefetch = some unit ∧
        q.size - 1 - ringGap q.size q.release q.produce - q.reserved < unit.length
      (q.stall = .idle → blocked → (stallCheck u).rings.results[rr] = some { q with stall := .timing u.now }) ∧
      (q.stall = .idle → ¬blocked → (stallCheck u).rings.results[rr] = some q) ∧
      (∀ start, q.stall = .timing start → blocked → (stallCheck u).rings.results[rr] = some q) ∧
      (∀ start, q.stall = .timing start → ¬blocked →
        (stallCheck u).rings.results[rr] = some { q with stall := .idle }) ∧
      (q.stall = .expired → (stallCheck u).rings.results[rr] = some q)) ∧
  (∀ u : State, stallCheck u = { u with rings := { u.rings with results := (stallCheck u).rings.results } }) ∧
  (∀ (s : State) (rr : RingId) (q : ResultRing) (since : Nat), LinkOrdered s → s.rings.results[rr] = some q →
    0 < q.unsignalled → q.firstUnsignalled = some since → q.coalesceTime ≤ s.now - since →
    let u := s.setResult rr (some { q with unsignalled := 0, firstUnsignalled := none })
    let message : Transfer :=
      { xfer := s.link.next, kind := .message (some rr), addr := q.msgAddr, length := 4,
        body := leBytes 4 q.msgData.toNat, issued := s.now, heeded := true }
    (q.msgEnabled = true → exec (.coalescingExpiry rr) s =
      .next { u with link := { transfers := s.link.transfers ++ [message], next := s.link.next + 1 } }) ∧
    (q.msgEnabled = false → exec (.coalescingExpiry rr) s = .next u)) ∧
  (∀ (s : State) (rr : RingId) (q : ResultRing) (start : Nat), s.rings.results[rr] = some q →
    q.stall = .timing start → 1000 * q.stallLimit ≤ s.now - start → exec (.stallExpiry rr) s =
      .next (adminMessage s.link.next (settle (raiseNotice (.resultStall rr)
        (raiseFault { cls := .resultStall, source := .resultRing rr }
          (s.setResult rr (some { q with stall := .expired }))))))) ∧
  ∀ (s : State) (k : SlotId) (y : Slot) (content : Resident) (since : Nat), s.cache.slots[k] = some y →
    y.phase = .resident content → content.writeBack = false → content.dirtySince = some since →
    s.cache.ageLimit ≠ 0 → 1000 * s.cache.ageLimit ≤ s.now - since →
    exec (.cleanerExpiry k) s = .next (afterEvent s (startWriteBack k s) [])

/-- WRITE_BACK_COMPLETE: the protection words that hold a lane of the job's set stand in DRAM with check bits computed
from them and with no bit in error; every other byte, check bit and bit in error is as it was; and the slot goes on
without a write-back in flight: clean, it is freed where it is being released; dirty again, a further write-back is
started where the slot is being released, where a running flush awaits one, or where the age limit has passed; and a
flush awaits the slot no longer, unless for the further write-back. A record outside the store is not addressed (R2,
R95, R98, R100 to R102, R104 to R106, R108, R117). Model's choice: the bytes at the end of the job, the stop outside
the store, what a slot dirty again at its completion has started, that this is started before the allocator evaluates
its head, and the order of lanes and bytes in DRAM (notes/assumptions/8.md, 9.md, 26.md, 31.md and 44.md). -/
def Obligations.WriteBackCompletes : Prop :=
  ∀ (s : State) (k : SlotId) (n : Nat) (lanes : Record) (set : LaneSet), MemoryCanonical s →
    s.store.writeBackJob k = some (n, lanes, set) →
    let touched := fun w : WordId => set.getLsbD (2 * w.val) = true ∨ set.getLsbD (2 * w.val + 1) = true
    (s.store.size ≤ n → exec (.writeBackComplete k) s = .fault .outsideStore) ∧
    (n < s.store.size → ∃ t, exec (.writeBackComplete k) s = .next t ∧
      (∀ (w : WordId) (i : Nat), i < 8 → touched w →
        Memory.read t.store.dram (32 * n + 8 * w.val + i) = (recordBytes lanes)[8 * w.val + i]?) ∧
      (∀ w : WordId, touched w →
        Memory.read t.store.check (4 * n + w.val) = some (Config.eccCheck (lanes[highLane w] ++ lanes[lowLane w])) ∧
        wordErrors t.store n w = 0) ∧
      (∀ (w : WordId) (i : Nat), i < 8 → ¬touched w →
        Memory.read t.store.dram (32 * n + 8 * w.val + i) = Memory.read s.store.dram (32 * n + 8 * w.val + i)) ∧
      (∀ w : WordId, ¬touched w →
        Memory.read t.store.check (4 * n + w.val) = Memory.read s.store.check (4 * n + w.val) ∧
        wordErrors t.store n w = wordErrors s.store n w) ∧
      (∀ a, a < 32 * n ∨ 32 * n + 32 ≤ a → Memory.read t.store.dram a = Memory.read s.store.dram a) ∧
      (∀ a, a < 4 * n ∨ 4 * n + 4 ≤ a → Memory.read t.store.check a = Memory.read s.store.check a) ∧
      (∀ (m : Nat) (w : WordId), m ≠ n → wordErrors t.store m w = wordErrors s.store m w) ∧
      (∀ y content, s.cache.slots[k] = some y → y.phase = .resident content → ∃ u e,
        t = afterEvent s (afterWriteBack k y content u) [] ∧
        u.cache = { s.cache with slots := s.cache.slots.set k (some { y with
          phase := .resident { content with writeBack := false } }) } ∧
        u.store.jobs = s.store.jobs.filter (fun j => !j.isWriteBack k) ∧ u.store.poison = s.store.poison ∧
        u.contexts = s.contexts ∧ u.rings = s.rings ∧ u.admin = s.admin ∧ u.regions = s.regions ∧
        u = { s with cache := u.cache, store := u.store } ∧
        let released := s.resetPhase = .functionReset ∨
          ∃ probes, runningProgress s = some (.retireRelease y.region probes)
        let again := ∃ awaited, runningProgress s = some (.flush awaited) ∧ ∃ a ∈ awaited, a.slot = k ∧ a.again = true
        let aged := ∃ d, content.dirtySince = some d ∧ s.cache.ageLimit ≠ 0 ∧ 1000 * s.cache.ageLimit ≤ s.now - d
        ((∀ awaited, runningProgress s ≠ some (.flush awaited)) → e = u) ∧
        (∀ awaited, runningProgress s = some (.flush awaited) →
          (again → e = setProgress
            (.flush (awaited.map fun a => if a.slot = k then { a with again := false } else a)) u) ∧
          (¬again → e = setProgress (.flush (awaited.filter fun a => a.slot != k)) u)) ∧
        (content.dirty = 0 → released → t = afterEvent s (freeSlot k e) []) ∧
        (content.dirty = 0 → ¬released → t = afterEvent s e []) ∧
        (content.dirty ≠ 0 → released ∨ again ∨ aged → t = afterEvent s (startWriteBack k e) []) ∧
        (content.dirty ≠ 0 → ¬(released ∨ again ∨ aged) → t = afterEvent s e [])))

/-- The region-fill job: while no command is taken it may write some of its next records, and its next record advances
by one with each; at its end every record from its next one on holds the pattern, the range leaves the poison list, and
the DEFINE_REGION that waits completes; stopped by a function reset it ends after the record in progress, the poison
list is as it was, and the FILLING region becomes UNDEFINED. Each word written has check bits computed from it and no
bit in error, and every byte, check bit and bit in error outside the records written is as it was (R10, R17, R105,
R106, R109, R110, R112, R117). Model's choice: the tick, the job's speed, the bytes at its end, the stop outside the
store, and the order of lanes and bytes in DRAM (notes/assumptions/2.md, 8.md, 9.md and 31.md). -/
def Obligations.RegionFillsEnd : Prop :=
  ∀ (s : State) (first last next : Nat) (pattern : Record), MemoryCanonical s →
    s.store.regionFillJob = some (first, last, pattern, next) →
    let filled := fun (t : State) (till : Nat) =>
      (∀ n i, next ≤ n → n < till → i < 32 →
        Memory.read t.store.dram (32 * n + i) = (recordBytes pattern)[i]?) ∧
      (∀ (n : Nat) (w : WordId), next ≤ n → n < till →
        Memory.read t.store.check (4 * n + w.val) = some (Config.eccCheck (pattern[highLane w] ++ pattern[lowLane w])) ∧
        wordErrors t.store n w = 0) ∧
      (∀ a, a < 32 * next ∨ 32 * till ≤ a → next ≤ till →
        Memory.read t.store.dram a = Memory.read s.store.dram a) ∧
      (∀ a, a < 4 * next ∨ 4 * till ≤ a → next ≤ till →
        Memory.read t.store.check a = Memory.read s.store.check a) ∧
      ∀ (n : Nat) (w : WordId), n < next ∨ till ≤ n → next ≤ till → wordErrors t.store n w = wordErrors s.store n w
    (s.pending = [] → s.resetPhase ≠ .functionReset → ∃ t m, step s = .next t ∧
      t.store.regionFillJob = some (first, last, pattern, next + m) ∧ filled t (next + m) ∧
      (m = 0 ∨ next + m ≤ last ∧ next + m ≤ s.store.size) ∧ t.store.poison = s.store.poison ∧
      t.regions = s.regions) ∧
    (s.resetPhase ≠ .functionReset → s.store.size ≤ last → exec .regionFillComplete s = .fault .outsideStore) ∧
    (s.resetPhase ≠ .functionReset → last < s.store.size → ∃ t, exec .regionFillComplete s = .next t ∧
      filled t (last + 1) ∧ t.store.poison = s.store.poison.filter (fun n => decide (n < first ∨ last < n)) ∧
      (∀ rg, runningProgress s = some (.regionFill rg) → s.regions[rg].phase = .filling → ∃ u,
        t = afterEvent s (completeCommand .done 0 u) [] ∧
          u.regions = s.regions.set rg { s.regions[rg] with phase := .active } ∧
          u.store.jobs = s.store.jobs.filter (fun j => !j.isRegionFill))) ∧
    ∀ current, s.resetPhase = .functionReset → next ≤ current → current ≤ last →
      (s.store.size ≤ current → exec (.regionFillStopped current) s = .fault .outsideStore) ∧
      (current < s.store.size → ∃ t, exec (.regionFillStopped current) s = .next t ∧ filled t (current + 1) ∧
        t.store.poison = s.store.poison ∧ t.store.jobs = s.store.jobs.filter (fun j => !j.isRegionFill) ∧
        (∀ rg : RegionId, t.regions[rg] =
          if s.regions[rg].phase = .filling then Region.cleared else s.regions[rg]) ∧
        t.cache = s.cache ∧ t.contexts = s.contexts ∧ t.rings = s.rings ∧ t.admin = s.admin ∧ t.faults = s.faults)

end Statements
end

