-- ==== Sys2Proof/Laws/State.lean ====
section
/-! SUPPORT. What each field update of the state leaves in each field: true by unfolding, and tagged so that no later
proof unfolds an update. -/

namespace Sys2Proof.Machine

variable (s : State)

/-! ### setTransfers -/

@[simp] theorem State.setTransfers_transfers (x : List Transfer) : (s.setTransfers x).link.transfers = x := rfl
@[simp] theorem State.setTransfers_next (x : List Transfer) : (s.setTransfers x).link.next = s.link.next := rfl
@[simp] theorem State.setTransfers_regs (x : List Transfer) : (s.setTransfers x).regs = s.regs := rfl
@[simp] theorem State.setTransfers_resetPhase (x : List Transfer) :
    (s.setTransfers x).resetPhase = s.resetPhase := rfl
@[simp] theorem State.setTransfers_regions (x : List Transfer) : (s.setTransfers x).regions = s.regions := rfl
@[simp] theorem State.setTransfers_contexts (x : List Transfer) : (s.setTransfers x).contexts = s.contexts := rfl
@[simp] theorem State.setTransfers_cache (x : List Transfer) : (s.setTransfers x).cache = s.cache := rfl
@[simp] theorem State.setTransfers_store (x : List Transfer) : (s.setTransfers x).store = s.store := rfl
@[simp] theorem State.setTransfers_rings (x : List Transfer) : (s.setTransfers x).rings = s.rings := rfl
@[simp] theorem State.setTransfers_admin (x : List Transfer) : (s.setTransfers x).admin = s.admin := rfl
@[simp] theorem State.setTransfers_probes (x : List Transfer) : (s.setTransfers x).probes = s.probes := rfl
@[simp] theorem State.setTransfers_faults (x : List Transfer) : (s.setTransfers x).faults = s.faults := rfl
@[simp] theorem State.setTransfers_now (x : List Transfer) : (s.setTransfers x).now = s.now := rfl
@[simp] theorem State.setTransfers_pending (x : List Transfer) : (s.setTransfers x).pending = s.pending := rfl

/-! ### setRegs -/

@[simp] theorem State.setRegs_link (x : Registers) : (s.setRegs x).link = s.link := rfl
@[simp] theorem State.setRegs_regs (x : Registers) : (s.setRegs x).regs = x := rfl
@[simp] theorem State.setRegs_resetPhase (x : Registers) : (s.setRegs x).resetPhase = s.resetPhase := rfl
@[simp] theorem State.setRegs_regions (x : Registers) : (s.setRegs x).regions = s.regions := rfl
@[simp] theorem State.setRegs_contexts (x : Registers) : (s.setRegs x).contexts = s.contexts := rfl
@[simp] theorem State.setRegs_cache (x : Registers) : (s.setRegs x).cache = s.cache := rfl
@[simp] theorem State.setRegs_store (x : Registers) : (s.setRegs x).store = s.store := rfl
@[simp] theorem State.setRegs_rings (x : Registers) : (s.setRegs x).rings = s.rings := rfl
@[simp] theorem State.setRegs_admin (x : Registers) : (s.setRegs x).admin = s.admin := rfl
@[simp] theorem State.setRegs_probes (x : Registers) : (s.setRegs x).probes = s.probes := rfl
@[simp] theorem State.setRegs_faults (x : Registers) : (s.setRegs x).faults = s.faults := rfl
@[simp] theorem State.setRegs_now (x : Registers) : (s.setRegs x).now = s.now := rfl
@[simp] theorem State.setRegs_pending (x : Registers) : (s.setRegs x).pending = s.pending := rfl

/-! ### setResetPhase -/

@[simp] theorem State.setResetPhase_link (x : ResetPhase) : (s.setResetPhase x).link = s.link := rfl
@[simp] theorem State.setResetPhase_regs (x : ResetPhase) : (s.setResetPhase x).regs = s.regs := rfl
@[simp] theorem State.setResetPhase_resetPhase (x : ResetPhase) : (s.setResetPhase x).resetPhase = x := rfl
@[simp] theorem State.setResetPhase_regions (x : ResetPhase) : (s.setResetPhase x).regions = s.regions := rfl
@[simp] theorem State.setResetPhase_contexts (x : ResetPhase) : (s.setResetPhase x).contexts = s.contexts := rfl
@[simp] theorem State.setResetPhase_cache (x : ResetPhase) : (s.setResetPhase x).cache = s.cache := rfl
@[simp] theorem State.setResetPhase_store (x : ResetPhase) : (s.setResetPhase x).store = s.store := rfl
@[simp] theorem State.setResetPhase_rings (x : ResetPhase) : (s.setResetPhase x).rings = s.rings := rfl
@[simp] theorem State.setResetPhase_admin (x : ResetPhase) : (s.setResetPhase x).admin = s.admin := rfl
@[simp] theorem State.setResetPhase_probes (x : ResetPhase) : (s.setResetPhase x).probes = s.probes := rfl
@[simp] theorem State.setResetPhase_faults (x : ResetPhase) : (s.setResetPhase x).faults = s.faults := rfl
@[simp] theorem State.setResetPhase_now (x : ResetPhase) : (s.setResetPhase x).now = s.now := rfl
@[simp] theorem State.setResetPhase_pending (x : ResetPhase) : (s.setResetPhase x).pending = s.pending := rfl

/-! ### setRegion -/

@[simp] theorem State.setRegion_link (r : RegionId) (x : Region) : (s.setRegion r x).link = s.link := rfl
@[simp] theorem State.setRegion_regs (r : RegionId) (x : Region) : (s.setRegion r x).regs = s.regs := rfl
@[simp] theorem State.setRegion_resetPhase (r : RegionId) (x : Region) :
    (s.setRegion r x).resetPhase = s.resetPhase := rfl
@[simp] theorem State.setRegion_regions (r : RegionId) (x : Region) :
    (s.setRegion r x).regions = s.regions.set r x := rfl
@[simp] theorem State.setRegion_contexts (r : RegionId) (x : Region) : (s.setRegion r x).contexts = s.contexts := rfl
@[simp] theorem State.setRegion_cache (r : RegionId) (x : Region) : (s.setRegion r x).cache = s.cache := rfl
@[simp] theorem State.setRegion_store (r : RegionId) (x : Region) : (s.setRegion r x).store = s.store := rfl
@[simp] theorem State.setRegion_rings (r : RegionId) (x : Region) : (s.setRegion r x).rings = s.rings := rfl
@[simp] theorem State.setRegion_admin (r : RegionId) (x : Region) : (s.setRegion r x).admin = s.admin := rfl
@[simp] theorem State.setRegion_probes (r : RegionId) (x : Region) : (s.setRegion r x).probes = s.probes := rfl
@[simp] theorem State.setRegion_faults (r : RegionId) (x : Region) : (s.setRegion r x).faults = s.faults := rfl
@[simp] theorem State.setRegion_now (r : RegionId) (x : Region) : (s.setRegion r x).now = s.now := rfl
@[simp] theorem State.setRegion_pending (r : RegionId) (x : Region) : (s.setRegion r x).pending = s.pending := rfl

/-! ### setContext -/

@[simp] theorem State.setContext_link (c : CtxId) (x : Option Context) : (s.setContext c x).link = s.link := rfl
@[simp] theorem State.setContext_regs (c : CtxId) (x : Option Context) : (s.setContext c x).regs = s.regs := rfl
@[simp] theorem State.setContext_resetPhase (c : CtxId) (x : Option Context) :
    (s.setContext c x).resetPhase = s.resetPhase := rfl
@[simp] theorem State.setContext_regions (c : CtxId) (x : Option Context) :
    (s.setContext c x).regions = s.regions := rfl
@[simp] theorem State.setContext_contexts (c : CtxId) (x : Option Context) :
    (s.setContext c x).contexts = s.contexts.set c x := rfl
@[simp] theorem State.setContext_cache (c : CtxId) (x : Option Context) : (s.setContext c x).cache = s.cache := rfl
@[simp] theorem State.setContext_store (c : CtxId) (x : Option Context) : (s.setContext c x).store = s.store := rfl
@[simp] theorem State.setContext_rings (c : CtxId) (x : Option Context) : (s.setContext c x).rings = s.rings := rfl
@[simp] theorem State.setContext_admin (c : CtxId) (x : Option Context) : (s.setContext c x).admin = s.admin := rfl
@[simp] theorem State.setContext_probes (c : CtxId) (x : Option Context) : (s.setContext c x).probes = s.probes := rfl
@[simp] theorem State.setContext_faults (c : CtxId) (x : Option Context) : (s.setContext c x).faults = s.faults := rfl
@[simp] theorem State.setContext_now (c : CtxId) (x : Option Context) : (s.setContext c x).now = s.now := rfl
@[simp] theorem State.setContext_pending (c : CtxId) (x : Option Context) :
    (s.setContext c x).pending = s.pending := rfl

/-! ### setCache -/

@[simp] theorem State.setCache_link (x : Cache) : (s.setCache x).link = s.link := rfl
@[simp] theorem State.setCache_regs (x : Cache) : (s.setCache x).regs = s.regs := rfl
@[simp] theorem State.setCache_resetPhase (x : Cache) : (s.setCache x).resetPhase = s.resetPhase := rfl
@[simp] theorem State.setCache_regions (x : Cache) : (s.setCache x).regions = s.regions := rfl
@[simp] theorem State.setCache_contexts (x : Cache) : (s.setCache x).contexts = s.contexts := rfl
@[simp] theorem State.setCache_cache (x : Cache) : (s.setCache x).cache = x := rfl
@[simp] theorem State.setCache_store (x : Cache) : (s.setCache x).store = s.store := rfl
@[simp] theorem State.setCache_rings (x : Cache) : (s.setCache x).rings = s.rings := rfl
@[simp] theorem State.setCache_admin (x : Cache) : (s.setCache x).admin = s.admin := rfl
@[simp] theorem State.setCache_probes (x : Cache) : (s.setCache x).probes = s.probes := rfl
@[simp] theorem State.setCache_faults (x : Cache) : (s.setCache x).faults = s.faults := rfl
@[simp] theorem State.setCache_now (x : Cache) : (s.setCache x).now = s.now := rfl
@[simp] theorem State.setCache_pending (x : Cache) : (s.setCache x).pending = s.pending := rfl

/-! ### setSlot -/

@[simp] theorem State.setSlot_link (k : SlotId) (x : Option Slot) : (s.setSlot k x).link = s.link := rfl
@[simp] theorem State.setSlot_regs (k : SlotId) (x : Option Slot) : (s.setSlot k x).regs = s.regs := rfl
@[simp] theorem State.setSlot_resetPhase (k : SlotId) (x : Option Slot) :
    (s.setSlot k x).resetPhase = s.resetPhase := rfl
@[simp] theorem State.setSlot_regions (k : SlotId) (x : Option Slot) : (s.setSlot k x).regions = s.regions := rfl
@[simp] theorem State.setSlot_contexts (k : SlotId) (x : Option Slot) : (s.setSlot k x).contexts = s.contexts := rfl
@[simp] theorem State.setSlot_slots (k : SlotId) (x : Option Slot) :
    (s.setSlot k x).cache.slots = s.cache.slots.set k x := rfl
@[simp] theorem State.setSlot_recency (k : SlotId) (x : Option Slot) :
    (s.setSlot k x).cache.recency = s.cache.recency := rfl
@[simp] theorem State.setSlot_requests (k : SlotId) (x : Option Slot) :
    (s.setSlot k x).cache.requests = s.cache.requests := rfl
@[simp] theorem State.setSlot_ageLimit (k : SlotId) (x : Option Slot) :
    (s.setSlot k x).cache.ageLimit = s.cache.ageLimit := rfl
@[simp] theorem State.setSlot_store (k : SlotId) (x : Option Slot) : (s.setSlot k x).store = s.store := rfl
@[simp] theorem State.setSlot_rings (k : SlotId) (x : Option Slot) : (s.setSlot k x).rings = s.rings := rfl
@[simp] theorem State.setSlot_admin (k : SlotId) (x : Option Slot) : (s.setSlot k x).admin = s.admin := rfl
@[simp] theorem State.setSlot_probes (k : SlotId) (x : Option Slot) : (s.setSlot k x).probes = s.probes := rfl
@[simp] theorem State.setSlot_faults (k : SlotId) (x : Option Slot) : (s.setSlot k x).faults = s.faults := rfl
@[simp] theorem State.setSlot_now (k : SlotId) (x : Option Slot) : (s.setSlot k x).now = s.now := rfl
@[simp] theorem State.setSlot_pending (k : SlotId) (x : Option Slot) : (s.setSlot k x).pending = s.pending := rfl

/-! ### setRecency -/

@[simp] theorem State.setRecency_link (x : List SlotId) : (s.setRecency x).link = s.link := rfl
@[simp] theorem State.setRecency_regs (x : List SlotId) : (s.setRecency x).regs = s.regs := rfl
@[simp] theorem State.setRecency_resetPhase (x : List SlotId) : (s.setRecency x).resetPhase = s.resetPhase := rfl
@[simp] theorem State.setRecency_regions (x : List SlotId) : (s.setRecency x).regions = s.regions := rfl
@[simp] theorem State.setRecency_contexts (x : List SlotId) : (s.setRecency x).contexts = s.contexts := rfl
@[simp] theorem State.setRecency_slots (x : List SlotId) : (s.setRecency x).cache.slots = s.cache.slots := rfl
@[simp] theorem State.setRecency_recency (x : List SlotId) : (s.setRecency x).cache.recency = x := rfl
@[simp] theorem State.setRecency_requests (x : List SlotId) :
    (s.setRecency x).cache.requests = s.cache.requests := rfl
@[simp] theorem State.setRecency_ageLimit (x : List SlotId) :
    (s.setRecency x).cache.ageLimit = s.cache.ageLimit := rfl
@[simp] theorem State.setRecency_store (x : List SlotId) : (s.setRecency x).store = s.store := rfl
@[simp] theorem State.setRecency_rings (x : List SlotId) : (s.setRecency x).rings = s.rings := rfl
@[simp] theorem State.setRecency_admin (x : List SlotId) : (s.setRecency x).admin = s.admin := rfl
@[simp] theorem State.setRecency_probes (x : List SlotId) : (s.setRecency x).probes = s.probes := rfl
@[simp] theorem State.setRecency_faults (x : List SlotId) : (s.setRecency x).faults = s.faults := rfl
@[simp] theorem State.setRecency_now (x : List SlotId) : (s.setRecency x).now = s.now := rfl
@[simp] theorem State.setRecency_pending (x : List SlotId) : (s.setRecency x).pending = s.pending := rfl

/-! ### setRequests -/

@[simp] theorem State.setRequests_link (x : List CtxId) : (s.setRequests x).link = s.link := rfl
@[simp] theorem State.setRequests_regs (x : List CtxId) : (s.setRequests x).regs = s.regs := rfl
@[simp] theorem State.setRequests_resetPhase (x : List CtxId) : (s.setRequests x).resetPhase = s.resetPhase := rfl
@[simp] theorem State.setRequests_regions (x : List CtxId) : (s.setRequests x).regions = s.regions := rfl
@[simp] theorem State.setRequests_contexts (x : List CtxId) : (s.setRequests x).contexts = s.contexts := rfl
@[simp] theorem State.setRequests_slots (x : List CtxId) : (s.setRequests x).cache.slots = s.cache.slots := rfl
@[simp] theorem State.setRequests_recency (x : List CtxId) : (s.setRequests x).cache.recency = s.cache.recency := rfl
@[simp] theorem State.setRequests_requests (x : List CtxId) : (s.setRequests x).cache.requests = x := rfl
@[simp] theorem State.setRequests_ageLimit (x : List CtxId) :
    (s.setRequests x).cache.ageLimit = s.cache.ageLimit := rfl
@[simp] theorem State.setRequests_store (x : List CtxId) : (s.setRequests x).store = s.store := rfl
@[simp] theorem State.setRequests_rings (x : List CtxId) : (s.setRequests x).rings = s.rings := rfl
@[simp] theorem State.setRequests_admin (x : List CtxId) : (s.setRequests x).admin = s.admin := rfl
@[simp] theorem State.setRequests_probes (x : List CtxId) : (s.setRequests x).probes = s.probes := rfl
@[simp] theorem State.setRequests_faults (x : List CtxId) : (s.setRequests x).faults = s.faults := rfl
@[simp] theorem State.setRequests_now (x : List CtxId) : (s.setRequests x).now = s.now := rfl
@[simp] theorem State.setRequests_pending (x : List CtxId) : (s.setRequests x).pending = s.pending := rfl

/-! ### setAgeLimit -/

@[simp] theorem State.setAgeLimit_link (x : Nat) : (s.setAgeLimit x).link = s.link := rfl
@[simp] theorem State.setAgeLimit_regs (x : Nat) : (s.setAgeLimit x).regs = s.regs := rfl
@[simp] theorem State.setAgeLimit_resetPhase (x : Nat) : (s.setAgeLimit x).resetPhase = s.resetPhase := rfl
@[simp] theorem State.setAgeLimit_regions (x : Nat) : (s.setAgeLimit x).regions = s.regions := rfl
@[simp] theorem State.setAgeLimit_contexts (x : Nat) : (s.setAgeLimit x).contexts = s.contexts := rfl
@[simp] theorem State.setAgeLimit_slots (x : Nat) : (s.setAgeLimit x).cache.slots = s.cache.slots := rfl
@[simp] theorem State.setAgeLimit_recency (x : Nat) : (s.setAgeLimit x).cache.recency = s.cache.recency := rfl
@[simp] theorem State.setAgeLimit_requests (x : Nat) : (s.setAgeLimit x).cache.requests = s.cache.requests := rfl
@[simp] theorem State.setAgeLimit_ageLimit (x : Nat) : (s.setAgeLimit x).cache.ageLimit = x := rfl
@[simp] theorem State.setAgeLimit_store (x : Nat) : (s.setAgeLimit x).store = s.store := rfl
@[simp] theorem State.setAgeLimit_rings (x : Nat) : (s.setAgeLimit x).rings = s.rings := rfl
@[simp] theorem State.setAgeLimit_admin (x : Nat) : (s.setAgeLimit x).admin = s.admin := rfl
@[simp] theorem State.setAgeLimit_probes (x : Nat) : (s.setAgeLimit x).probes = s.probes := rfl
@[simp] theorem State.setAgeLimit_faults (x : Nat) : (s.setAgeLimit x).faults = s.faults := rfl
@[simp] theorem State.setAgeLimit_now (x : Nat) : (s.setAgeLimit x).now = s.now := rfl
@[simp] theorem State.setAgeLimit_pending (x : Nat) : (s.setAgeLimit x).pending = s.pending := rfl

/-! ### setStore -/

@[simp] theorem State.setStore_link (x : Store) : (s.setStore x).link = s.link := rfl
@[simp] theorem State.setStore_regs (x : Store) : (s.setStore x).regs = s.regs := rfl
@[simp] theorem State.setStore_resetPhase (x : Store) : (s.setStore x).resetPhase = s.resetPhase := rfl
@[simp] theorem State.setStore_regions (x : Store) : (s.setStore x).regions = s.regions := rfl
@[simp] theorem State.setStore_contexts (x : Store) : (s.setStore x).contexts = s.contexts := rfl
@[simp] theorem State.setStore_cache (x : Store) : (s.setStore x).cache = s.cache := rfl
@[simp] theorem State.setStore_store (x : Store) : (s.setStore x).store = x := rfl
@[simp] theorem State.setStore_rings (x : Store) : (s.setStore x).rings = s.rings := rfl
@[simp] theorem State.setStore_admin (x : Store) : (s.setStore x).admin = s.admin := rfl
@[simp] theorem State.setStore_probes (x : Store) : (s.setStore x).probes = s.probes := rfl
@[simp] theorem State.setStore_faults (x : Store) : (s.setStore x).faults = s.faults := rfl
@[simp] theorem State.setStore_now (x : Store) : (s.setStore x).now = s.now := rfl
@[simp] theorem State.setStore_pending (x : Store) : (s.setStore x).pending = s.pending := rfl

/-! ### setPoison -/

@[simp] theorem State.setPoison_link (x : List Nat) : (s.setPoison x).link = s.link := rfl
@[simp] theorem State.setPoison_regs (x : List Nat) : (s.setPoison x).regs = s.regs := rfl
@[simp] theorem State.setPoison_resetPhase (x : List Nat) : (s.setPoison x).resetPhase = s.resetPhase := rfl
@[simp] theorem State.setPoison_regions (x : List Nat) : (s.setPoison x).regions = s.regions := rfl
@[simp] theorem State.setPoison_contexts (x : List Nat) : (s.setPoison x).contexts = s.contexts := rfl
@[simp] theorem State.setPoison_cache (x : List Nat) : (s.setPoison x).cache = s.cache := rfl
@[simp] theorem State.setPoison_size (x : List Nat) : (s.setPoison x).store.size = s.store.size := rfl
@[simp] theorem State.setPoison_dram (x : List Nat) : (s.setPoison x).store.dram = s.store.dram := rfl
@[simp] theorem State.setPoison_check (x : List Nat) : (s.setPoison x).store.check = s.store.check := rfl
@[simp] theorem State.setPoison_errors (x : List Nat) : (s.setPoison x).store.errors = s.store.errors := rfl
@[simp] theorem State.setPoison_poison (x : List Nat) : (s.setPoison x).store.poison = x := rfl
@[simp] theorem State.setPoison_jobs (x : List Nat) : (s.setPoison x).store.jobs = s.store.jobs := rfl
@[simp] theorem State.setPoison_powerOns (x : List Nat) : (s.setPoison x).store.powerOns = s.store.powerOns := rfl
@[simp] theorem State.setPoison_rings (x : List Nat) : (s.setPoison x).rings = s.rings := rfl
@[simp] theorem State.setPoison_admin (x : List Nat) : (s.setPoison x).admin = s.admin := rfl
@[simp] theorem State.setPoison_probes (x : List Nat) : (s.setPoison x).probes = s.probes := rfl
@[simp] theorem State.setPoison_faults (x : List Nat) : (s.setPoison x).faults = s.faults := rfl
@[simp] theorem State.setPoison_now (x : List Nat) : (s.setPoison x).now = s.now := rfl
@[simp] theorem State.setPoison_pending (x : List Nat) : (s.setPoison x).pending = s.pending := rfl

/-! ### setJobs -/

@[simp] theorem State.setJobs_link (x : List Job) : (s.setJobs x).link = s.link := rfl
@[simp] theorem State.setJobs_regs (x : List Job) : (s.setJobs x).regs = s.regs := rfl
@[simp] theorem State.setJobs_resetPhase (x : List Job) : (s.setJobs x).resetPhase = s.resetPhase := rfl
@[simp] theorem State.setJobs_regions (x : List Job) : (s.setJobs x).regions = s.regions := rfl
@[simp] theorem State.setJobs_contexts (x : List Job) : (s.setJobs x).contexts = s.contexts := rfl
@[simp] theorem State.setJobs_cache (x : List Job) : (s.setJobs x).cache = s.cache := rfl
@[simp] theorem State.setJobs_size (x : List Job) : (s.setJobs x).store.size = s.store.size := rfl
@[simp] theorem State.setJobs_dram (x : List Job) : (s.setJobs x).store.dram = s.store.dram := rfl
@[simp] theorem State.setJobs_check (x : List Job) : (s.setJobs x).store.check = s.store.check := rfl
@[simp] theorem State.setJobs_errors (x : List Job) : (s.setJobs x).store.errors = s.store.errors := rfl
@[simp] theorem State.setJobs_poison (x : List Job) : (s.setJobs x).store.poison = s.store.poison := rfl
@[simp] theorem State.setJobs_jobs (x : List Job) : (s.setJobs x).store.jobs = x := rfl
@[simp] theorem State.setJobs_powerOns (x : List Job) : (s.setJobs x).store.powerOns = s.store.powerOns := rfl
@[simp] theorem State.setJobs_rings (x : List Job) : (s.setJobs x).rings = s.rings := rfl
@[simp] theorem State.setJobs_admin (x : List Job) : (s.setJobs x).admin = s.admin := rfl
@[simp] theorem State.setJobs_probes (x : List Job) : (s.setJobs x).probes = s.probes := rfl
@[simp] theorem State.setJobs_faults (x : List Job) : (s.setJobs x).faults = s.faults := rfl
@[simp] theorem State.setJobs_now (x : List Job) : (s.setJobs x).now = s.now := rfl
@[simp] theorem State.setJobs_pending (x : List Job) : (s.setJobs x).pending = s.pending := rfl

/-! ### setRings -/

@[simp] theorem State.setRings_link (x : Rings) : (s.setRings x).link = s.link := rfl
@[simp] theorem State.setRings_regs (x : Rings) : (s.setRings x).regs = s.regs := rfl
@[simp] theorem State.setRings_resetPhase (x : Rings) : (s.setRings x).resetPhase = s.resetPhase := rfl
@[simp] theorem State.setRings_regions (x : Rings) : (s.setRings x).regions = s.regions := rfl
@[simp] theorem State.setRings_contexts (x : Rings) : (s.setRings x).contexts = s.contexts := rfl
@[simp] theorem State.setRings_cache (x : Rings) : (s.setRings x).cache = s.cache := rfl
@[simp] theorem State.setRings_store (x : Rings) : (s.setRings x).store = s.store := rfl
@[simp] theorem State.setRings_rings (x : Rings) : (s.setRings x).rings = x := rfl
@[simp] theorem State.setRings_admin (x : Rings) : (s.setRings x).admin = s.admin := rfl
@[simp] theorem State.setRings_probes (x : Rings) : (s.setRings x).probes = s.probes := rfl
@[simp] theorem State.setRings_faults (x : Rings) : (s.setRings x).faults = s.faults := rfl
@[simp] theorem State.setRings_now (x : Rings) : (s.setRings x).now = s.now := rfl
@[simp] theorem State.setRings_pending (x : Rings) : (s.setRings x).pending = s.pending := rfl

/-! ### setWork -/

@[simp] theorem State.setWork_link (r : RingId) (x : Option WorkRing) : (s.setWork r x).link = s.link := rfl
@[simp] theorem State.setWork_regs (r : RingId) (x : Option WorkRing) : (s.setWork r x).regs = s.regs := rfl
@[simp] theorem State.setWork_resetPhase (r : RingId) (x : Option WorkRing) :
    (s.setWork r x).resetPhase = s.resetPhase := rfl
@[simp] theorem State.setWork_regions (r : RingId) (x : Option WorkRing) : (s.setWork r x).regions = s.regions := rfl
@[simp] theorem State.setWork_contexts (r : RingId) (x : Option WorkRing) :
    (s.setWork r x).contexts = s.contexts := rfl
@[simp] theorem State.setWork_cache (r : RingId) (x : Option WorkRing) : (s.setWork r x).cache = s.cache := rfl
@[simp] theorem State.setWork_store (r : RingId) (x : Option WorkRing) : (s.setWork r x).store = s.store := rfl
@[simp] theorem State.setWork_work (r : RingId) (x : Option WorkRing) :
    (s.setWork r x).rings.work = s.rings.work.set r x := rfl
@[simp] theorem State.setWork_results (r : RingId) (x : Option WorkRing) :
    (s.setWork r x).rings.results = s.rings.results := rfl
@[simp] theorem State.setWork_lastServed (r : RingId) (x : Option WorkRing) :
    (s.setWork r x).rings.lastServed = s.rings.lastServed := rfl
@[simp] theorem State.setWork_status (r : RingId) (x : Option WorkRing) :
    (s.setWork r x).rings.status = s.rings.status := rfl
@[simp] theorem State.setWork_admin (r : RingId) (x : Option WorkRing) : (s.setWork r x).admin = s.admin := rfl
@[simp] theorem State.setWork_probes (r : RingId) (x : Option WorkRing) : (s.setWork r x).probes = s.probes := rfl
@[simp] theorem State.setWork_faults (r : RingId) (x : Option WorkRing) : (s.setWork r x).faults = s.faults := rfl
@[simp] theorem State.setWork_now (r : RingId) (x : Option WorkRing) : (s.setWork r x).now = s.now := rfl
@[simp] theorem State.setWork_pending (r : RingId) (x : Option WorkRing) : (s.setWork r x).pending = s.pending := rfl

/-! ### setResult -/

@[simp] theorem State.setResult_link (r : RingId) (x : Option ResultRing) : (s.setResult r x).link = s.link := rfl
@[simp] theorem State.setResult_regs (r : RingId) (x : Option ResultRing) : (s.setResult r x).regs = s.regs := rfl
@[simp] theorem State.setResult_resetPhase (r : RingId) (x : Option ResultRing) :
    (s.setResult r x).resetPhase = s.resetPhase := rfl
@[simp] theorem State.setResult_regions (r : RingId) (x : Option ResultRing) :
    (s.setResult r x).regions = s.regions := rfl
@[simp] theorem State.setResult_contexts (r : RingId) (x : Option ResultRing) :
    (s.setResult r x).contexts = s.contexts := rfl
@[simp] theorem State.setResult_cache (r : RingId) (x : Option ResultRing) : (s.setResult r x).cache = s.cache := rfl
@[simp] theorem State.setResult_store (r : RingId) (x : Option ResultRing) : (s.setResult r x).store = s.store := rfl
@[simp] theorem State.setResult_work (r : RingId) (x : Option ResultRing) :
    (s.setResult r x).rings.work = s.rings.work := rfl
@[simp] theorem State.setResult_results (r : RingId) (x : Option ResultRing) :
    (s.setResult r x).rings.results = s.rings.results.set r x := rfl
@[simp] theorem State.setResult_lastServed (r : RingId) (x : Option ResultRing) :
    (s.setResult r x).rings.lastServed = s.rings.lastServed := rfl
@[simp] theorem State.setResult_status (r : RingId) (x : Option ResultRing) :
    (s.setResult r x).rings.status = s.rings.status := rfl
@[simp] theorem State.setResult_admin (r : RingId) (x : Option ResultRing) : (s.setResult r x).admin = s.admin := rfl
@[simp] theorem State.setResult_probes (r : RingId) (x : Option ResultRing) :
    (s.setResult r x).probes = s.probes := rfl
@[simp] theorem State.setResult_faults (r : RingId) (x : Option ResultRing) :
    (s.setResult r x).faults = s.faults := rfl
@[simp] theorem State.setResult_now (r : RingId) (x : Option ResultRing) : (s.setResult r x).now = s.now := rfl
@[simp] theorem State.setResult_pending (r : RingId) (x : Option ResultRing) :
    (s.setResult r x).pending = s.pending := rfl

/-! ### setLastServed -/

@[simp] theorem State.setLastServed_link (r : RingId) : (s.setLastServed r).link = s.link := rfl
@[simp] theorem State.setLastServed_regs (r : RingId) : (s.setLastServed r).regs = s.regs := rfl
@[simp] theorem State.setLastServed_resetPhase (r : RingId) : (s.setLastServed r).resetPhase = s.resetPhase := rfl
@[simp] theorem State.setLastServed_regions (r : RingId) : (s.setLastServed r).regions = s.regions := rfl
@[simp] theorem State.setLastServed_contexts (r : RingId) : (s.setLastServed r).contexts = s.contexts := rfl
@[simp] theorem State.setLastServed_cache (r : RingId) : (s.setLastServed r).cache = s.cache := rfl
@[simp] theorem State.setLastServed_store (r : RingId) : (s.setLastServed r).store = s.store := rfl
@[simp] theorem State.setLastServed_work (r : RingId) : (s.setLastServed r).rings.work = s.rings.work := rfl
@[simp] theorem State.setLastServed_results (r : RingId) : (s.setLastServed r).rings.results = s.rings.results := rfl
@[simp] theorem State.setLastServed_lastServed (r : RingId) : (s.setLastServed r).rings.lastServed = r := rfl
@[simp] theorem State.setLastServed_status (r : RingId) : (s.setLastServed r).rings.status = s.rings.status := rfl
@[simp] theorem State.setLastServed_admin (r : RingId) : (s.setLastServed r).admin = s.admin := rfl
@[simp] theorem State.setLastServed_probes (r : RingId) : (s.setLastServed r).probes = s.probes := rfl
@[simp] theorem State.setLastServed_faults (r : RingId) : (s.setLastServed r).faults = s.faults := rfl
@[simp] theorem State.setLastServed_now (r : RingId) : (s.setLastServed r).now = s.now := rfl
@[simp] theorem State.setLastServed_pending (r : RingId) : (s.setLastServed r).pending = s.pending := rfl

/-! ### setStatus -/

@[simp] theorem State.setStatus_link (e : Fin 16) (x : StatusWrite) : (s.setStatus e x).link = s.link := rfl
@[simp] theorem State.setStatus_regs (e : Fin 16) (x : StatusWrite) : (s.setStatus e x).regs = s.regs := rfl
@[simp] theorem State.setStatus_resetPhase (e : Fin 16) (x : StatusWrite) :
    (s.setStatus e x).resetPhase = s.resetPhase := rfl
@[simp] theorem State.setStatus_regions (e : Fin 16) (x : StatusWrite) : (s.setStatus e x).regions = s.regions := rfl
@[simp] theorem State.setStatus_contexts (e : Fin 16) (x : StatusWrite) :
    (s.setStatus e x).contexts = s.contexts := rfl
@[simp] theorem State.setStatus_cache (e : Fin 16) (x : StatusWrite) : (s.setStatus e x).cache = s.cache := rfl
@[simp] theorem State.setStatus_store (e : Fin 16) (x : StatusWrite) : (s.setStatus e x).store = s.store := rfl
@[simp] theorem State.setStatus_work (e : Fin 16) (x : StatusWrite) :
    (s.setStatus e x).rings.work = s.rings.work := rfl
@[simp] theorem State.setStatus_results (e : Fin 16) (x : StatusWrite) :
    (s.setStatus e x).rings.results = s.rings.results := rfl
@[simp] theorem State.setStatus_lastServed (e : Fin 16) (x : StatusWrite) :
    (s.setStatus e x).rings.lastServed = s.rings.lastServed := rfl
@[simp] theorem State.setStatus_status (e : Fin 16) (x : StatusWrite) :
    (s.setStatus e x).rings.status = s.rings.status.set e x := rfl
@[simp] theorem State.setStatus_admin (e : Fin 16) (x : StatusWrite) : (s.setStatus e x).admin = s.admin := rfl
@[simp] theorem State.setStatus_probes (e : Fin 16) (x : StatusWrite) : (s.setStatus e x).probes = s.probes := rfl
@[simp] theorem State.setStatus_faults (e : Fin 16) (x : StatusWrite) : (s.setStatus e x).faults = s.faults := rfl
@[simp] theorem State.setStatus_now (e : Fin 16) (x : StatusWrite) : (s.setStatus e x).now = s.now := rfl
@[simp] theorem State.setStatus_pending (e : Fin 16) (x : StatusWrite) : (s.setStatus e x).pending = s.pending := rfl

/-! ### setAdmin -/

@[simp] theorem State.setAdmin_link (x : Admin) : (s.setAdmin x).link = s.link := rfl
@[simp] theorem State.setAdmin_regs (x : Admin) : (s.setAdmin x).regs = s.regs := rfl
@[simp] theorem State.setAdmin_resetPhase (x : Admin) : (s.setAdmin x).resetPhase = s.resetPhase := rfl
@[simp] theorem State.setAdmin_regions (x : Admin) : (s.setAdmin x).regions = s.regions := rfl
@[simp] theorem State.setAdmin_contexts (x : Admin) : (s.setAdmin x).contexts = s.contexts := rfl
@[simp] theorem State.setAdmin_cache (x : Admin) : (s.setAdmin x).cache = s.cache := rfl
@[simp] theorem State.setAdmin_store (x : Admin) : (s.setAdmin x).store = s.store := rfl
@[simp] theorem State.setAdmin_rings (x : Admin) : (s.setAdmin x).rings = s.rings := rfl
@[simp] theorem State.setAdmin_admin (x : Admin) : (s.setAdmin x).admin = x := rfl
@[simp] theorem State.setAdmin_probes (x : Admin) : (s.setAdmin x).probes = s.probes := rfl
@[simp] theorem State.setAdmin_faults (x : Admin) : (s.setAdmin x).faults = s.faults := rfl
@[simp] theorem State.setAdmin_now (x : Admin) : (s.setAdmin x).now = s.now := rfl
@[simp] theorem State.setAdmin_pending (x : Admin) : (s.setAdmin x).pending = s.pending := rfl

/-! ### setAdminPhase -/

@[simp] theorem State.setAdminPhase_link (x : AdminPhase) : (s.setAdminPhase x).link = s.link := rfl
@[simp] theorem State.setAdminPhase_regs (x : AdminPhase) : (s.setAdminPhase x).regs = s.regs := rfl
@[simp] theorem State.setAdminPhase_resetPhase (x : AdminPhase) : (s.setAdminPhase x).resetPhase = s.resetPhase := rfl
@[simp] theorem State.setAdminPhase_regions (x : AdminPhase) : (s.setAdminPhase x).regions = s.regions := rfl
@[simp] theorem State.setAdminPhase_contexts (x : AdminPhase) : (s.setAdminPhase x).contexts = s.contexts := rfl
@[simp] theorem State.setAdminPhase_cache (x : AdminPhase) : (s.setAdminPhase x).cache = s.cache := rfl
@[simp] theorem State.setAdminPhase_store (x : AdminPhase) : (s.setAdminPhase x).store = s.store := rfl
@[simp] theorem State.setAdminPhase_rings (x : AdminPhase) : (s.setAdminPhase x).rings = s.rings := rfl
@[simp] theorem State.setAdminPhase_phase (x : AdminPhase) : (s.setAdminPhase x).admin.phase = x := rfl
@[simp] theorem State.setAdminPhase_admin_rings (x : AdminPhase) :
    (s.setAdminPhase x).admin.rings = s.admin.rings := rfl
@[simp] theorem State.setAdminPhase_notices (x : AdminPhase) :
    (s.setAdminPhase x).admin.notices = s.admin.notices := rfl
@[simp] theorem State.setAdminPhase_probes (x : AdminPhase) : (s.setAdminPhase x).probes = s.probes := rfl
@[simp] theorem State.setAdminPhase_faults (x : AdminPhase) : (s.setAdminPhase x).faults = s.faults := rfl
@[simp] theorem State.setAdminPhase_now (x : AdminPhase) : (s.setAdminPhase x).now = s.now := rfl
@[simp] theorem State.setAdminPhase_pending (x : AdminPhase) : (s.setAdminPhase x).pending = s.pending := rfl

/-! ### setAdminRings -/

@[simp] theorem State.setAdminRings_link (x : Option AdminRings) : (s.setAdminRings x).link = s.link := rfl
@[simp] theorem State.setAdminRings_regs (x : Option AdminRings) : (s.setAdminRings x).regs = s.regs := rfl
@[simp] theorem State.setAdminRings_resetPhase (x : Option AdminRings) :
    (s.setAdminRings x).resetPhase = s.resetPhase := rfl
@[simp] theorem State.setAdminRings_regions (x : Option AdminRings) : (s.setAdminRings x).regions = s.regions := rfl
@[simp] theorem State.setAdminRings_contexts (x : Option AdminRings) :
    (s.setAdminRings x).contexts = s.contexts := rfl
@[simp] theorem State.setAdminRings_cache (x : Option AdminRings) : (s.setAdminRings x).cache = s.cache := rfl
@[simp] theorem State.setAdminRings_store (x : Option AdminRings) : (s.setAdminRings x).store = s.store := rfl
@[simp] theorem State.setAdminRings_rings (x : Option AdminRings) : (s.setAdminRings x).rings = s.rings := rfl
@[simp] theorem State.setAdminRings_phase (x : Option AdminRings) :
    (s.setAdminRings x).admin.phase = s.admin.phase := rfl
@[simp] theorem State.setAdminRings_admin_rings (x : Option AdminRings) : (s.setAdminRings x).admin.rings = x := rfl
@[simp] theorem State.setAdminRings_notices (x : Option AdminRings) :
    (s.setAdminRings x).admin.notices = s.admin.notices := rfl
@[simp] theorem State.setAdminRings_probes (x : Option AdminRings) : (s.setAdminRings x).probes = s.probes := rfl
@[simp] theorem State.setAdminRings_faults (x : Option AdminRings) : (s.setAdminRings x).faults = s.faults := rfl
@[simp] theorem State.setAdminRings_now (x : Option AdminRings) : (s.setAdminRings x).now = s.now := rfl
@[simp] theorem State.setAdminRings_pending (x : Option AdminRings) : (s.setAdminRings x).pending = s.pending := rfl

/-! ### setNotices -/

@[simp] theorem State.setNotices_link (x : List PendingNotice) : (s.setNotices x).link = s.link := rfl
@[simp] theorem State.setNotices_regs (x : List PendingNotice) : (s.setNotices x).regs = s.regs := rfl
@[simp] theorem State.setNotices_resetPhase (x : List PendingNotice) :
    (s.setNotices x).resetPhase = s.resetPhase := rfl
@[simp] theorem State.setNotices_regions (x : List PendingNotice) : (s.setNotices x).regions = s.regions := rfl
@[simp] theorem State.setNotices_contexts (x : List PendingNotice) : (s.setNotices x).contexts = s.contexts := rfl
@[simp] theorem State.setNotices_cache (x : List PendingNotice) : (s.setNotices x).cache = s.cache := rfl
@[simp] theorem State.setNotices_store (x : List PendingNotice) : (s.setNotices x).store = s.store := rfl
@[simp] theorem State.setNotices_rings (x : List PendingNotice) : (s.setNotices x).rings = s.rings := rfl
@[simp] theorem State.setNotices_phase (x : List PendingNotice) : (s.setNotices x).admin.phase = s.admin.phase := rfl
@[simp] theorem State.setNotices_admin_rings (x : List PendingNotice) :
    (s.setNotices x).admin.rings = s.admin.rings := rfl
@[simp] theorem State.setNotices_notices (x : List PendingNotice) : (s.setNotices x).admin.notices = x := rfl
@[simp] theorem State.setNotices_probes (x : List PendingNotice) : (s.setNotices x).probes = s.probes := rfl
@[simp] theorem State.setNotices_faults (x : List PendingNotice) : (s.setNotices x).faults = s.faults := rfl
@[simp] theorem State.setNotices_now (x : List PendingNotice) : (s.setNotices x).now = s.now := rfl
@[simp] theorem State.setNotices_pending (x : List PendingNotice) : (s.setNotices x).pending = s.pending := rfl

/-! ### setProbe -/

@[simp] theorem State.setProbe_link (p : ProbeId) (x : Probe) : (s.setProbe p x).link = s.link := rfl
@[simp] theorem State.setProbe_regs (p : ProbeId) (x : Probe) : (s.setProbe p x).regs = s.regs := rfl
@[simp] theorem State.setProbe_resetPhase (p : ProbeId) (x : Probe) :
    (s.setProbe p x).resetPhase = s.resetPhase := rfl
@[simp] theorem State.setProbe_regions (p : ProbeId) (x : Probe) : (s.setProbe p x).regions = s.regions := rfl
@[simp] theorem State.setProbe_contexts (p : ProbeId) (x : Probe) : (s.setProbe p x).contexts = s.contexts := rfl
@[simp] theorem State.setProbe_cache (p : ProbeId) (x : Probe) : (s.setProbe p x).cache = s.cache := rfl
@[simp] theorem State.setProbe_store (p : ProbeId) (x : Probe) : (s.setProbe p x).store = s.store := rfl
@[simp] theorem State.setProbe_rings (p : ProbeId) (x : Probe) : (s.setProbe p x).rings = s.rings := rfl
@[simp] theorem State.setProbe_admin (p : ProbeId) (x : Probe) : (s.setProbe p x).admin = s.admin := rfl
@[simp] theorem State.setProbe_probes (p : ProbeId) (x : Probe) : (s.setProbe p x).probes = s.probes.set p x := rfl
@[simp] theorem State.setProbe_faults (p : ProbeId) (x : Probe) : (s.setProbe p x).faults = s.faults := rfl
@[simp] theorem State.setProbe_now (p : ProbeId) (x : Probe) : (s.setProbe p x).now = s.now := rfl
@[simp] theorem State.setProbe_pending (p : ProbeId) (x : Probe) : (s.setProbe p x).pending = s.pending := rfl

/-! ### setProbes -/

@[simp] theorem State.setProbes_link (x : Vector Probe 4) : (s.setProbes x).link = s.link := rfl
@[simp] theorem State.setProbes_regs (x : Vector Probe 4) : (s.setProbes x).regs = s.regs := rfl
@[simp] theorem State.setProbes_resetPhase (x : Vector Probe 4) : (s.setProbes x).resetPhase = s.resetPhase := rfl
@[simp] theorem State.setProbes_regions (x : Vector Probe 4) : (s.setProbes x).regions = s.regions := rfl
@[simp] theorem State.setProbes_contexts (x : Vector Probe 4) : (s.setProbes x).contexts = s.contexts := rfl
@[simp] theorem State.setProbes_cache (x : Vector Probe 4) : (s.setProbes x).cache = s.cache := rfl
@[simp] theorem State.setProbes_store (x : Vector Probe 4) : (s.setProbes x).store = s.store := rfl
@[simp] theorem State.setProbes_rings (x : Vector Probe 4) : (s.setProbes x).rings = s.rings := rfl
@[simp] theorem State.setProbes_admin (x : Vector Probe 4) : (s.setProbes x).admin = s.admin := rfl
@[simp] theorem State.setProbes_probes (x : Vector Probe 4) : (s.setProbes x).probes = x := rfl
@[simp] theorem State.setProbes_faults (x : Vector Probe 4) : (s.setProbes x).faults = s.faults := rfl
@[simp] theorem State.setProbes_now (x : Vector Probe 4) : (s.setProbes x).now = s.now := rfl
@[simp] theorem State.setProbes_pending (x : Vector Probe 4) : (s.setProbes x).pending = s.pending := rfl

/-! ### setFaults -/

@[simp] theorem State.setFaults_link (x : FaultUnit) : (s.setFaults x).link = s.link := rfl
@[simp] theorem State.setFaults_regs (x : FaultUnit) : (s.setFaults x).regs = s.regs := rfl
@[simp] theorem State.setFaults_resetPhase (x : FaultUnit) : (s.setFaults x).resetPhase = s.resetPhase := rfl
@[simp] theorem State.setFaults_regions (x : FaultUnit) : (s.setFaults x).regions = s.regions := rfl
@[simp] theorem State.setFaults_contexts (x : FaultUnit) : (s.setFaults x).contexts = s.contexts := rfl
@[simp] theorem State.setFaults_cache (x : FaultUnit) : (s.setFaults x).cache = s.cache := rfl
@[simp] theorem State.setFaults_store (x : FaultUnit) : (s.setFaults x).store = s.store := rfl
@[simp] theorem State.setFaults_rings (x : FaultUnit) : (s.setFaults x).rings = s.rings := rfl
@[simp] theorem State.setFaults_admin (x : FaultUnit) : (s.setFaults x).admin = s.admin := rfl
@[simp] theorem State.setFaults_probes (x : FaultUnit) : (s.setFaults x).probes = s.probes := rfl
@[simp] theorem State.setFaults_faults (x : FaultUnit) : (s.setFaults x).faults = x := rfl
@[simp] theorem State.setFaults_now (x : FaultUnit) : (s.setFaults x).now = s.now := rfl
@[simp] theorem State.setFaults_pending (x : FaultUnit) : (s.setFaults x).pending = s.pending := rfl

end Sys2Proof.Machine
end

