-- ==== Sys2Proof/Laws/Reaction.lean ====
section
/-! SUPPORT. What the operations that run inside an event can do. Each of them is a reaction: it leaves the kept fields
alone, it loses no fault that is recorded, and it breaks no invariant. -/

namespace Sys2Proof.Machine

theorem getElem_set_fin {α : Type} {n : Nat} (v : Vector α n) (i j : Fin n) (x : α) :
    (v.set i x)[j] = if j = i then x else v[j] := by
  simp only [Fin.getElem_fin, Vector.getElem_set]
  by_cases h : i = j
  · subst h; simp
  · rw [if_neg (fun hv => h (Fin.ext hv)), if_neg (fun hv => h hv.symm)]

/-! ## The kept fields -/

/-- The fields that no reaction within an event changes. -/
structure Kept where
  regs : Registers
  resetPhase : ResetPhase
  size : Nat
  dram : Memory
  check : Memory
  errors : List (Nat × WordErrors)
  poison : List Nat
  powerOns : Nat
  ageLimit : Nat
  lastServed : RingId
  adminPhase : AdminPhase
  probes : Vector Probe 4
  policies : Vector Policy 13
  now : Nat
  pending : List Instr

/-- The kept fields of a state. -/
def State.kept (s : State) : Kept :=
  { regs := s.regs, resetPhase := s.resetPhase, size := s.store.size, dram := s.store.dram, check := s.store.check,
    errors := s.store.errors, poison := s.store.poison, powerOns := s.store.powerOns, ageLimit := s.cache.ageLimit,
    lastServed := s.rings.lastServed, adminPhase := s.admin.phase, probes := s.probes,
    policies := s.faults.policies, now := s.now, pending := s.pending }

/-- A transfer whatever its issuer's interest in it. -/
def Transfer.bare (x : Transfer) : Transfer := { x with heeded := false }

/-- The link forgets no transfer. -/
def LinkGrows (a b : Link) : Prop :=
  a.next ≤ b.next ∧ ∀ x ∈ a.transfers, ∃ y ∈ b.transfers, y.bare = x.bare

/-- What an operation within an event leaves alone, keeps and forgets nothing of. -/
structure Calm (s t : State) : Prop where
  kept : t.kept = s.kept
  capture : s.faults.capture ≠ none → t.faults.capture = s.faults.capture
  seen : s.faults.seen ||| t.faults.seen = t.faults.seen
  fails : s.faults.failed = true → t.faults.failed = true
  regions : ∀ n : RegionId, t.regions[n] = s.regions[n] ∨ t.regions[n] = Region.cleared
  notices : NoticesProper s → NoticesProper t
  slots : SlotsDistinct s → SlotsDistinct t
  apart : PoisonApart s → PoisonApart t
  bounded : InFlightBounded s → InFlightBounded t
  link : LinkGrows s.link t.link
  linked : LinkOrdered s → LinkOrdered t
  recent : RecencyProper s → RecencyProper t

/-- What a reaction within an event can do. -/
structure Reaction (s t : State) : Prop extends Calm s t where
  quiet : FailedQuiet s → FailedQuiet t

theorem LinkGrows.refl (a : Link) : LinkGrows a a := ⟨le_refl _, fun x hx => ⟨x, hx, rfl⟩⟩

theorem LinkGrows.trans {a b c : Link} (h : LinkGrows a b) (h' : LinkGrows b c) : LinkGrows a c := by
  refine ⟨h.1.trans h'.1, fun x hx => ?_⟩
  obtain ⟨y, hy, e⟩ := h.2 x hx
  obtain ⟨z, hz, e'⟩ := h'.2 y hy
  exact ⟨z, hz, e'.trans e⟩

theorem Calm.refl (s : State) : Calm s s :=
  ⟨rfl, fun _ => rfl, by simp, id, fun _ => .inl rfl, id, id, id, id, .refl _, id, id⟩

theorem Calm.trans {s t u : State} (h : Calm s t) (h' : Calm t u) : Calm s u where
  kept := h'.kept.trans h.kept
  capture hc := (h'.capture (by rw [h.capture hc]; exact hc)).trans (h.capture hc)
  seen := by rw [← h'.seen, ← BitVec.or_assoc, h.seen]
  fails := h'.fails ∘ h.fails
  regions n := by
    rcases h'.regions n with e | e
    · rw [e]; exact h.regions n
    · exact .inr e
  notices := h'.notices ∘ h.notices
  slots := h'.slots ∘ h.slots
  apart := h'.apart ∘ h.apart
  bounded := h'.bounded ∘ h.bounded
  link := h.link.trans h'.link
  linked := h'.linked ∘ h.linked
  recent := h'.recent ∘ h.recent

theorem Reaction.refl (s : State) : Reaction s s := ⟨.refl s, id⟩

theorem Reaction.trans {s t u : State} (h : Reaction s t) (h' : Reaction t u) : Reaction s u :=
  ⟨h.toCalm.trans h'.toCalm, h'.quiet ∘ h.quiet⟩

theorem Reaction.of_eq {s t : State} (h : t = s) : Reaction s t := h ▸ .refl s

/-- A chain of reactions over a list. -/
theorem Reaction.foldl {α : Type} {f : State → α → State} (h : ∀ s a, Reaction s (f s a)) (l : List α) (s : State) :
    Reaction s (l.foldl f s) := by
  induction l generalizing s with
  | nil => exact .refl s
  | cons a l ih => exact (h s a).trans (ih (f s a))

/-! ## Field updates that are reactions -/

variable {s : State}

theorem reaction_setStatus (e : Fin 16) (x : StatusWrite) : Reaction s (s.setStatus e x) :=
  ⟨⟨rfl, fun _ => rfl, by simp, id, fun _ => .inl rfl, id, id, id, id, .refl _, id, id⟩, id⟩

theorem reaction_setAdminRings (x : Option AdminRings) : Reaction s (s.setAdminRings x) :=
  ⟨⟨rfl, fun _ => rfl, by simp, id, fun _ => .inl rfl, id, id, id, id, .refl _, id, id⟩, id⟩

theorem reaction_setLink {l : Link} (h : LinkGrows s.link l)
    (ho : LinkOrdered s → LinkOrdered { s with link := l }) : Reaction s { s with link := l } :=
  ⟨⟨rfl, fun _ => rfl, by simp, id, fun _ => .inl rfl, id, id, id, id, h, ho, id⟩, id⟩

theorem reaction_setNotices {x : List PendingNotice}
    (h : NoticesProper s → NoticesProper (s.setNotices x)) : Reaction s (s.setNotices x) :=
  ⟨⟨rfl, fun _ => rfl, by simp, id, fun _ => .inl rfl, h, id, id, id, .refl _, id, id⟩, id⟩

theorem reaction_setRegionCleared (n : RegionId) : Reaction s (s.setRegion n Region.cleared) :=
  ⟨⟨rfl, fun _ => rfl, by simp, id,
    fun m => by simp only [State.setRegion_regions, getElem_set_fin]; split <;> simp, id, id, id, id, .refl _, id, id⟩, id⟩

theorem reaction_setRequests {x : List CtxId} (h : s.cache.requests = [] → x = []) : Reaction s (s.setRequests x) :=
  ⟨⟨rfl, fun _ => rfl, by simp, id, fun _ => .inl rfl, id, id, id, id, .refl _, id, id⟩,
    fun q hf => ⟨(q hf).1, h (q hf).2.1, (q hf).2.2⟩⟩

/-- A context that is taken out of use, or one in use that goes on. -/
theorem reaction_setContext (c : CtxId) {x : Option Context} (h : s.contexts[c] = none → x = none) :
    Reaction s (s.setContext c x) :=
  ⟨⟨rfl, fun _ => rfl, by simp, id, fun _ => .inl rfl, id, id, id, id, .refl _, id, id⟩,
    fun q hf => ⟨fun d => by
      simp only [State.setContext_contexts, getElem_set_fin]
      split
      · exact h ((q hf).1 c)
      · exact (q hf).1 d, (q hf).2⟩⟩

theorem reaction_setWork (r : RingId) {x : Option WorkRing}
    (hq : s.faults.failed = true → notDeleting s.rings.work[r] = true → notDeleting x = true)
    (hb : withinLimit s.rings.work[r] = true → withinLimit x = true) : Reaction s (s.setWork r x) :=
  ⟨⟨rfl, fun _ => rfl, by simp, id, fun _ => .inl rfl, id, id, id,
    fun b d => by
      simp only [State.setWork_work, getElem_set_fin]
      split
      · exact hb (b r)
      · exact b d, .refl _, id, id⟩,
    fun q hf => ⟨(q hf).1, (q hf).2.1, fun d => by
      simp only [State.setWork_work, getElem_set_fin]
      split
      · exact hq hf ((q hf).2.2.1 r)
      · exact (q hf).2.2.1 d, (q hf).2.2.2⟩⟩

theorem reaction_setResult (r : RingId) {x : Option ResultRing}
    (hq : s.faults.failed = true → notTiming s.rings.results[r] = true → notTiming x = true) :
    Reaction s (s.setResult r x) :=
  ⟨⟨rfl, fun _ => rfl, by simp, id, fun _ => .inl rfl, id, id, id, id, .refl _, id, id⟩,
    fun q hf => ⟨(q hf).1, (q hf).2.1, (q hf).2.2.1, fun d => by
      simp only [State.setResult_results, getElem_set_fin]
      split
      · exact hq hf ((q hf).2.2.2 r)
      · exact (q hf).2.2.2 d⟩⟩

theorem slotRecord_setSlot (k k' : SlotId) (x : Option Slot) :
    slotRecord (s.setSlot k x) k' = if k' = k then x.map Slot.record else slotRecord s k' := by
  simp only [slotRecord, State.setSlot_slots, getElem_set_fin]; split <;> rfl

/-- What an operation within an event can do to a slot that it neither gives to a new record nor evicts: it frees an
AWAITING_STORE slot, or keeps the record, and what kind of state the slot is in. -/
def SlotKept (a b : Option Slot) : Prop :=
  (b = none ∧ ∀ y, a = some y → y.phase = .awaitingStore) ∨
    ∃ y y', a = some y ∧ b = some y' ∧ y'.record = y.record ∧ (y.phase = .filling → y'.phase = .filling) ∧
      (y.phase = .awaitingStore → y'.phase = .awaitingStore) ∧ y'.isResident = y.isResident

theorem SlotKept.refl (a : Option Slot) : SlotKept a a := by
  cases a with
  | none => exact .inl ⟨rfl, by simp⟩
  | some y => exact .inr ⟨y, y, rfl, rfl, rfl, id, id, rfl⟩

theorem SlotKept.record {a b : Option Slot} (h : SlotKept a b) :
    b.map Slot.record = none ∨ b.map Slot.record = a.map Slot.record := by
  rcases h with ⟨rfl, _⟩ | ⟨y, y', rfl, rfl, h, _⟩
  · exact .inl rfl
  · exact .inr (congrArg some h)

theorem SlotKept.resident {a b : Option Slot} (h : SlotKept a b) :
    (∃ y, b = some y ∧ y.isResident = true) ↔ ∃ y, a = some y ∧ y.isResident = true := by
  rcases h with ⟨rfl, h⟩ | ⟨y, y', rfl, rfl, _, _, _, h⟩
  · constructor
    · rintro ⟨y, hy, _⟩; exact absurd hy (by simp)
    · rintro ⟨y, hy, hr⟩; simp [Slot.isResident, h y hy] at hr
  · constructor
    · rintro ⟨z, hz, hr⟩
      obtain rfl := Option.some.inj hz
      exact ⟨y, rfl, h ▸ hr⟩
    · rintro ⟨z, hz, hr⟩
      obtain rfl := Option.some.inj hz
      exact ⟨y', rfl, h.trans hr⟩

theorem recency_of_kept {s t : State} (h : ∀ k : SlotId, SlotKept s.cache.slots[k] t.cache.slots[k])
    (hr : t.cache.recency = s.cache.recency) : RecencyProper s → RecencyProper t := fun a =>
  ⟨by rw [hr]; exact a.1, fun k => by rw [hr, (h k).resident]; exact a.2 k⟩

/-- Slots that each keep their record or become FREE stay distinct. -/
theorem slotsDistinct_of_sub {s t : State}
    (h : ∀ k, slotRecord t k = none ∨ slotRecord t k = slotRecord s k) : SlotsDistinct s → SlotsDistinct t := by
  intro d a b ha hab
  have ea := (h a).resolve_left ha
  have eb := (h b).resolve_left (hab ▸ ha)
  exact d a b (ea ▸ ha) (by rw [← ea, ← eb, hab])

/-- Slots each kept, or freed and not FILLING, and no new fill job. -/
theorem apart_of_sub {s t : State} (h : ∀ k : SlotId, SlotKept s.cache.slots[k] t.cache.slots[k] ∨
      (t.cache.slots[k] = none ∧ ∀ y, s.cache.slots[k] = some y → y.phase ≠ .filling))
    (hp : t.store.poison = s.store.poison) (hj : ∀ k n, Job.fill k n ∈ t.store.jobs → Job.fill k n ∈ s.store.jobs) :
    PoisonApart s → PoisonApart t := by
  refine fun a => ⟨fun k y hy hm => ?_, fun k n hm => ?_⟩
  · rcases h k with (⟨e, _⟩ | ⟨x, x', hx, hx', hr, _, hw, _⟩) | ⟨e, _⟩
    · rw [e] at hy; exact absurd hy (by simp)
    · rw [hx'] at hy
      obtain rfl := Option.some.inj hy
      exact hw (a.1 k x hx (by rw [← hr, ← hp]; exact hm))
    · rw [e] at hy; exact absurd hy (by simp)
  · obtain ⟨y, hy, hf, hn⟩ := a.2 k n (hj k n hm)
    rcases h k with (⟨_, e⟩ | ⟨x, x', hx, hx', hr, hf', _⟩) | ⟨_, e⟩
    · have := e y hy
      rw [hf] at this
      exact absurd this (by simp)
    · rw [hx] at hy
      obtain rfl := Option.some.inj hy
      exact ⟨x', hx', hf' hf, hr.trans hn⟩
    · exact absurd hf (e y hy)

theorem apart_of_kept {s t : State} (h : ∀ k : SlotId, SlotKept s.cache.slots[k] t.cache.slots[k])
    (hp : t.store.poison = s.store.poison) (hj : ∀ k n, Job.fill k n ∈ t.store.jobs → Job.fill k n ∈ s.store.jobs) :
    PoisonApart s → PoisonApart t := apart_of_sub (fun k => .inl (h k)) hp hj

/-- Slots each kept. -/
theorem reaction_slots {v : Vector (Option Slot) 64} (h : ∀ k : SlotId, SlotKept s.cache.slots[k] v[k]) :
    Reaction s (s.setCache { s.cache with slots := v }) :=
  ⟨⟨rfl, fun _ => rfl, by simp, id, fun _ => .inl rfl, id, slotsDistinct_of_sub fun k => (h k).record,
    apart_of_kept h rfl fun _ _ => id, id, .refl _, id, recency_of_kept h rfl⟩, id⟩

theorem reaction_setSlot (k : SlotId) {x : Option Slot} (h : SlotKept s.cache.slots[k] x) :
    Reaction s (s.setSlot k x) :=
  reaction_slots (s := s) (v := s.cache.slots.set k x) fun k' => by
    rw [getElem_set_fin]
    split
    · next e => rw [e]; exact h
    · exact .refl _

/-- A slot is freed and leaves the recency order, unless it is FILLING. -/
theorem reaction_freeSlot (k : SlotId) (s : State) (h : ∀ y, s.cache.slots[k] = some y → y.phase ≠ .filling) :
    Reaction s (freeSlot k s) :=
  have hs : ∀ k' : SlotId, (freeSlot k s).cache.slots[k'] = if k' = k then none else s.cache.slots[k'] :=
    fun k' => getElem_set_fin _ _ _ _
  ⟨⟨rfl, fun _ => rfl, by simp [freeSlot], id, fun _ => .inl rfl, id,
    slotsDistinct_of_sub fun k' => by
      unfold slotRecord
      rw [hs]
      split
      · exact .inl rfl
      · exact .inr rfl,
    apart_of_sub (fun k' => by
      rw [hs]
      split
      · next e => exact .inr ⟨rfl, e ▸ h⟩
      · exact .inl (.refl _)) rfl fun _ _ => id,
    id, .refl _, id,
    fun a => ⟨a.1.filter _, fun k' => by
      rw [hs]
      show k' ∈ s.cache.recency.filter (· != k) ↔ _
      rw [List.mem_filter, a.2 k']
      split
      · next e => simp [e]
      · next e => simp [e]⟩⟩, id⟩

/-- A RESIDENT slot becomes the most recently claimed. -/
theorem reaction_mostRecent (k : SlotId) (s : State) (h : ∃ y, s.cache.slots[k] = some y ∧ y.isResident = true) :
    Reaction s (mostRecent k s) :=
  ⟨⟨rfl, fun _ => rfl, by simp [mostRecent], id, fun _ => .inl rfl, id, id, id, id, .refl _, id,
    fun a => ⟨List.nodup_append.2 ⟨a.1.filter _, by simp, fun x hx y hy => by
        rw [List.mem_singleton.1 hy]
        simpa using (List.mem_filter.1 hx).2⟩, fun k' => by
      show k' ∈ s.cache.recency.filter (· != k) ++ [k] ↔ _
      rw [List.mem_append, List.mem_filter, a.2 k', List.mem_singleton]
      by_cases e : k' = k
      · rw [e]; exact ⟨fun _ => h, fun _ => .inr rfl⟩
      · simp only [bne_iff_ne, ne_eq, e, not_false_eq_true, and_true, or_false]
        exact Iff.rfl⟩⟩, id⟩

/-- A FREE slot that receives a record which no slot holds. -/
theorem reaction_setSlotNew (k : SlotId) {x : Slot} (hk : s.cache.slots[k] = none)
    (h : ∀ k', slotRecord s k' ≠ some x.record) (hp : x.phase = .awaitingStore ∨ x.record ∉ s.store.poison)
    (hr : x.isResident = false) : Reaction s (s.setSlot k (some x)) :=
  have hs : ∀ k' : SlotId, (s.setSlot k (some x)).cache.slots[k'] = if k' = k then some x else s.cache.slots[k'] :=
    fun k' => getElem_set_fin _ _ _ _
  ⟨⟨rfl, fun _ => rfl, by simp, id, fun _ => .inl rfl, id,
    fun d a b ha hab => by
      simp only [slotRecord_setSlot, Option.map_some] at ha hab
      by_cases ea : a = k <;> by_cases eb : b = k
      · rw [ea, eb]
      · rw [if_pos ea, if_neg eb] at hab; exact absurd hab.symm (h b)
      · rw [if_neg ea, if_pos eb] at hab; exact absurd hab (h a)
      · rw [if_neg ea] at ha; rw [if_neg ea, if_neg eb] at hab; exact d a b ha hab,
    fun a => ⟨fun k' y hy hm => by
        rw [hs] at hy
        split at hy
        · obtain rfl := Option.some.inj hy
          exact hp.resolve_right fun hn => hn hm
        · exact a.1 k' y hy hm,
      fun k' n hm => by
        obtain ⟨y, hy, hf, hn⟩ := a.2 k' n hm
        have hne : k' ≠ k := fun e => by rw [e, hk] at hy; exact absurd hy (by simp)
        exact ⟨y, by rw [hs, if_neg hne]; exact hy, hf, hn⟩⟩,
    id, .refl _, id,
    fun a => ⟨a.1, fun k' => by
      rw [hs]
      show k' ∈ s.cache.recency ↔ _
      rw [a.2 k']
      split
      · next e => subst e; simp [hk, hr]
      · exact Iff.rfl⟩⟩, id⟩

/-- A job that is no fill is issued. -/
theorem reaction_issueJob (j : Job) (h : ∀ k n, j ≠ .fill k n) : Reaction s (s.setStore (s.store.issueJob j)) :=
  ⟨⟨rfl, fun _ => rfl, by simp, id, fun _ => .inl rfl, id, id,
    apart_of_kept (fun _ => .refl _) rfl fun k n hm => by
      rcases List.mem_append.1 hm with hm | hm
      · exact hm
      · exact absurd (List.mem_singleton.1 hm).symm (h k n), id, .refl _, id, id⟩, id⟩

/-- The fill of a FILLING slot's record is issued. -/
theorem reaction_issueFill (k : SlotId) {y : Slot} (hy : s.cache.slots[k] = some y) (hf : y.phase = .filling) :
    Reaction s (s.setStore (s.store.issueJob (.fill k y.record))) :=
  ⟨⟨rfl, fun _ => rfl, by simp, id, fun _ => .inl rfl, id, id,
    fun a => ⟨a.1, fun k' n hm => by
      rcases List.mem_append.1 hm with hm | hm
      · exact a.2 k' n hm
      · have e := List.mem_singleton.1 hm
        injection e with e1 e2
        subst e1 e2
        exact ⟨y, hy, hf, rfl⟩⟩, id, .refl _, id, id⟩, id⟩

theorem reaction_setFaults {x : FaultUnit} (hp : x.policies = s.faults.policies)
    (hc : s.faults.capture ≠ none → x.capture = s.faults.capture) (hs : s.faults.seen ||| x.seen = x.seen)
    (hf : x.failed = s.faults.failed) : Reaction s (s.setFaults x) :=
  ⟨⟨by simp [State.kept, hp], hc, hs, fun h => hf.trans h, fun _ => .inl rfl, id, id, id, id, .refl _, id, id⟩,
    fun q h => q (hf.symm.trans h)⟩

end Sys2Proof.Machine
end

