-- ==== Sys2Proof/Laws/Ops.lean ====
section
/-! SUPPORT. Every operation of Machine/Ops.lean that runs inside an event is a reaction. -/

namespace Sys2Proof.Machine

variable {s : State}

/-! ## The link -/

theorem reaction_issueTransfer (kind : TransferKind) (addr : HostAddr) (length : Nat) (body : List Byte) (s : State) :
    Reaction s (issueTransfer kind addr length body s) :=
  reaction_setLink ⟨by simp, fun x hx => ⟨x, by simp [hx], rfl⟩⟩ fun h => by
    refine ⟨?_, fun x hx => ?_⟩
    · show (List.map Transfer.xfer (_ ++ _)).Pairwise (· < ·)
      rw [List.map_append, List.pairwise_append]
      refine ⟨h.1, by simp, fun a ha b hb => ?_⟩
      obtain ⟨x, hx, rfl⟩ := List.mem_map.1 ha
      rw [List.map_cons, List.map_nil, List.mem_singleton] at hb
      rw [hb]
      exact h.2 x hx
    · rcases List.mem_append.1 hx with hx | hx
      · exact Nat.lt_succ_of_lt (h.2 x hx)
      · rw [List.mem_singleton.1 hx]
        exact Nat.lt_succ_self _

theorem reaction_issueWrite (kind : TransferKind) (addr : HostAddr) (body : List Byte) (s : State) :
    Reaction s (issueWrite kind addr body s) := reaction_issueTransfer _ _ _ _ s

theorem reaction_issueRead (kind : TransferKind) (addr : HostAddr) (length : Nat) (s : State) :
    Reaction s (issueRead kind addr length s) := reaction_issueTransfer _ _ _ _ s

theorem reaction_unheed (p : TransferKind → Bool) (s : State) : Reaction s (unheed p s) :=
  reaction_setLink ⟨le_refl _, fun x hx =>
    ⟨if p x.kind then { x with heeded := false } else x, List.mem_map_of_mem hx, by
      split <;> rfl⟩⟩ fun h => by
    refine ⟨?_, fun x hx => ?_⟩
    · show (List.map Transfer.xfer (List.map _ _)).Pairwise (· < ·)
      rw [List.map_map]
      rw [show (Transfer.xfer ∘ fun x : Transfer => if p x.kind then { x with heeded := false } else x) = Transfer.xfer
        from funext fun x => by simp only [Function.comp]; split <;> rfl]
      exact h.1
    · obtain ⟨y, hy, rfl⟩ := List.mem_map.1 hx
      have := h.2 y hy
      dsimp only at this ⊢
      split <;> exact this

/-! ## The status block and the admin result ring -/

theorem reaction_issueStatus (e : Fin 16) (index : Nat) (s : State) : Reaction s (issueStatus e index s) :=
  (reaction_issueWrite _ _ _ s).trans (reaction_setStatus e _)

theorem reaction_writeStatus (e : Fin 16) (index : Nat) (s : State) : Reaction s (writeStatus e index s) := by
  unfold writeStatus
  split
  · exact reaction_issueStatus e index s
  · exact reaction_setStatus e _

theorem reaction_endStatusWrite (e : Fin 16) (s : State) : Reaction s (endStatusWrite e s) := by
  unfold endStatusWrite
  split
  · exact .refl s
  · exact reaction_setStatus e _
  · exact reaction_issueStatus e _ s

theorem reaction_postAdmin (body : List Byte) (kind : Byte) (s : State) : Reaction s (postAdmin body kind s) := by
  unfold postAdmin
  split
  · exact .refl s
  · exact (reaction_issueWrite _ _ _ s).trans (reaction_setAdminRings _)

@[simp] theorem postAdmin_notices (body : List Byte) (kind : Byte) (s : State) :
    (postAdmin body kind s).admin.notices = s.admin.notices := by
  unfold postAdmin; split <;> rfl

/-- A notice that joins a proper list leaves it proper (R160). -/
theorem joinNotice_proper (n : Notice) (l : List PendingNotice)
    (h : (l.map PendingNotice.notice).Nodup ∧ ∀ p ∈ l, 1 ≤ p.repeats ∧ p.repeats ≤ Config.repeatLimit) :
    ((joinNotice n l).map PendingNotice.notice).Nodup ∧
      ∀ p ∈ joinNotice n l, 1 ≤ p.repeats ∧ p.repeats ≤ Config.repeatLimit := by
  unfold joinNotice
  split
  · constructor
    · have : (l.map fun p => if p.notice == n then
          { p with repeats := min (p.repeats + 1) Config.repeatLimit } else p).map PendingNotice.notice =
          l.map PendingNotice.notice := by
        rw [List.map_map]
        exact List.map_congr_left fun p _ => by simp only [Function.comp]; split <;> rfl
      rw [this]; exact h.1
    · intro p hp
      obtain ⟨q, hq, rfl⟩ := List.mem_map.1 hp
      have := h.2 q hq
      split
      · simp only [Config.repeatLimit] at *; omega
      · exact this
  · next hn =>
    constructor
    · rw [List.map_append, List.nodup_append]
      refine ⟨h.1, by simp, fun a ha b hb => ?_⟩
      simp only [List.map_cons, List.map_nil, List.mem_singleton] at hb
      obtain ⟨q, hq, rfl⟩ := List.mem_map.1 ha
      rintro rfl
      exact hn (List.any_eq_true.2 ⟨q, hq, by simpa using hb⟩)
    · intro p hp
      rcases List.mem_append.1 hp with hp | hp
      · exact h.2 p hp
      · rw [List.mem_singleton.1 hp]; simp [Config.repeatLimit]

theorem reaction_joinNotice (n : Notice) (s : State) :
    Reaction s (s.setNotices (joinNotice n s.admin.notices)) :=
  reaction_setNotices fun h => joinNotice_proper n _ h

theorem reaction_raiseNotice (n : Notice) (s : State) : Reaction s (raiseNotice n s) := by
  unfold raiseNotice
  split
  · exact reaction_postAdmin _ _ s
  · exact reaction_joinNotice n s

theorem reaction_setNoticesSuffix {l : List PendingNotice} (h : l <:+ s.admin.notices) :
    Reaction s (s.setNotices l) :=
  reaction_setNotices fun hp => ⟨(h.sublist.map _).nodup hp.1, fun p hm => hp.2 p (h.subset hm)⟩

theorem reaction_postPendingList (l : List PendingNotice) (s : State) (h : l <:+ s.admin.notices) :
    Reaction s (postPendingList l s) := by
  induction l generalizing s with
  | nil => exact reaction_setNoticesSuffix h
  | cons p rest ih =>
    unfold postPendingList
    split
    · exact (reaction_postAdmin _ _ s).trans (ih _ (by simpa using (List.suffix_cons p rest).trans h))
    · exact reaction_setNoticesSuffix h

theorem reaction_postPending (s : State) : Reaction s (postPending s) :=
  reaction_postPendingList _ s List.suffix_rfl

theorem reaction_adminMessage (first : Nat) (s : State) : Reaction s (adminMessage first s) := by
  unfold adminMessage
  split
  · exact reaction_issueWrite _ _ _ s
  · exact .refl s

/-! ## Running commands -/

theorem reaction_considerAdminRead (s : State) : Reaction s (considerAdminRead s) := by
  unfold considerAdminRead
  split
  · exact .refl s
  · split
    · exact (reaction_issueRead _ _ _ s).trans (reaction_setAdminRings _)
    · exact .refl s

theorem reaction_setProgress (p : Progress) (s : State) : Reaction s (setProgress p s) := by
  unfold setProgress
  split
  · split
    · exact reaction_setAdminRings _
    · exact .refl s
  · exact .refl s

theorem reaction_passCommand (s : State) : Reaction s (passCommand s) := by
  unfold passCommand
  split
  · exact .refl s
  · exact reaction_setAdminRings _

theorem reaction_finishCommand (body : List Byte) (kind : Byte) (s : State) :
    Reaction s (finishCommand body kind s) :=
  (((reaction_postAdmin body kind s).trans (reaction_passCommand _)).trans (reaction_writeStatus 0 _ _)).trans
    (reaction_considerAdminRead _)

theorem reaction_completeCommand (st : AdminStatus) (value : BitVec 32) (s : State) :
    Reaction s (completeCommand st value s) := by
  unfold completeCommand
  split
  · exact .refl s
  · exact reaction_finishCommand _ _ s

/-! ## Stall states -/

theorem creditBlocked_not_failed {rr : RingId} {q : ResultRing} (h : creditBlocked s rr q = true) :
    s.faults.failed = false := by
  unfold creditBlocked at h
  simp only [Bool.and_eq_true, Bool.not_eq_true'] at h
  exact h.1.1

theorem reaction_stallCheckOne (s : State) (rr : RingId) : Reaction s (stallCheckOne s rr) := by
  unfold stallCheckOne
  split
  · exact .refl s
  · next q hq =>
    split
    · split
      · next hb =>
        exact reaction_setResult rr fun hf => by simp [creditBlocked_not_failed hb] at hf
      · exact .refl s
    · split
      · exact .refl s
      · exact reaction_setResult rr fun _ _ => rfl
    · exact .refl s

theorem reaction_stallCheck (s : State) : Reaction s (stallCheck s) :=
  .foldl reaction_stallCheckOne _ s

/-! ## Deletions -/

theorem reaction_completeDelete (r : RingId) (s : State) : Reaction s (completeDelete r s) := by
  unfold completeDelete
  split
  · split
    · exact reaction_completeCommand _ _ s
    · exact .refl s
  · exact .refl s

theorem reaction_setWorkNone (r : RingId) (s : State) : Reaction s (s.setWork r none) :=
  reaction_setWork r (fun _ _ => rfl) fun _ => rfl

/-- A work ring that keeps its phase and its limit and whose outstanding set does not grow. -/
theorem reaction_setWorkSame (r : RingId) {w w' : WorkRing} (hw : s.rings.work[r] = some w)
    (hp : w'.phase = w.phase) (hl : w'.inFlightLimit = w.inFlightLimit)
    (ho : w'.outstanding.length ≤ w.outstanding.length) : Reaction s (s.setWork r (some w')) :=
  reaction_setWork r (fun _ h => by rw [hw] at h; simpa only [notDeleting, hp] using h)
    (fun h => by rw [hw] at h; simp only [withinLimit, decide_eq_true_eq, hl] at h ⊢; exact ho.trans h)

theorem reaction_deleteCheck (r : RingId) (s : State) : Reaction s (deleteCheck r s) := by
  unfold deleteCheck
  split
  · exact .refl s
  · next w hw =>
    have h : (dropIncomplete w).phase = w.phase ∧ (dropIncomplete w).inFlightLimit = w.inFlightLimit ∧
        (dropIncomplete w).outstanding = w.outstanding := by
      unfold dropIncomplete; split <;> exact ⟨rfl, rfl, rfl⟩
    dsimp only
    split
    · exact (reaction_setWorkNone r s).trans (reaction_completeDelete r _)
    · exact reaction_setWorkSame r hw h.1 h.2.1 (by rw [h.2.2])

theorem reaction_deleteCheckRunning (s : State) : Reaction s (deleteCheckRunning s) := by
  unfold deleteCheckRunning
  split
  · exact reaction_deleteCheck _ s
  · exact .refl s

/-! ## Slots -/

theorem slotRecord_eq {k : SlotId} {x : Slot} (h : s.cache.slots[k] = some x) : slotRecord s k = some x.record := by
  simp only [slotRecord, h, Option.map_some]

theorem reaction_unawait (k : SlotId) (s : State) : Reaction s (unawait k s) := by
  unfold unawait
  split
  · exact reaction_setProgress _ s
  · exact .refl s

/-- A slot that keeps its record, and its state where that is FILLING or AWAITING_STORE. -/
theorem reaction_setSlotSame (k : SlotId) {x x' : Slot} (hx : s.cache.slots[k] = some x)
    (h : x'.record = x.record) (hf : x.phase = .filling → x'.phase = .filling)
    (hw : x.phase = .awaitingStore → x'.phase = .awaitingStore) (hr : x'.isResident = x.isResident) :
    Reaction s (s.setSlot k (some x')) :=
  reaction_setSlot k (.inr ⟨x, x', hx, rfl, h, hf, hw, hr⟩)

/-- A RESIDENT slot that keeps its record. -/
theorem reaction_setResident (k : SlotId) {x x' : Slot} {c : Resident} (hx : s.cache.slots[k] = some x)
    (hc : x.phase = .resident c) (h : x'.record = x.record) (hr : x'.isResident = true) :
    Reaction s (s.setSlot k (some x')) :=
  reaction_setSlotSame k hx h (fun e => by rw [hc] at e; exact absurd e (by simp))
    (fun e => by rw [hc] at e; exact absurd e (by simp)) (by rw [hr]; simp [Slot.isResident, hc])

theorem not_filling_of {y : Slot} {k : SlotId} (hy : s.cache.slots[k] = some y) (h : y.phase ≠ .filling) :
    ∀ z, s.cache.slots[k] = some z → z.phase ≠ .filling := fun z hz => by
  rw [hy] at hz
  rw [← Option.some.inj hz]
  exact h

theorem reaction_issueWriteBack (k : SlotId) (x : Slot) (c c' : Resident) (s : State)
    (hx : s.cache.slots[k] = some x) (hc : x.phase = .resident c') : Reaction s (issueWriteBack k x c s) :=
  Reaction.trans (t := s.setSlot k (some { x with
      phase := .resident { c with dirty := 0, dirtySince := none, writeBack := true } }))
    (reaction_setResident k hx hc rfl rfl) (reaction_issueJob (.writeBack k x.record c.image.lanes c.dirty) (by simp))

theorem not_filling_of_resident {x : Slot} (h : x.isResident = true) : x.phase ≠ .filling := fun e => by
  simp [Slot.isResident, e] at h

@[simp] theorem setProgress_cache (p : Progress) (s : State) : (setProgress p s).cache = s.cache := by
  unfold setProgress
  split
  · split <;> rfl
  · rfl

@[simp] theorem unawait_cache (k : SlotId) (s : State) : (unawait k s).cache = s.cache := by
  unfold unawait
  split <;> simp

theorem reaction_dropUnsound (k : SlotId) (record : Nat) (s : State) : Reaction s (dropUnsound k record s) := by
  unfold dropUnsound
  split
  · next x hx =>
    split
    · next h =>
      exact (reaction_unawait k s).trans (reaction_freeSlot k _
        (not_filling_of (by rw [unawait_cache]; exact hx) (not_filling_of_resident h.2)))
    · exact .refl s
  · exact .refl s

theorem reaction_startWriteBackWith {raise : RaisedFault → State → State} (hr : ∀ f s, Reaction s (raise f s))
    (k : SlotId) (s : State) : Reaction s (startWriteBackWith raise k s) := by
  unfold startWriteBackWith
  split
  · next x hx =>
    split
    · next hc =>
      split
      · exact .refl s
      · split
        · exact reaction_issueWriteBack k x _ _ s hx hc
        · exact (hr _ s).trans (reaction_dropUnsound k _ _)
    · exact .refl s
  · exact .refl s

theorem reaction_releaseSlotWith {raise : RaisedFault → State → State} (hr : ∀ f s, Reaction s (raise f s))
    (k : SlotId) (s : State) : Reaction s (releaseSlotWith raise k s) := by
  unfold releaseSlotWith
  split
  · next x hx =>
    split
    · next hc =>
      split
      · exact .refl s
      · split
        · exact reaction_freeSlot k s (not_filling_of hx (by rw [hc]; simp))
        · exact reaction_startWriteBackWith hr k s
    · exact .refl s
  · exact .refl s

theorem reaction_releaseSlotsWith {raise : RaisedFault → State → State} (hr : ∀ f s, Reaction s (raise f s))
    (p : Slot → Bool) (s : State) : Reaction s (releaseSlotsWith raise p s) :=
  .foldl (fun s k => by
    split
    · split
      · exact reaction_releaseSlotWith hr k s
      · exact .refl s
    · exact .refl s) _ s

/-! ## Retire, flush and reset -/

theorem reaction_retireFinish (s : State) : Reaction s (retireFinish s) := by
  unfold retireFinish
  split
  · split
    · exact .refl s
    · exact (reaction_setRegionCleared _).trans (reaction_completeCommand _ _ _)
  · exact .refl s

theorem reaction_retireCheckWith {raise : RaisedFault → State → State} (hr : ∀ f s, Reaction s (raise f s))
    (s : State) : Reaction s (retireCheckWith raise s) := by
  unfold retireCheckWith
  split
  · split
    · exact .refl s
    · exact ((reaction_setProgress _ s).trans (reaction_releaseSlotsWith hr _ _)).trans (reaction_retireFinish _)
  · exact reaction_retireFinish s
  · exact .refl s

theorem reaction_flushCheck (s : State) : Reaction s (flushCheck s) := by
  unfold flushCheck
  split
  · exact reaction_completeCommand _ _ s
  · exact .refl s

/-- Regions that each stay as they are or become UNDEFINED. -/
theorem reaction_regions {v : Vector Region 16} (h : ∀ n : RegionId, v[n] = s.regions[n] ∨ v[n] = Region.cleared) :
    Reaction s { s with regions := v } :=
  ⟨⟨rfl, fun _ => rfl, by simp, id, h, id, id, id, id, .refl _, id, id⟩, id⟩

theorem getElem_ofFn_fin {α : Type} {n : Nat} (f : Fin n → α) (i : Fin n) : (Vector.ofFn f)[i] = f i := by
  simp only [Fin.getElem_fin, Vector.getElem_ofFn]

theorem reaction_drainingCheck (s : State) : Reaction s (drainingCheck s) := by
  unfold drainingCheck
  split
  · refine reaction_regions fun n => ?_
    rw [getElem_ofFn_fin]
    split
    · exact .inr rfl
    · exact .inl rfl
  · exact .refl s

/-! ## Abandonment -/

theorem abandoned_kept (x : Option Slot) : SlotKept x (x.bind Slot.abandoned) := by
  cases x with
  | none => exact .refl _
  | some y =>
    simp only [Option.bind_some, Slot.abandoned]
    split
    · next h => exact .inl ⟨rfl, fun z hz => by rw [← Option.some.inj hz, h]⟩
    · exact .inr ⟨y, _, rfl, rfl, rfl, id, id, rfl⟩

theorem getElem_map_fin {α β : Type} {n : Nat} (f : α → β) (v : Vector α n) (i : Fin n) :
    (v.map f)[i] = f v[i] := by
  simp only [Fin.getElem_fin, Vector.getElem_map]

/-- Every context taken out of use, no request waiting, and slots each kept. -/
theorem reaction_dropContexts {v : Vector (Option Slot) 64} (h : ∀ k : SlotId, SlotKept s.cache.slots[k] v[k]) :
    Reaction s { s with
      contexts := Vector.replicate 16 none
      cache := { s.cache with slots := v, requests := [] } } :=
  ⟨⟨rfl, fun _ => rfl, by simp, id, fun _ => .inl rfl, id, slotsDistinct_of_sub fun k => (h k).record,
    apart_of_kept h rfl fun _ _ => id, id, .refl _, id, recency_of_kept h rfl⟩,
    fun q hf => ⟨fun c => by simp only [Fin.getElem_fin, Vector.getElem_replicate], rfl, (q hf).2.2⟩⟩

theorem reaction_abandonContexts (s : State) : Reaction s (abandonContexts s) := by
  refine (reaction_unheed TransferKind.ofContext s).trans (reaction_dropContexts fun k => ?_)
  rw [getElem_map_fin]
  exact abandoned_kept _

/-! ## The fault unit -/

theorem reaction_noteFault (f : RaisedFault) (s : State) : Reaction s (noteFault f s) :=
  reaction_setFaults rfl (fun _ => rfl) (by simp [FaultUnit.see, ← BitVec.or_assoc]) rfl

theorem reaction_failDeleting (s : State) (r : RingId) : Reaction s (failDeleting s r) := by
  unfold failDeleting
  split
  · exact .refl s
  · split
    · refine Reaction.trans ((reaction_setWorkNone r s).trans (reaction_unheed (fun k => k.asFetchRead == some r) _)) ?_
      refine Reaction.trans ?_ (reaction_completeDelete r _)
      split
      · next q hq =>
        exact reaction_setResult _ fun _ h => by rw [hq] at h; exact h
      · exact .refl _
    · exact .refl s

theorem notTiming_stopTiming (q : Option ResultRing) : notTiming (q.map ResultRing.stopTiming) = true := by
  cases q with
  | none => rfl
  | some q => cases h : q.stall <;> simp [notTiming, ResultRing.stopTiming, h]

theorem stopTiming_quiet (s : State) (r : RingId) : notTiming (stopTiming s).rings.results[r] = true := by
  show notTiming (s.rings.results.map fun q => q.map ResultRing.stopTiming)[r] = true
  rw [getElem_map_fin]
  exact notTiming_stopTiming _

/-- Result rings of which none is TIMING. -/
theorem reaction_results {v : Vector (Option ResultRing) 15} (h : ∀ r : RingId, notTiming v[r] = true) :
    Reaction s (s.setRings { s.rings with results := v }) :=
  ⟨⟨rfl, fun _ => rfl, by simp, id, fun _ => .inl rfl, id, id, id, id, .refl _, id, id⟩,
    fun q hf => ⟨(q hf).1, (q hf).2.1, (q hf).2.2.1, h⟩⟩

theorem reaction_stopTiming (s : State) : Reaction s (stopTiming s) :=
  reaction_results fun r => stopTiming_quiet s r

/-! ### The entry into FAILED -/

@[simp] theorem issueTransfer_rings (kind : TransferKind) (addr : HostAddr) (length : Nat) (body : List Byte)
    (s : State) : (issueTransfer kind addr length body s).rings = s.rings := rfl

@[simp] theorem unheed_rings (p : TransferKind → Bool) (s : State) : (unheed p s).rings = s.rings := rfl

@[simp] theorem postAdmin_rings (body : List Byte) (kind : Byte) (s : State) :
    (postAdmin body kind s).rings = s.rings := by unfold postAdmin; split <;> rfl

@[simp] theorem passCommand_rings (s : State) : (passCommand s).rings = s.rings := by
  unfold passCommand; split <;> rfl

@[simp] theorem considerAdminRead_rings (s : State) : (considerAdminRead s).rings = s.rings := by
  unfold considerAdminRead; split
  · rfl
  · split <;> rfl

@[simp] theorem writeStatus_work (e : Fin 16) (index : Nat) (s : State) :
    (writeStatus e index s).rings.work = s.rings.work := by unfold writeStatus; split <;> rfl

@[simp] theorem writeStatus_results (e : Fin 16) (index : Nat) (s : State) :
    (writeStatus e index s).rings.results = s.rings.results := by unfold writeStatus; split <;> rfl

@[simp] theorem finishCommand_work (body : List Byte) (kind : Byte) (s : State) :
    (finishCommand body kind s).rings.work = s.rings.work := by simp [finishCommand]

@[simp] theorem completeCommand_work (st : AdminStatus) (value : BitVec 32) (s : State) :
    (completeCommand st value s).rings.work = s.rings.work := by unfold completeCommand; split <;> simp

@[simp] theorem completeDelete_work (r : RingId) (s : State) :
    (completeDelete r s).rings.work = s.rings.work := by
  unfold completeDelete; split
  · split <;> simp
  · rfl

/-- Ending the DELETING rings: the ring is not DELETING afterwards, and every other ring is as it was. -/
theorem failDeleting_work (s : State) (r n : RingId) :
    (failDeleting s r).rings.work[n] = s.rings.work[n] ∨ (failDeleting s r).rings.work[n] = none := by
  unfold failDeleting
  split
  · exact .inl rfl
  · split
    · rw [completeDelete_work]
      split <;>
      · simp only [State.setResult_work, unheed_rings, State.setWork_work, getElem_set_fin]
        split
        · exact .inr rfl
        · exact .inl rfl
    · exact .inl rfl

theorem failDeleting_ends (s : State) (r : RingId) : notDeleting (failDeleting s r).rings.work[r] = true := by
  unfold failDeleting
  split
  · next h => rw [h]; rfl
  · next w h =>
    split
    · dsimp only
      rw [completeDelete_work]
      split <;> simp only [State.setResult_work, unheed_rings, State.setWork_work, getElem_set_fin, if_true] <;> rfl
    · next hp =>
      rw [h]
      unfold notDeleting
      cases hq : w.phase with
      | deleting m => exact absurd hq (hp m)
      | _ => simp [hq]

theorem failDeleting_foldl (l : List RingId) (s : State) (n : RingId)
    (h : n ∈ l ∨ notDeleting s.rings.work[n] = true) :
    notDeleting (l.foldl failDeleting s).rings.work[n] = true := by
  induction l generalizing s with
  | nil => simpa using h
  | cons r l ih =>
    refine ih _ ?_
    by_cases hn : n ∈ l
    · exact .inl hn
    · refine .inr ?_
      rcases h with h | h
      · rcases List.mem_cons.1 h with rfl | h
        · exact failDeleting_ends s _
        · exact absurd h hn
      · rcases failDeleting_work s r n with e | e
        · rw [e]; exact h
        · rw [e]; rfl

@[simp] theorem completeCommand_contexts (st : AdminStatus) (value : BitVec 32) (s : State) :
    (completeCommand st value s).contexts = s.contexts := by
  have h1 : ∀ b k (s : State), (postAdmin b k s).contexts = s.contexts := by intros; unfold postAdmin; split <;> rfl
  have h2 : ∀ s : State, (passCommand s).contexts = s.contexts := by intros; unfold passCommand; split <;> rfl
  have h3 : ∀ e i (s : State), (writeStatus e i s).contexts = s.contexts := by
    intros; unfold writeStatus; split <;> rfl
  have h4 : ∀ s : State, (considerAdminRead s).contexts = s.contexts := by
    intros; unfold considerAdminRead; split
    · rfl
    · split <;> rfl
  unfold completeCommand; split
  · rfl
  · simp only [finishCommand, h4, h3, h2, h1]

@[simp] theorem completeCommand_cache (st : AdminStatus) (value : BitVec 32) (s : State) :
    (completeCommand st value s).cache = s.cache := by
  have h1 : ∀ b k (s : State), (postAdmin b k s).cache = s.cache := by intros; unfold postAdmin; split <;> rfl
  have h2 : ∀ s : State, (passCommand s).cache = s.cache := by intros; unfold passCommand; split <;> rfl
  have h3 : ∀ e i (s : State), (writeStatus e i s).cache = s.cache := by
    intros; unfold writeStatus; split <;> rfl
  have h4 : ∀ s : State, (considerAdminRead s).cache = s.cache := by
    intros; unfold considerAdminRead; split
    · rfl
    · split <;> rfl
  unfold completeCommand; split
  · rfl
  · simp only [finishCommand, h4, h3, h2, h1]

theorem failDeleting_rest (s : State) (r : RingId) :
    (failDeleting s r).contexts = s.contexts ∧ (failDeleting s r).cache = s.cache := by
  have h : ∀ s : State, (completeDelete r s).contexts = s.contexts ∧ (completeDelete r s).cache = s.cache := by
    intro s; unfold completeDelete; split
    · split <;> simp
    · simp
  unfold failDeleting
  split
  · simp
  · split
    · dsimp only
      rw [(h _).1, (h _).2]
      split <;> exact ⟨rfl, rfl⟩
    · simp

theorem failDeleting_foldl_rest (l : List RingId) (s : State) :
    (l.foldl failDeleting s).contexts = s.contexts ∧ (l.foldl failDeleting s).cache = s.cache := by
  induction l generalizing s with
  | nil => simp
  | cons r l ih =>
    have a := ih (failDeleting s r)
    have b := failDeleting_rest s r
    exact ⟨a.1.trans b.1, a.2.trans b.2⟩

/-- A calm change, and then the ends of deletions and timed stalls, of a state with no context in use. -/
theorem quiet_of_ended {u : State} (hc : ∀ c : CtxId, u.contexts[c] = none) (hr : u.cache.requests = []) :
    FailedQuiet (stopTiming ((List.finRange 15).foldl failDeleting u)) := by
  intro _
  have h := failDeleting_foldl_rest (List.finRange 15) u
  have hw := fun r => failDeleting_foldl (List.finRange 15) u r (.inl (List.mem_finRange r))
  generalize (List.finRange 15).foldl failDeleting u = v at h hw
  refine ⟨fun c => ?_, ?_, hw, stopTiming_quiet v⟩
  · show v.contexts[c] = none
    rw [h.1]; exact hc c
  · show v.cache.requests = []
    rw [h.2]; exact hr

theorem abandonContexts_contexts (s : State) (c : CtxId) : (abandonContexts s).contexts[c] = none := by
  show (Vector.replicate 16 none : Vector (Option Context) 16)[c] = none
  simp only [Fin.getElem_fin, Vector.getElem_replicate]

theorem calm_setFailed (s : State) : Calm s (s.setFaults { s.faults with failed := true }) :=
  ⟨rfl, fun _ => rfl, by simp, fun _ => rfl, fun _ => .inl rfl, id, id, id, id, .refl _, id, id⟩

/-- The entry into FAILED (R176): calm, and quiet from any state. -/
theorem reaction_enterFailed (s : State) : Reaction s (enterFailed s) := by
  unfold enterFailed
  have h1 := calm_setFailed s
  generalize s.setFaults { s.faults with failed := true } = s1 at h1
  have h2 := reaction_abandonContexts s1
  have hc := abandonContexts_contexts s1
  have hr : (abandonContexts s1).cache.requests = [] := rfl
  dsimp only
  generalize abandonContexts s1 = s2 at h2 hc hr
  have h3 := Reaction.foldl reaction_failDeleting (List.finRange 15) s2
  have hq := quiet_of_ended hc hr
  generalize (List.finRange 15).foldl failDeleting s2 = s3 at h3 hq
  have h4 := reaction_stopTiming s3
  generalize stopTiming s3 = s4 at h4 hq
  have h5 := reaction_retireCheckWith reaction_noteFault s4
  exact ⟨(((h1.trans h2.toCalm).trans h3.toCalm).trans h4.toCalm).trans h5.toCalm, fun _ => h5.quiet hq⟩

theorem reaction_setPhase (r : RingId) {w : WorkRing} (hw : s.rings.work[r] = some w) {p : RingPhase}
    (hp : ∀ m, p ≠ .deleting m) : Reaction s (s.setWork r (some { w with phase := p })) :=
  reaction_setWork r (fun _ _ => by
    cases p with
    | deleting m => exact absurd rfl (hp m)
    | _ => rfl) fun h => by rw [hw] at h; exact h

theorem reaction_haltRing (r : RingId) (s : State) : Reaction s (haltRing r s) := by
  unfold haltRing
  split
  · exact .refl s
  · next w hw =>
    split
    · exact (reaction_setPhase r hw (by simp)).trans (reaction_raiseNotice _ _)
    · exact (reaction_setPhase r hw (by simp)).trans (reaction_raiseNotice _ _)
    · next hp =>
      refine Reaction.trans ?_ ((reaction_raiseNotice _ _).trans (reaction_deleteCheck r _))
      exact reaction_setWork r (fun _ h => by rw [hw] at h; simp [notDeleting, hp] at h)
        fun h => by rw [hw] at h; exact h
    · exact .refl s
    · exact .refl s

theorem reaction_haltBound (rr : RingId) (s : State) : Reaction s (haltBound rr s) :=
  .foldl (fun s r => by
    split
    · exact reaction_haltRing r s
    · exact .refl s) _ s

theorem reaction_applySeverity (f : RaisedFault) (s : State) : Reaction s (applySeverity f s) := by
  unfold applySeverity
  split
  · exact .refl s
  · exact reaction_enterFailed s
  · split
    · exact reaction_haltRing _ s
    · exact reaction_haltBound _ s
    · exact .refl s
    · exact .refl s
    · exact .refl s

theorem reaction_captureFault (f : RaisedFault) (s : State) : Reaction s (captureFault f s) := by
  unfold captureFault
  split
  · exact .refl s
  · split
    · next h =>
      exact (reaction_setFaults (x := { s.faults with capture := some f }) rfl (fun hc => absurd h hc) (by simp)
        rfl).trans (reaction_raiseNotice _ _)
    · exact reaction_setFaults rfl (fun _ => rfl) (by simp) rfl

theorem reaction_raiseFault (f : RaisedFault) (s : State) : Reaction s (raiseFault f s) := by
  unfold raiseFault
  split
  · exact reaction_noteFault f s
  · exact ((reaction_noteFault f s).trans (reaction_captureFault f _)).trans (reaction_applySeverity f _)

theorem reaction_raiseFaults (fs : List RaisedFault) (s : State) : Reaction s (raiseFaults fs s) :=
  .foldl (fun s f => reaction_raiseFault f s) fs s

theorem reaction_startWriteBack (k : SlotId) (s : State) : Reaction s (startWriteBack k s) :=
  reaction_startWriteBackWith reaction_raiseFault k s

theorem reaction_retireCheck (s : State) : Reaction s (retireCheck s) :=
  reaction_retireCheckWith reaction_raiseFault s

end Sys2Proof.Machine
end

