-- ==== Sys2Proof/Laws/Allocator.lean ====
section
/-! SUPPORT. Posting results, ending contexts, the slot allocator and the end of an event are reactions. -/

namespace Sys2Proof.Machine

variable {s : State}

/-! ## Posting and retirement -/

/-- A result ring that goes on with its stall state. -/
theorem reaction_setResultSame (r : RingId) {q q' : ResultRing} (hq : s.rings.results[r] = some q)
    (h : q'.stall = q.stall) : Reaction s (s.setResult r (some q')) :=
  reaction_setResult r fun _ ht => by rw [hq] at ht; simpa only [notTiming, h] using ht

theorem reaction_endOutstanding (r : RingId) (slot : Nat) (s : State) : Reaction s (endOutstanding r slot s) := by
  unfold endOutstanding
  split
  · next w hw => exact reaction_setWorkSame r hw rfl rfl (List.length_filter_le _ _)
  · exact .refl s

theorem reaction_postResult (r rr : RingId) (member count : Nat) (p : Posting) (s : State) :
    Reaction s (postResult r rr member count p s) := by
  unfold postResult
  split
  · exact .refl s
  · next q hq =>
    refine Reaction.trans ?_ (reaction_endOutstanding _ _ _)
    exact (reaction_issueWrite _ _ _ s).trans (reaction_setResultSame rr hq rfl)

theorem reaction_postFrom (r rr : RingId) (count member : Nat) (posts : List Posting) (s : State) :
    Reaction s (postFrom r rr count member posts s) := by
  induction posts generalizing member s with
  | nil => exact .refl s
  | cons p rest ih => exact (reaction_postResult r rr member count p s).trans (ih (member + 1) _)

theorem reaction_retireRing (r : RingId) (s : State) : Reaction s (retireRing r s) := by
  unfold retireRing
  split
  · exact .refl s
  · next w hw =>
    split
    · exact .refl s
    · exact (reaction_setWorkSame r (w' := { w with retire := w.retired }) hw rfl rfl (le_refl _)).trans
        (reaction_writeStatus _ _ _)

theorem reaction_causeMessage (rr : RingId) (q : ResultRing) (s : State) (hq : s.rings.results[rr] = some q) :
    Reaction s (causeMessage rr q s) := by
  have h : Reaction s (s.setResult rr (some { q with unsignalled := 0, firstUnsignalled := none })) :=
    reaction_setResultSame rr hq rfl
  unfold causeMessage
  dsimp only
  split
  · exact h.trans (reaction_issueWrite _ _ _ _)
  · exact h

theorem reaction_coalesceCheck (rr : RingId) (s : State) : Reaction s (coalesceCheck rr s) := by
  unfold coalesceCheck
  split
  · exact .refl s
  · next q hq =>
    split
    · exact reaction_causeMessage rr q s hq
    · exact .refl s

theorem reaction_postUnit (r : RingId) (posts : List Posting) (s : State) : Reaction s (postUnit r posts s) := by
  unfold postUnit
  split
  · exact .refl s
  · exact ((reaction_postFrom _ _ _ _ _ s).trans (reaction_retireRing _ _)).trans (reaction_coalesceCheck _ _)

/-! ## Contexts -/

theorem reaction_leaveQueues (c : CtxId) (s : State) : Reaction s (leaveQueues c s) := by
  refine reaction_slots fun k => ?_
  rw [getElem_map_fin]
  cases s.cache.slots[k] with
  | none => exact .refl _
  | some y => exact .inr ⟨y, _, rfl, rfl, rfl, id, id, rfl⟩

theorem reaction_withdrawRequest (c : CtxId) (s : State) : Reaction s (withdrawRequest c s) :=
  reaction_setRequests fun h => by rw [h]; rfl

theorem reaction_endContext (c : CtxId) (s : State) : Reaction s (endContext c s) := by
  unfold endContext
  split
  · exact .refl s
  · exact ((((reaction_setContext c fun _ => rfl).trans (reaction_leaveQueues c _)).trans
      (reaction_withdrawRequest c _)).trans (reaction_unheed _ _)).trans (reaction_postUnit _ _ _)

/-- A context in use that goes on. -/
theorem reaction_setContextSome (c : CtxId) {x : Context} (y : Option Context) (h : s.contexts[c] = some x) :
    Reaction s (s.setContext c y) :=
  reaction_setContext c fun hn => by rw [h] at hn; exact absurd hn (by simp)

theorem reaction_failContext (records : List Nat) (st : Status) (c : CtxId) (s : State) :
    Reaction s (failContext records st c s) := by
  unfold failContext
  split
  · exact .refl s
  · next x hx => exact (reaction_setContextSome c _ hx).trans (reaction_endContext c _)

/-- Contexts that each stay FREE where they are FREE. -/
theorem reaction_contexts {v : Vector (Option Context) 16} (h : ∀ c : CtxId, s.contexts[c] = none → v[c] = none) :
    Reaction s { s with contexts := v } :=
  ⟨⟨rfl, fun _ => rfl, by simp, id, fun _ => .inl rfl, id, id, id, id, .refl _, id, id⟩,
    fun q hf => ⟨fun c => h c ((q hf).1 c), (q hf).2⟩⟩

theorem reaction_readyCheck (s : State) : Reaction s (readyCheck s) := by
  refine reaction_contexts fun c hc => ?_
  rw [getElem_ofFn_fin, hc]

/-! ## The grant -/

theorem findSlot_none {record : Nat} (h : findSlot s record = none) (k : SlotId) : slotRecord s k ≠ some record := by
  have := List.find?_eq_none.1 h k (List.mem_finRange k)
  unfold slotRecord
  cases hk : s.cache.slots[k] with
  | none => simp
  | some y => rw [hk] at this; simpa using this

theorem reaction_joinSlot (k : SlotId) (c : CtxId) (s : State) : Reaction s (joinSlot k c s) := by
  unfold joinSlot
  split
  · exact .refl s
  · next y hy =>
    have h : Reaction s (s.setSlot k (some { y with claims := y.claims ++ [c] })) :=
      reaction_setSlotSame k hy rfl id id rfl
    dsimp only
    split
    · next c' hc =>
      exact h.trans (reaction_mostRecent k _ ⟨_, by rw [State.setSlot_slots, getElem_set_fin, if_pos rfl], by
        simp [Slot.isResident, hc]⟩)
    · exact h

theorem slotRecord_freeSlot (k k' : SlotId) (s : State) (r : Nat) (h : slotRecord s k' ≠ some r) :
    slotRecord (freeSlot k s) k' ≠ some r := by
  show slotRecord (s.setSlot k none) k' ≠ some r
  rw [slotRecord_setSlot]
  split
  · simp
  · exact h

theorem freeSlot_slot (k : SlotId) (s : State) : (freeSlot k s).cache.slots[k] = none := by
  show (s.cache.slots.set k none)[k] = none
  rw [getElem_set_fin, if_pos rfl]

theorem poisoned_iff (st : Store) (n : Nat) : st.poisoned n = true ↔ n ∈ st.poison := by
  simp [Store.poisoned]

theorem reaction_giveSlot (k : SlotId) (c : CtxId) (i : RecordItem) (s : State)
    (hk : ∀ y, s.cache.slots[k] = some y → y.phase ≠ .filling) (h : ∀ k', slotRecord s k' ≠ some i.record) :
    Reaction s (giveSlot k c i s) := by
  have hf := reaction_freeSlot k s hk
  have hn : ∀ x : Slot, x.record = i.record → (x.phase = .awaitingStore ∨ x.record ∉ s.store.poison) →
      x.isResident = false → Reaction (freeSlot k s) ((freeSlot k s).setSlot k (some x)) :=
    fun x hr hp => reaction_setSlotNew k (freeSlot_slot k s)
      (fun k' => slotRecord_freeSlot k k' s x.record (by rw [hr]; exact h k')) hp
  unfold giveSlot
  dsimp only
  split
  · exact hf.trans (hn _ rfl (.inl rfl) rfl)
  · next ha =>
    let x : Slot := { phase := .filling, record := i.record, region := i.region, claims := [c] }
    exact (hf.trans (hn x rfl (.inr fun hm => ha ((poisoned_iff _ _).2 hm)) rfl)).trans
      (reaction_issueFill k (y := x) (by rw [State.setSlot_slots, getElem_set_fin, if_pos rfl]) rfl)

theorem spare_not_filling {x : Context} {y : Slot} (h : spareSlot x y = true) : y.phase ≠ .filling := fun e => by
  simp [spareSlot, idleResident, e] at h

/-- The slot given to a new record is FREE or spare, never FILLING. -/
theorem chooseSlot_not_filling {x : Context} {k : SlotId} (h : chooseSlot s x = some k) (y : Slot)
    (hy : s.cache.slots[k] = some y) : y.phase ≠ .filling := by
  unfold chooseSlot at h
  split at h
  · next hf =>
    have := List.find?_some hf
    obtain rfl := Option.some.inj h
    rw [hy] at this
    exact absurd this (by simp)
  · have hm := List.mem_of_mem_head? h
    have := (List.mem_filter.1 hm).2
    rw [hy] at this
    exact spare_not_filling this

theorem reaction_grantItem (x : Context) (c : CtxId) (i : RecordItem) (s : State) :
    Reaction s (grantItem x c i s).2 := by
  unfold grantItem
  split
  · exact reaction_joinSlot _ c s
  · next h =>
    split
    · next hk => exact reaction_giveSlot _ c i s (chooseSlot_not_filling hk) (findSlot_none h)
    · exact .refl s

theorem reaction_grantItems (x : Context) (c : CtxId) (is : List RecordItem) (s : State) :
    Reaction s (grantItems x c is s).2 := by
  induction is generalizing s with
  | nil => exact .refl s
  | cons i rest ih => exact (reaction_grantItem x c i s).trans (ih _)

theorem joinSlot_contexts (k : SlotId) (c : CtxId) (s : State) : (joinSlot k c s).contexts = s.contexts := by
  unfold joinSlot
  split
  · rfl
  · dsimp only; split <;> rfl

theorem giveSlot_contexts (k : SlotId) (c : CtxId) (i : RecordItem) (s : State) :
    (giveSlot k c i s).contexts = s.contexts := by
  unfold giveSlot
  dsimp only
  split <;> rfl

theorem grantItem_contexts (x : Context) (c : CtxId) (i : RecordItem) (s : State) :
    (grantItem x c i s).2.contexts = s.contexts := by
  unfold grantItem
  split
  · exact joinSlot_contexts _ c s
  · split
    · exact giveSlot_contexts _ c i s
    · rfl

theorem grantItems_contexts (x : Context) (c : CtxId) (is : List RecordItem) (s : State) :
    (grantItems x c is s).2.contexts = s.contexts := by
  induction is generalizing s with
  | nil => rfl
  | cons i rest ih => exact (ih _).trans (grantItem_contexts x c i s)

theorem reaction_grantSlots (c : CtxId) (x : Context) (s : State) (h : s.contexts[c] = some x) :
    Reaction s (grantSlots c x s) :=
  (reaction_grantItems x c x.records s).trans
    (reaction_setContextSome c _ (by rw [grantItems_contexts]; exact h))

theorem reaction_grantPoisoned (c : CtxId) (x : Context) (s : State) : Reaction s (grantPoisoned c x s) :=
  (reaction_failContext _ _ c s).trans (reaction_raiseFaults _ _)

theorem reaction_grant (c : CtxId) (s : State) : Reaction s (grant c s) := by
  unfold grant
  split
  · exact reaction_withdrawRequest c s
  · next x hx =>
    refine (reaction_withdrawRequest c s).trans (Reaction.trans ?_ (reaction_readyCheck _))
    split
    · exact reaction_grantSlots c x _ hx
    · exact reaction_grantPoisoned c x _

/-! ## Evaluation and the end of an event -/

theorem reaction_pressure (x : Context) (s : State) : Reaction s (pressure x s) :=
  .foldl (fun s k => by
    split
    · exact .refl s
    · exact reaction_startWriteBack k s) _ s

theorem reaction_evaluateFrom (fuel : Nat) (s : State) : Reaction s (evaluateFrom fuel s) := by
  induction fuel generalizing s with
  | zero => exact .refl s
  | succ n ih =>
    unfold evaluateFrom
    split
    · exact .refl s
    · split
      · exact (reaction_withdrawRequest _ s).trans (ih _)
      · split
        · exact (reaction_grant _ s).trans (ih _)
        · exact reaction_pressure _ s

theorem reaction_evaluate (s : State) : Reaction s (evaluate s) := reaction_evaluateFrom _ s

theorem reaction_settle (s : State) : Reaction s (settle s) :=
  (((((((reaction_readyCheck s).trans (reaction_retireCheck _)).trans (reaction_evaluate _)).trans
    (reaction_retireCheck _)).trans (reaction_evaluate _)).trans (reaction_flushCheck _)).trans
    (reaction_drainingCheck _)).trans ((reaction_deleteCheckRunning _).trans (reaction_stallCheck _))

/-- The end of an event is a reaction: whatever faults it raises, it keeps what the event's own effect kept. -/
theorem reaction_afterEvent (s u : State) (faults : List RaisedFault) : Reaction u (afterEvent s u faults) :=
  ((reaction_raiseFaults faults u).trans (reaction_settle _)).trans (reaction_adminMessage _ _)

end Sys2Proof.Machine
end

