-- ==== Sys2Proof/Laws/Memory.lean ====
section
/-! SUPPORT. The record store: reads after writes, the canonical form, and what the writes of a record leave alone. -/

namespace Sys2Proof.Machine

/-! ## One byte -/

theorem Memory.read_write {α : Type} (m : List (Nat × α)) (a b : Nat) (v : α) (h : Memory.wf m) :
    Memory.read (Memory.write m a v) b = if b = a then some v else Memory.read m b := by
  induction m with
  | nil =>
    by_cases e : b = a
    · simp [Memory.read, Memory.write, e]
    · simp [Memory.read, Memory.write, List.lookup, beq_eq_false_iff_ne.2 e, e]
  | cons p rest ih =>
    obtain ⟨x, y⟩ := p
    have hr : Memory.wf rest := (List.pairwise_cons.1 h).2
    have hx := (List.pairwise_cons.1 h).1
    simp only [Memory.read] at ih ⊢
    unfold Memory.write
    split
    · by_cases e : b = a
      · simp [List.lookup, e]
      · simp only [List.lookup, if_neg e, beq_eq_false_iff_ne.2 e]
    · split
      · next he =>
        by_cases e : b = a
        · simp [List.lookup, e]
        · have e' : b ≠ x := he ▸ e
          simp only [List.lookup, if_neg e, beq_eq_false_iff_ne.2 e, beq_eq_false_iff_ne.2 e']
      · next hl he =>
        by_cases e : b = x
        · have e' : b ≠ a := fun h => he (h ▸ e)
          simp only [List.lookup, e, beq_self_eq_true]
          rw [if_neg (by rw [← e]; exact e')]
        · simp only [List.lookup, beq_eq_false_iff_ne.2 e]
          exact ih hr

theorem Memory.mem_write {α : Type} {m : List (Nat × α)} {a x : Nat} {v : α} (h : x ∈ (Memory.write m a v).map Prod.fst) :
    x = a ∨ x ∈ m.map Prod.fst := by
  induction m with
  | nil => simpa [Memory.write] using h
  | cons p rest ih =>
    obtain ⟨y, z⟩ := p
    unfold Memory.write at h
    split at h
    · simpa using h
    · split at h
      · next e =>
        simp only [List.map_cons, List.mem_cons] at h ⊢
        exact h.imp id .inr
      · simp only [List.map_cons, List.mem_cons] at h ⊢
        rcases h with h | h
        · exact .inr (.inl h)
        · exact (ih h).imp id .inr

/-- A write keeps the canonical form. -/
theorem Memory.write_wf {α : Type} (m : List (Nat × α)) (a : Nat) (v : α) (h : Memory.wf m) : Memory.wf (Memory.write m a v) := by
  induction m with
  | nil => simp [Memory.write, Memory.wf]
  | cons p rest ih =>
    obtain ⟨x, y⟩ := p
    have hr := (List.pairwise_cons.1 h).2
    have hx := (List.pairwise_cons.1 h).1
    unfold Memory.write
    split
    · next hl =>
      refine List.pairwise_cons.2 ⟨fun c hc => ?_, h⟩
      rcases List.mem_cons.1 hc with rfl | hc
      · exact hl
      · exact lt_trans hl (hx c hc)
    · split
      · next e => exact List.pairwise_cons.2 ⟨fun c hc => e ▸ hx c hc, hr⟩
      · next hl e =>
        refine List.pairwise_cons.2 ⟨fun c hc => ?_, ih hr⟩
        rcases Memory.mem_write hc with rfl | hc
        · show x < c
          omega
        · exact hx c hc

/-- What a list holds after a write is the entry written, or was there before. -/
theorem Memory.of_mem_write {α : Type} {m : List (Nat × α)} {a : Nat} {v : α} {p : Nat × α}
    (h : p ∈ Memory.write m a v) : p = (a, v) ∨ p ∈ m := by
  induction m with
  | nil => simpa [Memory.write] using h
  | cons q rest ih =>
    obtain ⟨y, z⟩ := q
    unfold Memory.write at h
    split at h
    · simpa using h
    · split at h
      · simp only [List.mem_cons] at h ⊢
        exact h.imp id .inr
      · rcases List.mem_cons.1 h with h | h
        · exact .inr (h ▸ List.mem_cons_self)
        · exact (ih h).imp id (List.mem_cons_of_mem _)

/-- A read after an entry is taken out. -/
theorem Memory.read_clear {α : Type} (m : List (Nat × α)) (a b : Nat) :
    Memory.read (Memory.clear m a) b = if b = a then none else Memory.read m b := by
  induction m with
  | nil => simp [Memory.read, Memory.clear]
  | cons q rest ih =>
    obtain ⟨x, v⟩ := q
    simp only [Memory.read, Memory.clear] at ih ⊢
    by_cases hx : x = a
    · rw [List.filter_cons_of_neg (by simpa using hx), ih]
      split
      · rfl
      · next hb =>
        have hbx : b ≠ x := fun h => hb (h.trans hx)
        simp only [List.lookup, beq_eq_false_iff_ne.2 hbx]
    · rw [List.filter_cons_of_pos (by simpa using hx)]
      by_cases hb : b = x
      · rw [hb, if_neg hx]
        simp [List.lookup]
      · simp only [List.lookup, beq_eq_false_iff_ne.2 hb]
        exact ih

/-- Taking an entry out keeps the canonical form. -/
theorem Memory.clear_wf {α : Type} (m : List (Nat × α)) (a : Nat) (h : Memory.wf m) : Memory.wf (Memory.clear m a) :=
  h.sublist (List.filter_sublist.map Prod.fst)

/-! ## Bytes -/

theorem Memory.writeBytes_wf (bytes : List Byte) (m : Memory) (a : Nat) (h : Memory.wf m) :
    Memory.wf (Memory.writeBytes m a bytes) := by
  induction bytes generalizing m a with
  | nil => exact h
  | cons b rest ih => exact ih _ _ (Memory.write_wf m a b h)

/-- A read after a write of bytes: inside them the byte written, outside them what was there. -/
theorem Memory.read_writeBytes (bytes : List Byte) (m : Memory) (a b : Nat) (h : Memory.wf m) :
    Memory.read (Memory.writeBytes m a bytes) b =
      if a ≤ b ∧ b < a + bytes.length then bytes[b - a]? else Memory.read m b := by
  induction bytes generalizing m a with
  | nil =>
    rw [if_neg (by simp only [List.length_nil]; omega)]
    rfl
  | cons v rest ih =>
    show Memory.read (Memory.writeBytes (Memory.write m a v) (a + 1) rest) b = _
    rw [ih _ _ (Memory.write_wf m a v h), Memory.read_write m a b v h]
    by_cases e : b = a
    · subst e
      rw [if_neg (by omega), if_pos rfl, if_pos (by simp)]
      simp
    · rw [if_neg e]
      by_cases hb : a + 1 ≤ b ∧ b < a + 1 + rest.length
      · rw [if_pos hb, if_pos (by simp only [List.length_cons]; omega)]
        obtain ⟨k, rfl⟩ : ∃ k, b = a + 1 + k := ⟨b - (a + 1), by omega⟩
        rw [show a + 1 + k - (a + 1) = k by omega, show a + 1 + k - a = k + 1 by omega, List.getElem?_cons_succ]
      · rw [if_neg hb, if_neg (by simp only [List.length_cons]; omega)]

@[simp] theorem leBytes_length (n v : Nat) : (leBytes n v).length = n := by
  induction n generalizing v with
  | zero => rfl
  | succ n ih => simp [leBytes, ih]

/-! ## Words and records -/

@[simp] theorem writeWord_size (st : Store) (n : Nat) (w : WordId) (d : BitVec 64) :
    (writeWord st n w d).size = st.size := rfl
@[simp] theorem writeWord_poison (st : Store) (n : Nat) (w : WordId) (d : BitVec 64) :
    (writeWord st n w d).poison = st.poison := rfl
@[simp] theorem writeWord_jobs (st : Store) (n : Nat) (w : WordId) (d : BitVec 64) :
    (writeWord st n w d).jobs = st.jobs := rfl
@[simp] theorem writeWord_powerOns (st : Store) (n : Nat) (w : WordId) (d : BitVec 64) :
    (writeWord st n w d).powerOns = st.powerOns := rfl

/-- A relation that writing a word keeps, the writes of lane sets and of records keep. -/
theorem writeLanes_rel {R : Store → Store → Prop} (refl : ∀ a, R a a) (trans : ∀ a b c, R a b → R b c → R a c)
    (n : Nat) (lanes : Record) (set : LaneSet) (h : ∀ st w d, R st (writeWord st n w d)) (st : Store) :
    R st (writeLanes st n lanes set) := by
  unfold writeLanes
  generalize List.finRange 4 = l
  induction l generalizing st with
  | nil => exact refl st
  | cons w l ih =>
    simp only [List.foldl_cons]
    split
    · exact trans _ _ _ (h st w _) (ih _)
    · exact ih st

theorem fillRecords_rel {R : Store → Store → Prop} (refl : ∀ a, R a a) (trans : ∀ a b c, R a b → R b c → R a c)
    (lanes : Record) (first count : Nat)
    (h : ∀ st n w d, first ≤ n → n < first + count → R st (writeWord st n w d)) (st : Store) :
    R st (fillRecords st lanes first count) := by
  induction count generalizing first st with
  | zero => exact refl st
  | succ k ih =>
    have h1 := writeLanes_rel refl trans first lanes allLanes (fun st w d => h st first w d (le_refl _) (by omega)) st
    have h2 := ih (first + 1) (fun st n w d h1 h2 => h st n w d (by omega) (by omega)) (writeLanes st first lanes allLanes)
    rw [fillRecords]
    exact trans _ _ _ h1 h2

/-- The fields of the store that a write of data leaves alone. -/
structure SameTables (a b : Store) : Prop where
  size : b.size = a.size
  poison : b.poison = a.poison
  jobs : b.jobs = a.jobs
  powerOns : b.powerOns = a.powerOns

theorem SameTables.refl (a : Store) : SameTables a a := ⟨rfl, rfl, rfl, rfl⟩

theorem SameTables.trans (a b c : Store) (h : SameTables a b) (h' : SameTables b c) : SameTables a c :=
  ⟨h'.size.trans h.size, h'.poison.trans h.poison, h'.jobs.trans h.jobs, h'.powerOns.trans h.powerOns⟩

theorem writeLanes_tables (st : Store) (n : Nat) (lanes : Record) (set : LaneSet) :
    SameTables st (writeLanes st n lanes set) :=
  writeLanes_rel SameTables.refl SameTables.trans n lanes set (fun _ _ _ => ⟨rfl, rfl, rfl, rfl⟩) st

theorem fillRecords_tables (st : Store) (lanes : Record) (first count : Nat) :
    SameTables st (fillRecords st lanes first count) :=
  fillRecords_rel SameTables.refl SameTables.trans lanes first count (fun _ _ _ _ _ _ => ⟨rfl, rfl, rfl, rfl⟩) st

theorem writeWord_canonical (st : Store) (n : Nat) (w : WordId) (d : BitVec 64) (h : StoreCanonical st) :
    StoreCanonical (writeWord st n w d) :=
  ⟨Memory.writeBytes_wf _ _ _ h.1, Memory.write_wf _ _ _ h.2.1, Memory.clear_wf _ _ h.2.2.1,
    fun p hp => h.2.2.2 p (List.mem_filter.1 hp).1⟩

theorem writeLanes_canonical (st : Store) (n : Nat) (lanes : Record) (set : LaneSet) (h : StoreCanonical st) :
    StoreCanonical (writeLanes st n lanes set) :=
  writeLanes_rel (R := fun a b => StoreCanonical a → StoreCanonical b) (fun _ => id) (fun _ _ _ f g => g ∘ f) n lanes
    set (fun st w d => writeWord_canonical st n w d) st h

theorem fillRecords_canonical (st : Store) (lanes : Record) (first count : Nat) (h : StoreCanonical st) :
    StoreCanonical (fillRecords st lanes first count) :=
  fillRecords_rel (R := fun a b => StoreCanonical a → StoreCanonical b) (fun _ => id) (fun _ _ _ f g => g ∘ f) lanes
    first count (fun st n w d _ _ => writeWord_canonical st n w d) st h

theorem writeWord_frame (st : Store) (n : Nat) (w : WordId) (d : BitVec 64) (h : StoreCanonical st) (a : Nat)
    (ha : a < 32 * n ∨ 32 * n + 32 ≤ a) : Memory.read (writeWord st n w d).dram a = Memory.read st.dram a := by
  have hw := w.isLt
  show Memory.read (Memory.writeBytes st.dram (wordAddr n w) (leBytes 8 d.toNat)) a = _
  rw [Memory.read_writeBytes _ _ _ _ h.1, leBytes_length, if_neg (by unfold wordAddr; omega)]

/-- Writing lanes of one record leaves the bytes of every other record. -/
theorem writeLanes_frame (st : Store) (n : Nat) (lanes : Record) (set : LaneSet) (h : StoreCanonical st) (a : Nat)
    (ha : a < 32 * n ∨ 32 * n + 32 ≤ a) : Memory.read (writeLanes st n lanes set).dram a = Memory.read st.dram a :=
  (writeLanes_rel (R := fun x y => StoreCanonical x → Memory.read y.dram a = Memory.read x.dram a ∧ StoreCanonical y)
    (fun _ h => ⟨rfl, h⟩) (fun _ _ _ f g hx => ⟨(g (f hx).2).1.trans (f hx).1, (g (f hx).2).2⟩) n lanes set
    (fun st w d hx => ⟨writeWord_frame st n w d hx a ha, writeWord_canonical st n w d hx⟩) st h).1

/-- Filling records leaves the bytes of every record outside the range. -/
theorem fillRecords_frame (st : Store) (lanes : Record) (first count : Nat) (h : StoreCanonical st) (a : Nat)
    (ha : a < 32 * first ∨ 32 * (first + count) ≤ a) :
    Memory.read (fillRecords st lanes first count).dram a = Memory.read st.dram a :=
  (fillRecords_rel (R := fun x y => StoreCanonical x → Memory.read y.dram a = Memory.read x.dram a ∧ StoreCanonical y)
    (fun _ h => ⟨rfl, h⟩) (fun _ _ _ f g hx => ⟨(g (f hx).2).1.trans (f hx).1, (g (f hx).2).2⟩) lanes first count
    (fun st n w d h1 h2 hx => ⟨writeWord_frame st n w d hx a (by omega), writeWord_canonical st n w d hx⟩) st h).1

/-- A word written is read back whole, with its check bits. -/
theorem readback_word (st : Store) (n : Nat) (w : WordId) (d : BitVec 64) (h : StoreCanonical st) (i : Nat)
    (hi : i < 8) :
    Memory.read (writeWord st n w d).dram (wordAddr n w + i) = (leBytes 8 d.toNat)[i]? ∧
      Memory.read (writeWord st n w d).check (checkAddr n w) = some (Config.eccCheck d) := by
  constructor
  · show Memory.read (Memory.writeBytes st.dram (wordAddr n w) (leBytes 8 d.toNat)) _ = _
    rw [Memory.read_writeBytes _ _ _ _ h.1, leBytes_length, if_pos (by omega), Nat.add_sub_cancel_left]
  · show Memory.read (Memory.write st.check (checkAddr n w) (Config.eccCheck d)) _ = _
    rw [Memory.read_write _ _ _ _ h.2.1, if_pos rfl]

/-- A word written has no bit in error; the others have the bits in error that they had. -/
theorem wordErrors_writeWord (st : Store) (n m : Nat) (w v : WordId) (d : BitVec 64) :
    wordErrors (writeWord st n w d) m v = if m = n ∧ v = w then 0 else wordErrors st m v := by
  have hw := w.isLt
  have hv := v.isLt
  show (Memory.read (Memory.clear st.errors (checkAddr n w)) (checkAddr m v)).getD 0 = _
  rw [Memory.read_clear]
  by_cases e : checkAddr m v = checkAddr n w
  · have e' := e
    unfold checkAddr at e'
    rw [if_pos e, if_pos ⟨by omega, Fin.ext (by omega)⟩]
    rfl
  · rw [if_neg e, if_neg fun h => e (by rw [h.1, h.2])]
    rfl

/-- The check bits of a word written are computed from it; the others are as they were. -/
theorem readCheck_writeWord (st : Store) (n m : Nat) (w v : WordId) (d : BitVec 64) (h : StoreCanonical st) :
    Memory.read (writeWord st n w d).check (checkAddr m v) =
      if m = n ∧ v = w then some (Config.eccCheck d) else Memory.read st.check (checkAddr m v) := by
  have hw := w.isLt
  have hv := v.isLt
  show Memory.read (Memory.write st.check (checkAddr n w) (Config.eccCheck d)) (checkAddr m v) = _
  rw [Memory.read_write _ _ _ _ h.2.1]
  by_cases e : checkAddr m v = checkAddr n w
  · have e' := e
    unfold checkAddr at e'
    rw [if_pos e, if_pos ⟨by omega, Fin.ext (by omega)⟩]
  · rw [if_neg e, if_neg fun h => e (by rw [h.1, h.2])]

/-! ## The bits in error -/

/-- The fields of the store that a fill's errors leave alone. -/
structure SameContent (a b : Store) : Prop where
  size : b.size = a.size
  dram : b.dram = a.dram
  check : b.check = a.check
  poison : b.poison = a.poison
  jobs : b.jobs = a.jobs
  powerOns : b.powerOns = a.powerOns

theorem addErrors_content (st : Store) (n : Nat) (w : WordId) (e : WordErrors) : SameContent st (st.addErrors n w e) := by
  unfold Store.addErrors
  split <;> constructor <;> rfl

/-- The bits in error of a word after a read found some in one word. -/
theorem wordErrors_addErrors (st : Store) (n m : Nat) (w v : WordId) (e : WordErrors) (h : StoreCanonical st) :
    wordErrors (st.addErrors n w e) m v = if m = n ∧ v = w then wordErrors st n w ||| e else wordErrors st m v := by
  have hw := w.isLt
  have hv := v.isLt
  unfold Store.addErrors
  split
  · next he =>
    split
    · next hm => rw [hm.1, hm.2, he]; simp
    · rfl
  · show (Memory.read (Memory.write st.errors (checkAddr n w) _) (checkAddr m v)).getD 0 = _
    rw [Memory.read_write _ _ _ _ h.2.2.1]
    by_cases e : checkAddr m v = checkAddr n w
    · have e' := e
      unfold checkAddr at e'
      rw [if_pos e, if_pos ⟨by omega, Fin.ext (by omega)⟩]
      rfl
    · rw [if_neg e, if_neg fun h => e (by rw [h.1, h.2])]
      rfl

theorem addErrors_canonical (st : Store) (n : Nat) (w : WordId) (e : WordErrors) (h : StoreCanonical st) :
    StoreCanonical (st.addErrors n w e) := by
  unfold Store.addErrors
  split
  · exact h
  · next he =>
    refine ⟨h.1, h.2.1, Memory.write_wf _ _ _ h.2.2.1, fun p hp => ?_⟩
    rcases Memory.of_mem_write hp with rfl | hp
    · intro h0
      refine he ?_
      have h1 : (errorsRead st n w e) &&& e = 0#72 &&& e := congrArg (· &&& e) h0
      have h2 : (errorsRead st n w e) &&& e = e := by
        ext i hi
        simp only [errorsRead, BitVec.getElem_and, BitVec.getElem_or]
        cases (wordErrors st n w)[i] <;> cases e[i] <;> rfl
      rw [h2] at h1
      simpa using h1
    · exact h.2.2.2 p hp

/-- A relation that recording the errors of a word keeps, a fill's errors keep. -/
theorem addFillErrors_rel {R : Store → Store → Prop} (refl : ∀ a, R a a) (trans : ∀ a b c, R a b → R b c → R a c)
    (n : Nat) (found : Vector WordErrors 4) (h : ∀ st w e, R st (Store.addErrors st n w e)) (st : Store) :
    R st (st.addFillErrors n found) := by
  unfold Store.addFillErrors
  generalize List.finRange 4 = l
  induction l generalizing st with
  | nil => exact refl st
  | cons w l ih => exact trans _ _ _ (h st w _) (ih _)

theorem addFillErrors_content (st : Store) (n : Nat) (found : Vector WordErrors 4) :
    SameContent st (st.addFillErrors n found) :=
  addFillErrors_rel (fun _ => ⟨rfl, rfl, rfl, rfl, rfl, rfl⟩)
    (fun _ _ _ f g => ⟨g.size.trans f.size, g.dram.trans f.dram, g.check.trans f.check, g.poison.trans f.poison,
      g.jobs.trans f.jobs, g.powerOns.trans f.powerOns⟩) n found (fun st w e => addErrors_content st n w e) st

theorem addFillErrors_canonical (st : Store) (n : Nat) (found : Vector WordErrors 4) (h : StoreCanonical st) :
    StoreCanonical (st.addFillErrors n found) :=
  addFillErrors_rel (R := fun a b => StoreCanonical a → StoreCanonical b) (fun _ => id) (fun _ _ _ f g => g ∘ f) n found
    (fun st w e => addErrors_canonical st n w e) st h

/-- What a fill's end does to the store: its job leaves the list, and data, check bits and poison list are as they
were. -/
theorem endFill_content (st : Store) (k : SlotId) (n : Nat) (found : Vector WordErrors 4) :
    SameContent { st with jobs := st.jobs.filter fun j => !j.isFill k } (st.endFill k n found) :=
  addFillErrors_content (st.endJobs (Job.isFill k)) n found

/-! ## The poison list -/

theorem mem_addPoison {st : Store} {n x : Nat} (h : x ∈ (st.addPoison n).poison) : x = n ∨ x ∈ st.poison := by
  unfold Store.addPoison at h
  split at h
  · exact .inr h
  · simpa [or_comm] using h

theorem addPoison_nodup (st : Store) (n : Nat) (h : st.poison.Nodup) : (st.addPoison n).poison.Nodup := by
  unfold Store.addPoison
  split
  · exact h
  · next hc =>
    have hn : n ∉ st.poison := fun hm => hc (by simp [Store.poisoned, hm])
    refine List.nodup_append.2 ⟨h, by simp, fun a ha b hb => ?_⟩
    rw [List.mem_singleton.1 hb]
    rintro rfl
    exact hn ha

theorem addPoison_length (st : Store) (n : Nat) (h : st.poison.length ≤ Config.poisonCapacity) :
    (st.addPoison n).poison.length ≤ Config.poisonCapacity := by
  unfold Store.addPoison
  split
  · exact h
  · next hc =>
    simp only [Bool.or_eq_true, decide_eq_true_eq, not_or, not_le] at hc
    simp only [List.length_append, List.length_cons, List.length_nil]
    omega

theorem removePoison_sublist (st : Store) (n : Nat) : (st.removePoison n).poison.Sublist st.poison :=
  List.filter_sublist

theorem removePoisonRange_sublist (st : Store) (a b : Nat) : (st.removePoisonRange a b).poison.Sublist st.poison :=
  List.filter_sublist

theorem not_mem_removePoison (st : Store) (n : Nat) : n ∉ (st.removePoison n).poison := by
  simp [Store.removePoison]

end Sys2Proof.Machine
end

