-- ==== Sys2Proof/WellFormed.lean ====
section
/-! DEFINITION. Which commands are well formed: what a register access, a completed fetch read and a completed admin read
can carry (R124, R154, R183, R184, R191). -/

namespace Sys2Proof

open Sys2Proof.Machine

/-- Whether an access is aligned and lies in the register window of 1 KiB (R183). -/
def accessWellFormed (offset : Nat) (width : AccessWidth) : Bool :=
  match width with
  | .word32 => offset % 4 == 0 && decide (offset + 4 ≤ 0x400)
  | .word64 => offset % 8 == 0 && decide (offset + 8 ≤ 0x400)

/-- Whether an offset belongs to a register that has rows of its own: DEV_CONTROL, POST and RELEASE (R183). -/
def ownRow (offset : Nat) : Bool :=
  offset == 0x004 || decide (0x100 ≤ offset ∧ offset < 0x140) || decide (0x200 ≤ offset ∧ offset < 0x240)

/-- Whether an admin entry carries the code of its row (R191). -/
def entryHasCode (e : Entry) (code : Nat) : Bool := AdminEntry.opcode e == code

/-- Whether a command is well formed. -/
def Instr.wellFormed : Instr → Bool
  | .registerWrite offset width _ => accessWellFormed offset width && !ownRow offset
  | .fetchReadComplete _ entries => decide (1 ≤ entries.length ∧ entries.length ≤ 8)
  | .invalidCommand _ e => !knownAdminCode (AdminEntry.opcode e)
  | .identify _ e => entryHasCode e 0x01
  | .createResultRing _ e => entryHasCode e 0x02
  | .createWorkRing _ e => entryHasCode e 0x03
  | .deleteWorkRing _ e => entryHasCode e 0x04
  | .deleteResultRing _ e => entryHasCode e 0x05
  | .pauseRing _ e => entryHasCode e 0x06
  | .resumeRing _ e => entryHasCode e 0x07
  | .defineRegion _ e => entryHasCode e 0x08
  | .retireRegion _ e => entryHasCode e 0x09
  | .flushRegion _ e => entryHasCode e 0x0A
  | .armProbe _ e => entryHasCode e 0x0B
  | .disarmProbe _ e => entryHasCode e 0x0C
  | .readFaultLog _ e => entryHasCode e 0x0D
  | .releaseFaultLog _ e => entryHasCode e 0x0E
  | .setFaultPolicy _ e => entryHasCode e 0x0F
  | .listPoison _ e => entryHasCode e 0x10
  | .setCleaner _ e => entryHasCode e 0x11
  | .powerOnReset _ _ | .powerOnReady | .linkReset | .reset _ _ | .resetEnd | .enable _ | .adminMsgEn _ | .post _ _
  | .adminPost _ | .release _ _ | .adminRelease _ | .pendingNoticePost | .fetchReadIssue _ | .fetchReadFailure _
  | .update | .fetch | .store | .fence | .nop | .bundle | .unknownOpcode | .slotGrant | .storeReadComplete _ _
  | .storeReadFailure _ | .fillComplete _ _ | .fillUncorrectable _ _ | .updateCommit _ | .fetchCommit _
  | .storeCommit _ | .bundleCommit _ | .hostBufferWriteComplete _ | .hostBufferWriteFailure _
  | .resultWriteFailure _ | .statusWriteComplete _ | .statusWriteFailure _ | .coalescingExpiry _ | .stallExpiry _
  | .cleanerExpiry _ | .writeBackComplete _ | .regionFillComplete | .regionFillStopped _ | .adminReadIssue
  | .adminReadFailure _ | .adminBufferWriteComplete _ | .adminBufferWriteFailure _ | .adminResultWriteFailure _ => true

end Sys2Proof
end

