-- ==== Sys2Proof/Tests/Slice0.lean ====
section
/-! SUPPORT. Tests of the model. Expected values come from the data sheet: its examples and its tables. A theorem
`test_…` checks one event on a small state; a theorem `witness_…` shows states and operands that meet the hypotheses of
the statement whose name it carries, clause by clause. -/

set_option Elab.async false

namespace Sys2Proof.Tests

open Sys2Proof Sys2Proof.Machine

/-! ## Entries and states -/

/-- An entry that begins with the given bytes, the rest 0. -/
def entryOf (l : List Byte) : Entry := ⟨((l ++ List.replicate 128 0).take 128).toArray, by simp⟩

/-- The four bytes of a number, least significant first. -/
def le4 (n : Nat) : List Byte :=
  [BitVec.ofNat 8 n, BitVec.ofNat 8 (n / 256), BitVec.ofNat 8 (n / 65536), BitVec.ofNat 8 (n / 16777216)]

/-- Eight numbers from a list, the rest 0. -/
def eight (l : List Nat) : List Nat := (l ++ List.replicate 8 0).take 8

/-- A work entry laid out as R188 gives it. `index` is the record index, `dest` the destination index; the arms are
codes and the operand blocks words, lane 0 first; the host buffer stands at 9000h and the tag is 0777h. -/
def work (op : Byte) (flags region mf gf lane : Byte := 0) (index dest keyA keyB mask operand : Nat := 0)
    (pass els a b : List Nat := []) : Entry :=
  entryOf ([op, flags, 0x77, 0x07, region, mf, gf, lane] ++ le4 index ++ le4 dest ++ le4 keyA ++ le4 keyB ++ le4 mask ++
    le4 operand ++ [0, 0x90, 0, 0, 0, 0, 0, 0] ++ (eight pass).map (BitVec.ofNat 8) ++
    (eight els).map (BitVec.ofNat 8) ++ (eight a).flatMap le4 ++ (eight b).flatMap le4)

/-- An admin entry laid out as R191 gives it, with tag 1234h, addresses below 2^32, and no pattern. -/
def admin (op : Byte) (w0 addrA w1 w2 w3 w4 w5 addrB dataD : Nat := 0) : Entry :=
  entryOf ([op, 0, 0x34, 0x12] ++ le4 w0 ++ le4 addrA ++ [0, 0, 0, 0] ++ le4 w1 ++ le4 w2 ++ le4 w3 ++ le4 w4 ++
    le4 w5 ++ [0, 0, 0, 0] ++ le4 addrB ++ [0, 0, 0, 0] ++ le4 dataD)

/-- "None" for a lane, and ALL for FLUSH_REGION (R191). -/
def allOnes : Nat := 0xFFFFFFFF

/-- A record with the given lanes. -/
def record (l0 l1 l2 l3 l4 l5 l6 l7 : Lane := 0) : Record := #v[l0, l1, l2, l3, l4, l5, l6, l7]

/-- The state after a command that gives one. -/
def after (c : Instr) (s : State) : State :=
  match exec c s with
  | .next t => t
  | _ => s

/-- What the part writes to the host in a state, oldest first. -/
def bodies (s : State) : List (List Byte) := s.link.transfers.map Transfer.body

/-- The region 0 of the data sheet's examples: key lanes L0 and L1, version lane L7, auto-version on. -/
def region0 : Region :=
  { phase := .active, base := 0, count := 4194304, keyA := some 0, keyB := some 1, versionLane := some 7,
    autoVersion := true }

/-- The region 1 of the data sheet's examples: no key lanes, no version lane. -/
def region1 : Region :=
  { phase := .active, base := 4194304, count := 16777216, keyA := none, keyB := none, versionLane := none,
    autoVersion := false }

/-- The region 2 of the data sheet's examples: key lane A L0, version lane L1. -/
def region2 : Region :=
  { phase := .active, base := 20971520, count := 1048576, keyA := some 0, keyB := none, versionLane := some 1,
    autoVersion := false }

/-- A work ring of 16 slots bound to result ring 1. -/
def plainRing : WorkRing :=
  { phase := .active, base := 0x100000, size := 16, boundTo := 0, weight := 2, inFlightLimit := 4, post := 0, fetch := 0,
    take := 0, retire := 0, prefetch := [], fetchRead := none, fetchStale := false, fetchHeld := false,
    outstanding := [], credit := 2 }

/-- A result ring of 16 slots, with messages enabled and coalescing by 4 or 200 microseconds. -/
def plainResult : ResultRing :=
  { base := 0x200000, size := 16, produce := 0, release := 0, reserved := 0, serial := 0, msgAddr := 0x50000,
    msgData := 77, msgEnabled := true, coalesceCount := 4, coalesceTime := 200, stallLimit := 50, unsignalled := 0,
    firstUnsignalled := none, stall := .idle }

/-- Admin rings of 16 slots each, with no command. -/
def plainAdmin : AdminRings :=
  { workBase := 0x10000, workSize := 16, resultBase := 0x20000, resultSize := 16, statusBase := 0x30000, post := 0,
    consumer := 0, command := .none, produce := 0, release := 0, reserved := 0, serial := 0 }

/-- The part with regions 0 to 2, work ring 1, result ring 1 and open admin rings. -/
def base : State :=
  { State.reset with
    regs := { Registers.reset with enable := true }
    regions := ((State.reset.regions.set 0 region0).set 1 region1).set 2 region2
    rings := { Rings.reset with
      work := Rings.reset.work.set 0 (some plainRing), results := Rings.reset.results.set 0 (some plainResult) }
    admin := { phase := .opened, rings := some plainAdmin, notices := [] } }

/-- A state in which the link carries one transfer, number 0, issued at time 0. -/
def waiting (kind : TransferKind) (length : Nat) (s : State) : State :=
  { s with
    link :=
      { transfers :=
          [{ xfer := 0, kind := kind, addr := 0x5000, length := length, body := [], issued := 0, heeded := true }]
        next := 1 } }

/-- A state whose admin controller reads the entry in admin slot 0, as transfer 0. -/
def reading (s : State) : State :=
  (waiting .adminRead 128 s).setAdminRings (some { plainAdmin with post := 1, command := .reading, reserved := 1 })

/-- A state whose admin controller runs a command. -/
def running (e : Entry) (p : Progress) (s : State) : State :=
  s.setAdminRings (some { plainAdmin with post := 1, command := .running e p, reserved := 1 })

/-- A state in which work ring 1 holds these entries from slot 0 on, fetched. -/
def fetched (es : List Entry) (s : State) : State :=
  s.setWork 0 (some { plainRing with post := es.length, fetch := es.length, prefetch := es })

/-- A RESIDENT slot with a sound image, dirty since time 0 where it is dirty. -/
def resident (region : RegionId) (n : Nat) (lanes : Record) (dirty : LaneSet) (claims : List CtxId := []) : Slot :=
  { phase := .resident
      { image := Image.fresh lanes, dirty := dirty, dirtySince := if dirty = 0 then none else some 0, writeBack := false }
    record := n, region := region, claims := claims }

/-- A member of ring slot 3. -/
def member (e : Entry) (source : Nat) (destination : Option Nat := none) : Member :=
  { ringSlot := 3, entry := e, source := source, destination := destination, outcome := none, image := none }

/-- A context of work ring 1 that holds the given records of a region in slots 0, 1 and so on. -/
def context (phase : ContextPhase) (region : RegionId) (members : List Member) (records : List Nat) : Context :=
  { phase := phase, ring := 0, members := members
    records := records.zipIdx.map fun p => { record := p.1, region := region, slot := some (Fin.ofNat 64 p.2) }
    storeData := none, storeRead := false, hostWrites := 0 }

/-- Work ring 1 with the unit in slots 3 and on outstanding, and its results reserved. -/
def taken (n : Nat) (s : State) : State :=
  (s.setWork 0 (some { plainRing with
    post := 3 + n, fetch := 3 + n, take := 3 + n, retire := 3, outstanding := List.range' 3 n })).setResult 0
    (some { plainResult with reserved := n })

/-- Context 0 with one entry on record `n` of a region, which slot 0 holds. -/
def holding (phase : ContextPhase) (region : RegionId) (n : Nat) (e : Entry) (y : Slot) : State :=
  { taken 1 base with
    contexts := base.contexts.set 0 (some (context phase region [member e n] [n]))
    cache := { base.cache with
      slots := base.cache.slots.set 0 (some y), recency := if y.isResident then [0] else [] } }

/-- Context 0 READY with one entry on record `n` of a region, which slot 0 holds clean with the given lanes. -/
def readyOn (region : RegionId) (n : Nat) (e : Entry) (lanes : Record) : State :=
  holding .ready region n e (resident region n lanes 0 [0])

/-! ## Well-formed commands -/

theorem smoke_registerWrite_aligned : Instr.wellFormed (.registerWrite 0x012 .word32 0) = false := by decide
theorem smoke_registerWrite_window : Instr.wellFormed (.registerWrite 0x400 .word32 0) = false := by decide
theorem smoke_registerWrite_wide_aligned : Instr.wellFormed (.registerWrite 0x014 .word64 0) = false := by decide
theorem smoke_registerWrite_wide_window : Instr.wellFormed (.registerWrite 0x400 .word64 0) = false := by decide
theorem smoke_registerWrite_control : Instr.wellFormed (.registerWrite 0x004 .word32 0) = false := by decide
theorem smoke_registerWrite_post : Instr.wellFormed (.registerWrite 0x13C .word32 0) = false := by decide
theorem smoke_registerWrite_release : Instr.wellFormed (.registerWrite 0x200 .word32 0) = false := by decide
theorem smoke_registerWrite_fine : Instr.wellFormed (.registerWrite 0x3F8 .word64 0) = true := by decide
theorem smoke_fetchRead_empty : Instr.wellFormed (.fetchReadComplete 0 []) = false := by decide
theorem smoke_fetchRead_nine :
    Instr.wellFormed (.fetchReadComplete 0 (List.replicate 9 (work 5))) = false := by decide +kernel
theorem smoke_invalidCommand : Instr.wellFormed (.invalidCommand 0 (admin 0x11)) = false := by decide +kernel
theorem smoke_admin_codes :
    ([.identify 0 (admin 0x02), .createResultRing 0 (admin 0x01), .createWorkRing 0 (admin 0x01),
      .deleteWorkRing 0 (admin 0x01), .deleteResultRing 0 (admin 0x01), .pauseRing 0 (admin 0x01),
      .resumeRing 0 (admin 0x01), .defineRegion 0 (admin 0x01), .retireRegion 0 (admin 0x01),
      .flushRegion 0 (admin 0x01), .armProbe 0 (admin 0x01), .disarmProbe 0 (admin 0x01),
      .readFaultLog 0 (admin 0x01), .releaseFaultLog 0 (admin 0x01), .setFaultPolicy 0 (admin 0x01),
      .listPoison 0 (admin 0x01), .setCleaner 0 (admin 0x01)] : List Instr).all (fun c => !c.wellFormed) = true := by
  decide +kernel
theorem smoke_identify_fine : Instr.wellFormed (.identify 0 (admin 0x01)) = true := by decide +kernel

/-! ## Resets and registers -/

theorem test_powerOnReset :
    (after (.powerOnReset true false) base).store.size = 134217728 ∧
      readRegister (after (.powerOnReset true false) base) 0x008 = 2 := by decide +kernel
theorem test_powerOnReady :
    readRegister (after .powerOnReady { base with resetPhase := .powerOn }) 0x008 = 1 := by decide +kernel
theorem test_linkReset :
    (after .linkReset base).rings.work[0] = none ∧ readRegister (after .linkReset base) 0x008 = 2 := by decide +kernel
theorem test_reset :
    (after (.reset false true) base).regs.adminMsgEn = true ∧
      readRegister (after (.reset false true) base) 0x008 = 2 := by decide +kernel
theorem test_resetEnd :
    let s : State := { State.reset with resetPhase := .functionReset, faults := { FaultUnit.reset with failed := true } }
    readRegister (after .resetEnd s) 0x008 = 1 := by decide +kernel
theorem test_enable :
    let s := State.reset.setRegs { Registers.reset with adminSizes := 0x01000010, adminWorkBase := 0x10080 }
    (after (.enable false) s).admin.rings.map (fun a => (a.workSize, a.resultSize)) = some (16, 256) := by decide +kernel
theorem test_enable_invalid : readRegister (after (.enable false) State.reset) 0x008 = 0x11 := by decide +kernel
theorem test_adminMsgEn : readRegister (after (.adminMsgEn true) State.reset) 0x004 = 4 := by decide +kernel
theorem test_registerWrite_high_half :
    let s := after (.registerWrite 0x014 .word32 0x12345678) State.reset
    readRegister s 0x010 = 0 ∧ readRegister s 0x014 = 0x12345678 ∧ s.regs.adminWorkBase = 0x1234567800000000 := by
  decide +kernel
theorem test_readRegister64 :
    let s := after (.registerWrite 0x014 .word32 0x12345678) (after (.registerWrite 0x010 .word32 0x9ABCDE80) State.reset)
    readRegister64 s 0x010 = 0x123456789ABCDE80 := by decide +kernel
theorem test_registerWrite_enabled : (after (.registerWrite 0x020 .word32 1) base).regs = base.regs := by decide +kernel

/-- R122: an index of N or above is invalid. -/
theorem test_post_invalid :
    (after (.post 0 16) base).faults.capture =
      some { cls := .hostProtocol, source := .workRing 0, value := some 16 } := by decide +kernel

/-- R123: a post index moved back withdraws the last of two prefetched entries. -/
theorem test_post_withdraws :
    ((after (.post 0 1) (fetched [work 5, work 4] base)).rings.work[0]).map
      (fun w => (w.post, w.fetch, w.prefetch.length)) = some (1, 1, 1) := by decide +kernel

theorem test_adminPost :
    (after (.adminPost 1) base).link.transfers.map (fun x => (x.kind, x.addr, x.length)) =
      [(.adminRead, 0x10000, 128)] := by decide +kernel
theorem test_release :
    let s := base.setResult 0 (some { plainResult with produce := 3 })
    ((after (.release 0 3) s).rings.results[0]).map ResultRing.credit = some 15 ∧
      (after (.release 0 4) s).faults.seen = 0x200 := by decide +kernel

/-- The admin result ring full, with one notice listed twice. -/
def fullAdmin : State :=
  (base.setAdminRings (some { plainAdmin with produce := 15, serial := 0xFFFFFF })).setNotices
    [{ notice := .resultStall 2, repeats := 2 }]

theorem test_adminRelease :
    bodies (after (.adminRelease 1) fullAdmin) = [[3, 2, 0, 0, 0, 0, 0, 0, 0, 0, 0, 0, 4, 0xFF, 0xFF, 0xFF]] ∧
      (after (.adminRelease 1) fullAdmin).admin.notices = [] := by decide +kernel
theorem test_pendingNoticePost_full : after .pendingNoticePost fullAdmin = fullAdmin := by decide +kernel
theorem test_pendingNoticePost :
    bodies (after .pendingNoticePost (base.setNotices [{ notice := .probeHit 2, repeats := 1 }])) =
      [[2, 1, 0, 0, 0, 0, 0, 0, 0, 0, 0, 0, 1, 0, 0, 0]] := by decide +kernel

/-! ## Fetches -/

theorem test_fetchReadIssue :
    (after (.fetchReadIssue 0) (base.setWork 0 (some { plainRing with post := 2, fetch := 15 }))).link.transfers.map
      (fun x => (x.kind, x.addr, x.length)) = [(.fetchRead 0, 0x100780, 128)] := by decide +kernel

/-- Work ring 1 while it reads the entry in slot 15. -/
def reading15 : State :=
  waiting (.fetchRead 0) 128 (base.setWork 0 (some { plainRing with
    post := 2, fetch := 15, take := 15, retire := 15, fetchRead := some { first := 15, count := 1 } }))

theorem test_fetchReadComplete :
    let t := after (.fetchReadComplete 0 [work 5]) reading15
    (t.rings.work[0]).map (fun w => (w.fetch, w.prefetch.length)) = some (0, 1) ∧
      t.link.transfers.map Transfer.length = [256] := by decide +kernel
theorem test_fetchReadFailure :
    let t := after (.fetchReadFailure 0) reading15
    (t.rings.work[0]).map (fun w => (w.phase, w.fetch, w.fetchHeld)) = some (.halted, 15, true) ∧
      t.faults.capture = some { cls := .hostRead, source := .workRing 0, slotIndex := some 15 } := by decide +kernel

/-! ## Takes: the data sheet's example of a stream of entries -/

theorem test_update_taken :
    ((after .update (fetched [work 1 (region := 1) (index := 5) (pass := [0, 0, 8])] base)).contexts[0]).map
      Context.recordNumbers = some [4194309] := by decide +kernel
theorem test_update_version_lane :
    let t := after .update (fetched [work 1 (region := 0) (index := 17) (pass := [0, 0, 0, 0, 0, 0, 0, 8])] base)
    (bodies t).take 2 = [[0x77, 0x07, 0, 0x10, 1, 0, 0, 0, 0, 0, 0, 0, 0, 0, 0, 0], [1, 0, 0, 0, 0, 0, 0, 0]] ∧
      (t.faults.capture.bind RaisedFault.code) = some 5 := by decide +kernel
theorem test_fetch_inactive :
    let t := after .fetch (fetched [work 2 (region := 5)] base)
    bodies t = [[0x77, 0x07, 0, 0x10, 2, 0, 0, 0, 0, 0, 0, 0, 0, 0, 0, 0], [1, 0, 0, 0, 0, 0, 0, 0]] ∧
      t.faults.capture = none := by decide +kernel
theorem test_store_taken :
    (after .store (fetched [work 3 (region := 1) (index := 16777215)] base)).link.transfers.map
      (fun x => (x.kind, x.addr, x.length)) = [(.storeRead 0, 0x9000, 32)] := by decide +kernel
theorem test_fence_waits : ∀ s, s = taken 1 base → after .fence s = s := by
  intro s h; subst h; decide +kernel
theorem test_fence :
    bodies (after .fence (fetched [work 4] base)) =
      [[0x77, 0x07, 0, 0x10, 0, 0, 0, 0, 0, 0, 0, 0, 0, 0, 0, 0], [1, 0, 0, 0, 0, 0, 0, 0]] := by decide +kernel
theorem test_nop :
    bodies (after .nop (fetched [work 5] base)) =
      [[0x77, 0x07, 0, 0x10, 0, 0, 0, 0, 0, 0, 0, 0, 0, 0, 0, 0], [1, 0, 0, 0, 0, 0, 0, 0]] := by decide +kernel
theorem test_bundle_conflict :
    let t := after .bundle (fetched [work 1 (flags := 1) (region := 1) (index := 100),
      work 1 (flags := 2) (region := 1) (index := 300) (dest := 100)] base)
    (bodies t).take 3 = [[0x77, 0x07, 0, 0x10, 7, 0x10, 0, 0, 0, 0, 0, 0, 0, 0, 0, 0],
      [0x77, 0x07, 1, 0x10, 7, 0x14, 0, 0, 0, 0, 0, 0, 1, 0, 0, 0], [2, 0, 0, 0, 0, 0, 0, 0]] ∧
      (t.faults.capture.bind RaisedFault.record) = some 4194404 := by decide +kernel
theorem test_bundle_abandoned :
    ((bodies (after .bundle (fetched [work 1 (flags := 1) (region := 1) (index := 7),
      work 1 (flags := 1) (region := 0) (index := 4194304), work 1 (region := 1) (index := 8)] base))).take 3).map
        (fun b => (b.getD 4 0, b.getD 5 0)) = [(8, 0x20), (3, 0x24), (8, 0x28)] := by decide +kernel
theorem test_unknownOpcode :
    let t := after .unknownOpcode (fetched [work 6] base)
    (bodies t).take 2 = [[0x77, 0x07, 0, 0x10, 1, 0, 0, 0, 0, 0, 0, 0, 0, 0, 0, 0], [1, 0, 0, 0, 0, 0, 0, 0]] ∧
      (t.faults.capture.bind RaisedFault.code) = some 1 := by decide +kernel

/-! ## Grants, STORE reads and fills -/

/-- Context 0 waits for its slot, with one entry on record 7 of region 2. -/
def asking (e : Entry) : State :=
  { taken 1 base with
    contexts := base.contexts.set 0 (some { context .allocating 2 [member e 20971527] [] with
      records := [{ record := 20971527, region := 2, slot := none }] })
    cache := { base.cache with requests := [0] } }

theorem test_slotGrant :
    let t := after .slotGrant (asking (work 1 (region := 2) (index := 7)))
    t.store.jobs = [.fill 0 20971527] ∧ (t.cache.slots[0]).map Slot.claims = some [0] ∧ t.cache.requests = [] := by
  decide +kernel
theorem test_slotGrant_poisoned :
    let t := after .slotGrant ((asking (work 1 (region := 2) (index := 7))).setPoison [20971527])
    t.contexts[0] = none ∧ t.store.jobs = [] ∧ t.faults.seen = 8 ∧
      bodies t = [[0x77, 0x07, 3, 0x10, 4, 0, 0, 0, 0, 0, 0, 0, 0, 0, 0, 0], [4, 0, 0, 0, 0, 0, 0, 0]] := by
  decide +kernel

/-- A STORE that heads the AWAITING_STORE slot of a poisoned record, its host read in flight. -/
def storing : State :=
  let e := work 3 (region := 2) (index := 7)
  let s := holding .claiming 2 20971527 e { phase := .awaitingStore, record := 20971527, region := 2, claims := [0] }
  waiting (.storeRead 0) 32
    ((s.setContext 0 (some { context .claiming 2 [member e 20971527] [20971527] with storeRead := true })).setPoison
      [20971527])

theorem test_storeReadComplete :
    let t := after (.storeReadComplete 0 (Vector.ofFn fun i => BitVec.ofNat 8 i.val)) storing
    ((t.contexts[0]).map fun x => (x.phase, x.storeData)) = some (.ready, some (record 0x03020100 0x07060504 0x0B0A0908
      0x0F0E0D0C 0x13121110 0x17161514 0x1B1A1918 0x1F1E1D1C)) := by decide +kernel
theorem test_storeReadFailure :
    let t := after (.storeReadFailure 0) storing
    t.cache.slots[0] = none ∧ t.store.poison = [20971527] ∧
      (bodies t).take 2 = [[0x77, 0x07, 3, 0x10, 6, 0, 0, 0, 0, 0, 0, 0, 0, 0, 0, 0], [4, 0, 0, 0, 0, 0, 0, 0]] := by
  decide +kernel

/-- Context 0 heads the FILLING slot of record 7 of region 2, whose words the part has written. -/
def filling (lanes : Record) : State :=
  let s := holding .claiming 2 20971527 (work 1 (region := 2) (index := 7))
    { phase := .filling, record := 20971527, region := 2, claims := [0] }
  s.setStore { writeLanes s.store 20971527 lanes allLanes with jobs := [.fill 0 20971527] }

/-- R106: one bit in error in the third word is corrected, and the slot becomes fully dirty. -/
theorem test_fillComplete_corrected :
    let t := after (.fillComplete 0 #v[0, 0, 0x10, 0]) (filling (record 1 2 3 4 5 6 7 8))
    ((t.cache.slots[0]).bind Slot.content).map (fun c => (c.image.lanes, c.dirty)) =
      some (record 1 2 3 4 5 6 7 8, 0xFF) ∧ t.faults.seen = 0x10 ∧ t.store.jobs = [] := by decide +kernel

/-- R105: the corrected word stays erroneous in DRAM: a later fill that finds no further error corrects it again, and a
further bit in error makes it uncorrectable. -/
theorem test_corrected_word_stays :
    let t := after (.fillComplete 0 #v[0, 0, 0x10, 0]) (filling (record 1 2 3 4 5 6 7 8))
    fillCorrected t.store 20971527 #v[0, 0, 0, 0] = 4 ∧ fillBad t.store 20971527 #v[0, 0, 0x20, 0] = 4 ∧
      (writeLanes t.store 20971527 (record) allLanes).errors = [] := by decide +kernel

/-- R107 and R111: two bits in error in the last word. -/
theorem test_fillUncorrectable :
    let t := after (.fillUncorrectable 0 #v[0, 0, 0, 0x11]) (filling (record 1 2 3 4 5 6 7 8))
    t.cache.slots[0] = none ∧ t.store.poison = [20971527] ∧ t.contexts[0] = none ∧
      (bodies t).take 2 = [[0x77, 0x07, 3, 0x10, 5, 0, 0, 0, 0, 0, 0, 0, 0, 0, 0, 0], [4, 0, 0, 0, 0, 0, 0, 0]] ∧
      (t.faults.capture.map fun f => (f.cls, f.code)) = some (.mediaUncorrectable, some 8) := by decide +kernel

/-! ## Lane operations and commits: the data sheet's examples -/

/-- "Counters held at a ceiling". -/
theorem test_addSat_ceiling :
    addSat 0x000F3E58 0x00000BB8 0x000F4240 = { value := 0x000F4240, floor := false, ceiling := true } ∧
      addSat 0x000F4628 0x0000000A 0x000F4240 = { value := 0x000F4628, floor := false, ceiling := true } ∧
      addSat 0xFFFFFFF0 0x00000020 0xFFFFFFFF = { value := 0xFFFFFFFF, floor := false, ceiling := true } := by decide

/-- "Quota deduction with a floor". -/
def quota : Entry :=
  work 1 (region := 0) (mf := 2) (gf := 7) (lane := 3) (index := 9000) (keyA := 0xA31C) (keyB := 2)
    (mask := 0xFFFFFFFF) (operand := 500) (pass := [0, 0, 0, 10, 8]) (a := [0, 0, 0, 500, 500])

theorem test_updateCommit_quota :
    let t := after (.updateCommit 0) (readyOn 0 9000 quota (record 0xA31C 2 0 5000 50000 0 0 0x11))
    ((t.cache.slots[0]).bind Slot.content).map (fun c => (c.image.lanes, c.dirty)) =
      some (record 0xA31C 2 0 4500 50500 0 0 0x12, 0x98) ∧
      bodies t = [[0x77, 0x07, 3, 0x10, 0, 1, 1, 0x98, 0x12, 0, 0, 0, 0, 0, 0, 0], [4, 0, 0, 0, 0, 0, 0, 0]] := by
  decide +kernel
theorem test_updateCommit_short_quota :
    let t := after (.updateCommit 0) (readyOn 0 9000 quota (record 0xA31C 2 0 300 50000 0 0 0x20))
    (t.cache.slots[0]).bind Slot.content = some (Resident.entered (record 0xA31C 2 0 300 50000 0 0 0x20) 0 0) ∧
      bodies t = [[0x77, 0x07, 3, 0x10, 0, 3, 0, 0, 0x20, 0, 0, 0, 0, 0, 0, 0], [4, 0, 0, 0, 0, 0, 0, 0]] := by
  decide +kernel

/-- "Soft limit through the else arm". -/
theorem test_else_arm :
    let e := work 1 (flags := 4) (region := 0) (mf := 2) (gf := 7) (lane := 3) (keyA := 0xA31C) (keyB := 2)
      (mask := 0xFFFFFFFF) (operand := 100) (pass := [0, 0, 0, 10]) (els := [0, 0, 0, 0, 0, 9, 4])
      (a := [0, 0, 0, 100, 0, 1, 1]) (b := [0, 0, 0, 0, 0, 10])
    let pre := record 0xA31C 2 0 0x40 0 3 0 0x30
    updateVerdict region0 e pre = .magnitudeFail ∧ chosenArm e .magnitudeFail = some .els ∧
      armImage region0 e .els pre = record 0xA31C 2 0 0x40 0 4 1 0x31 ∧ armWritten region0 e .els = 0xE0 ∧
      armFloor e .els pre = false ∧ armCeiling e .els pre = false := by decide +kernel

/-- "Snapshot by redirect". -/
theorem test_redirect :
    let e := work 1 (flags := 10) (region := 2) (mf := 2) (index := 20) (dest := 1020) (keyA := 0xC0F)
      (pass := [0, 0, 0, 0, 0, 0, 0, 2]) (a := [0, 0, 0, 0, 0, 0, 0, 0x6A5F1E00])
    let pre := record 0xC0F 7 0x10000 0xFF 0 0 1 0
    updateVerdict region2 e pre = .pass ∧ armWritten region2 e .pass = 0xFF ∧
      armImage region2 e .pass pre = record 0xC0F 7 0x10000 0xFF 0 0 1 0x6A5F1E00 ∧
      versionWordOf region2 (armImage region2 e .pass pre) = 7 := by decide +kernel

theorem test_fetchCommit :
    let t := after (.fetchCommit 0) (readyOn 2 20971527 (work 2 (region := 2) (mf := 2) (index := 7) (keyA := 9))
      (record 9 0x01020304))
    t.link.transfers.map (fun x => (x.kind, x.addr, x.body.take 8)) =
      [(.buffer 0 0, 0x9000, [9, 0, 0, 0, 4, 3, 2, 1])] ∧
      (t.contexts[0]).map Context.phase = some .hostWrite := by decide +kernel
theorem test_storeCommit :
    let t := after (.storeCommit 0)
      (after (.storeReadComplete 0 (Vector.replicate 32 0xAB)) storing)
    t.store.poison = [] ∧ ((t.cache.slots[0]).bind Slot.content).map (fun c => (c.image.lanes[7], c.dirty)) =
      some (0xABABABAB, 0xFF) ∧
      bodies t = [[0x77, 0x07, 3, 0x10, 0, 0, 1, 0xFF, 0xAB, 0xAB, 0xAB, 0xAB, 0, 0, 0, 0],
        [4, 0, 0, 0, 0, 0, 0, 0]] := by decide +kernel

/-- "A Bundle Transfer with a Competing Update": the bundle alone, with the balances of records 1,200 and 7. -/
def transfer (balance : Lane) : State :=
  let from1200 := work 1 (flags := 1) (region := 2) (mf := 2) (gf := 7) (lane := 3) (index := 1200) (keyA := 0x4B0)
    (mask := 0xFFFFFFFF) (operand := 500) (pass := [0, 8, 0, 10]) (a := [0, 1, 0, 500])
  let to7 := work 1 (region := 2) (mf := 2) (index := 7) (keyA := 7) (pass := [0, 8, 0, 9]) (a := [0, 1, 0, 500])
    (b := [0, 0, 0, 0xFFFFFFFF])
  { taken 2 base with
    contexts := base.contexts.set 0 (some (context .ready 2
      [member from1200 20972720, { member to7 20971527 with ringSlot := 4 }] [20971527, 20972720]))
    cache := { base.cache with
      slots := (base.cache.slots.set 0 (some (resident 2 20971527 (record 7 9 0 100) 0 [0]))).set 1
        (some (resident 2 20972720 (record 0x4B0 0x15 0 balance) 0 [0]))
      recency := [0, 1] } }

theorem test_bundleCommit :
    let t := after (.bundleCommit 0) (transfer 2000)
    (((t.cache.slots[0]).bind Slot.content).map fun c => c.image.lanes) = some (record 7 10 0 600) ∧
      (((t.cache.slots[1]).bind Slot.content).map fun c => c.image.lanes) = some (record 0x4B0 0x16 0 1500) := by
  decide +kernel
theorem test_bundleCommit_withheld :
    let t := after (.bundleCommit 0) (transfer 499)
    (((t.cache.slots[0]).bind Slot.content).map fun c => c.image.lanes) = some (record 7 9 0 100) ∧
      (bodies t).map (fun b => (b.getD 5 0, b.getD 6 0, b.getD 7 0, b.getD 8 0)) =
        [(0x13, 0x10, 0, 0x15), (0x15, 0x10, 0, 9), (0, 0, 0, 0)] := by decide +kernel

/-! ## Ends of host writes -/

/-- Context 0 in HOST_WRITE with the write of its FETCH in flight. -/
def copying : State :=
  let m : Member := { member (work 2 (region := 2) (index := 7)) 20971527 with
    outcome := some { MemberOutcome.untested .success with verdict := .pass, versionWord := 5 }
    image := some (record) }
  waiting (.buffer 0 0) 32 ((taken 1 base).setContext 0
    (some { context .hostWrite 2 [m] [] with hostWrites := 1 }))

theorem test_hostBufferWriteComplete :
    bodies (after (.hostBufferWriteComplete 0) copying) =
      [[0x77, 0x07, 3, 0x10, 0, 1, 0x20, 0, 5, 0, 0, 0, 0, 0, 0, 0], [4, 0, 0, 0, 0, 0, 0, 0]] := by decide +kernel
theorem test_hostBufferWriteFailure :
    let t := after (.hostBufferWriteFailure 0) copying
    (bodies t).take 2 = [[0x77, 0x07, 3, 0x10, 6, 1, 0, 0, 5, 0, 0, 0, 0, 0, 0, 0], [4, 0, 0, 0, 0, 0, 0, 0]] ∧
      (t.rings.work[0]).map WorkRing.phase = some .halted := by decide +kernel
theorem test_resultWriteFailure :
    readRegister (after (.resultWriteFailure 0) (waiting (.result 0 2 5) 16 base)) 0x008 = 0xD := by decide +kernel
theorem test_statusWriteComplete :
    let s := waiting (.status 1 4) 8 (base.setStatus 1 (.inFlight (some 7)))
    (after (.statusWriteComplete 0) s).link.transfers.map (fun x => (x.addr, x.body)) =
      [(0x30008, [7, 0, 0, 0, 0, 0, 0, 0])] := by decide +kernel
theorem test_statusWriteFailure :
    (after (.statusWriteFailure 0) (waiting (.status 1 4) 8 (base.setStatus 1 (.inFlight none)))).faults.capture =
      some { cls := .hostRingWrite, source := .workRing 0, value := some 4 } := by decide +kernel
theorem test_adminResultWriteFailure :
    readRegister (after (.adminResultWriteFailure 0) (waiting (.adminResult 2 5) 16 base)) 0x008 = 0xD := by
  decide +kernel

/-! ## Expiries and jobs -/

theorem test_coalescingExpiry :
    let q := { plainResult with unsignalled := 1, firstUnsignalled := some 100 }
    bodies (after (.coalescingExpiry 0) { base.setResult 0 (some q) with now := 300 }) = [[77, 0, 0, 0]] ∧
      bodies (after (.coalescingExpiry 0) { base.setResult 0 (some q) with now := 299 }) = [] := by decide +kernel
theorem test_stallExpiry :
    let t := after (.stallExpiry 0)
      { base.setResult 0 (some { plainResult with stall := .timing 1000 }) with now := 51000 }
    bodies t = [[1, 1, 0, 0, 0, 0, 0, 0, 0, 0, 0, 0, 4, 0, 0, 0]] ∧ t.faults.seen = 0x400 ∧
      (t.rings.results[0]).map ResultRing.stall = some .expired := by decide +kernel

/-- Slot 0 dirty since time 0, unclaimed. -/
def dirtySlot : State :=
  { base with cache := { base.cache with
      slots := base.cache.slots.set 0 (some (resident 2 20971527 (record 1 2 3 4 5 6 7 8) 0x04)), recency := [0] } }

theorem test_cleanerExpiry :
    (after (.cleanerExpiry 0) { dirtySlot with now := 100000 }).store.jobs =
      [.writeBack 0 20971527 (record 1 2 3 4 5 6 7 8) 0x04] ∧
      (after (.cleanerExpiry 0) { dirtySlot with now := 99999 }).store.jobs = [] := by decide +kernel

/-- R108: a dirty lane L2 writes the word of L2 and L3, and no other. -/
theorem test_writeBackComplete :
    let t := after (.writeBackComplete 0) (after (.cleanerExpiry 0) { dirtySlot with now := 100000 })
    t.store.dram = [(671088872, 3), (671088873, 0), (671088874, 0), (671088875, 0), (671088876, 4), (671088877, 0),
      (671088878, 0), (671088879, 0)] ∧ t.store.jobs = [] := by decide +kernel

/-- Region 3 FILLING: two records, 30,000,000 and 30,000,001. -/
def fillingRegion : State :=
  running (admin 0x08 (w0 := 3)) (.regionFill 3) ((base.setRegion 3 { Region.cleared with
    phase := .filling, base := 30000000, count := 2 }).setStore { base.store with
      poison := [29999999, 30000001]
      jobs := [.regionFill 30000000 30000001 (record 5) 30000000] })

/-- R109: the job's next record advances with each record written; the last one is left for the job's end. -/
theorem test_regionFill_advances :
    let t := advanceRegionFill 7 fillingRegion
    t.store.jobs = [.regionFill 30000000 30000001 (record 5) 30000001] ∧ t.store.dram.length = 32 ∧
      t.store.poison = [29999999, 30000001] := by decide +kernel
theorem test_regionFillComplete :
    let t := after .regionFillComplete fillingRegion
    t.store.dram.length = 64 ∧ t.store.poison = [29999999] ∧ t.regions[3].phase = .active ∧
      bodies t = [[0x34, 0x12, 0, 8, 0, 0, 0, 0, 0, 0, 0, 0, 0, 0, 0, 0], [1, 0, 0, 0, 0, 0, 0, 0]] := by decide +kernel
theorem test_regionFillStopped :
    let t := after (.regionFillStopped 30000000) (after .linkReset fillingRegion)
    t.store.dram.length = 32 ∧ t.store.poison = [29999999, 30000001] ∧ t.regions[3] = Region.cleared ∧
      t.store.jobs = [] := by decide +kernel

/-! ## Admin commands -/

theorem test_adminReadIssue :
    bodies (after .adminReadIssue (base.setAdminRings (some { plainAdmin with post := 1 }))) = [[]] := by decide +kernel
theorem test_adminReadFailure :
    readRegister (after (.adminReadFailure 0) (reading base)) 0x008 = 0x19 := by decide +kernel

/-- The result entry and the status block entry of a command with this opcode, status and value. -/
def answered (op status : Byte) (value : List Byte := [0, 0, 0, 0]) : List (List Byte) :=
  [[0x34, 0x12, 0, op, status, 0, 0, 0] ++ value ++ [0, 0, 0, 0], [1, 0, 0, 0, 0, 0, 0, 0]]

theorem test_invalidCommand :
    bodies (after (.invalidCommand 0 (admin 0x12)) (reading base)) = answered 0x12 1 := by decide +kernel
theorem test_identify :
    bodies (after (.identify 0 (admin 0x01)) (reading base)) =
      [[0x5C, 0x01, 0x6C, 0x12, 0, 0, 0, 2, 64, 0, 16, 15, 15, 4, 64, 0, 0, 0x10, 0, 0, 0, 0, 0, 0]] := by decide +kernel
theorem test_createResultRing :
    let e := admin 0x02 (w0 := 15) (addrA := 0x700010) (w1 := 4096) (w2 := 255) (w3 := 1000) (w4 := 0) (w5 := 1)
      (addrB := 0x60000) (dataD := 9)
    let t := after (.createResultRing 0 e) (reading base)
    (t.rings.results[14]).map (fun q => (q.base, q.size, q.coalesceCount, q.coalesceTime, q.stallLimit, q.msgData)) =
      some (0x700010, 4096, 255, 1000, 50, 9) ∧ bodies t = answered 0x02 0 := by decide +kernel
theorem test_createResultRing_count :
    bodies (after (.createResultRing 0 (admin 0x02 (w0 := 15) (w1 := 16))) (reading base)) = answered 0x02 2 := by
  decide +kernel
theorem test_createWorkRing_absent :
    bodies (after (.createWorkRing 0 (admin 0x03 (w0 := 2) (w1 := 16) (w2 := 7) (w3 := 8) (w4 := 16)))
      (reading base)) = answered 0x03 5 := by decide +kernel
theorem test_createWorkRing :
    ((after (.createWorkRing 0 (admin 0x03 (w0 := 2) (w1 := 16) (w2 := 1) (w3 := 8) (w4 := 16)))
      (reading base)).rings.work[1]).map (fun w => (w.boundTo, w.weight, w.inFlightLimit, w.credit)) =
      some (0, 8, 16, 8) := by decide +kernel
theorem test_deleteWorkRing_idle :
    let t := after (.deleteWorkRing 0 (admin 0x04 (w0 := 1))) (reading base)
    t.rings.work[0] = none ∧ bodies t = answered 0x04 0 := by decide +kernel
theorem test_deleteWorkRing_discards :
    let t := after (.deleteWorkRing 0 (admin 0x04 (w0 := 1) (w1 := 1))) (reading (taken 1 base))
    (t.rings.work[0]).map WorkRing.phase = some (.deleting .discard) ∧ bodies t = [] := by decide +kernel
theorem test_deleteResultRing :
    bodies (after (.deleteResultRing 0 (admin 0x05 (w0 := 1))) (reading base)) = answered 0x05 4 := by decide +kernel
theorem test_pauseRing :
    let t := after (.pauseRing 0 (admin 0x06 (w0 := 1))) (reading base)
    (t.rings.work[0]).map WorkRing.phase = some .paused ∧ bodies t = answered 0x06 0 := by decide +kernel
theorem test_resumeRing :
    let s := base.setWork 0 (some { plainRing with phase := .halted, fetchHeld := true })
    ((after (.resumeRing 0 (admin 0x07 (w0 := 1))) (reading s)).rings.work[0]).map
      (fun w => (w.phase, w.fetchHeld)) = some (.active, false) := by decide +kernel
theorem test_defineRegion_overlap :
    bodies (after (.defineRegion 0 (admin 0x08 (w0 := 3) (addrA := 22020095) (w1 := 1) (w2 := allOnes) (w3 := allOnes)
      (w4 := allOnes))) (reading base)) = answered 0x08 8 := by decide +kernel
theorem test_defineRegion :
    (after (.defineRegion 0 (admin 0x08 (w0 := 3) (addrA := 22020096) (w1 := 11534336) (w2 := 2) (w3 := allOnes)
      (w4 := 7) (w5 := 1))) (reading base)).regions[3] =
      { phase := .active, base := 22020096, count := 11534336, keyA := some 2, keyB := none, versionLane := some 7,
        autoVersion := true } := by decide +kernel
theorem test_retireRegion :
    let s := (reading base).setProbe 3 (.armed 2 0 5)
    let t := after (.retireRegion 0 (admin 0x09 (w0 := 2))) s
    t.regions[2] = Region.cleared ∧ t.probes[3] = .disarmed ∧ bodies t = answered 0x09 0 [1, 0, 0, 0] := by
  decide +kernel
theorem test_flushRegion :
    let t := after (.flushRegion 0 (admin 0x0A (w0 := allOnes))) (reading dirtySlot)
    runningProgress t = some (.flush [{ slot := 0, again := false }]) ∧ t.store.jobs.length = 1 ∧
      bodies (after (.writeBackComplete 0) t) = answered 0x0A 0 := by decide +kernel
theorem test_armProbe :
    (after (.armProbe 0 (admin 0x0B (w0 := 3) (w1 := 2) (w2 := 5) (w3 := 1048575))) (reading base)).probes[3] =
      .armed 2 5 1048575 := by decide +kernel
theorem test_disarmProbe :
    let s := (reading base).setProbe 1
      (.hit 2 5 9 { ring := 5, ringSlot := 0x123, tag := 0xBEEF, recordIndex := 7, versionWord := 0x01020304 })
    bodies (after (.disarmProbe 0 (admin 0x0C (w0 := 1))) s) =
      [[0x23, 0x61, 0xEF, 0xBE, 7, 0, 0, 0, 4, 3, 2, 1, 5, 0, 0, 0], [1, 0, 0, 0, 0, 0, 0, 0]] := by decide +kernel

/-- A fault log that holds an invalid post to work ring 1. -/
def heldFault : State :=
  base.setFaults { FaultUnit.reset with
    seen := 0x200, capture := some { cls := .hostProtocol, source := .workRing 0, value := some 0x10 } }

theorem test_readFaultLog :
    ((bodies (after (.readFaultLog 0 (admin 0x0D)) (reading heldFault))).map
      fun b => (b.length, b.take 8, (b.drop 20).take 4, b.drop 56)) =
      [(69, [1, 0, 0, 2, 9, 1, 1, 0x40], [0x10, 0, 0, 0], [0, 1, 0, 1, 1, 0, 2, 2, 2, 2, 1, 4, 4])] := by decide +kernel
theorem test_releaseFaultLog :
    let t := after (.releaseFaultLog 0 (admin 0x0E (w0 := 1))) (reading heldFault)
    t.faults.capture = none ∧ t.faults.seen = 0 ∧ bodies t = answered 0x0E 0 [1, 0, 0, 0] := by decide +kernel
theorem test_setFaultPolicy :
    let t := after (.setFaultPolicy 0 (admin 0x0F (w0 := 9) (w1 := 1))) (reading base)
    t.faults.policy .hostProtocol = { masked := true, severity := .advisory } ∧
      bodies t = answered 0x0F 0 [0, 1, 0, 0] := by decide +kernel
theorem test_setFaultPolicy_fixed :
    bodies (after (.setFaultPolicy 0 (admin 0x0F (w0 := 12) (w2 := 1))) (reading base)) =
      answered 0x0F 2 [0, 2, 0, 0] := by decide +kernel
theorem test_listPoison :
    bodies (after (.listPoison 0 (admin 0x10)) (reading (base.setPoison [513, 7]))) =
      [[2, 0, 0, 0, 1, 2, 0, 0, 7, 0, 0, 0]] := by decide +kernel
theorem test_setCleaner :
    let t := after (.setCleaner 0 (admin 0x11 (w0 := 1))) (reading { dirtySlot with now := 1000 })
    t.cache.ageLimit = 1 ∧ t.store.jobs.length = 1 ∧ bodies t = answered 0x11 0 [100, 0, 0, 0] := by decide +kernel
theorem test_adminBufferWriteComplete :
    bodies (after (.adminBufferWriteComplete 0) (waiting .adminBuffer 12 (running (admin 0x10) (.hostBuffer 2) base))) =
      answered 0x10 0 [2, 0, 0, 0] := by decide +kernel
theorem test_adminBufferWriteFailure :
    let t := after (.adminBufferWriteFailure 0) (waiting .adminBuffer 24 (running (admin 0x01) (.hostBuffer 0) base))
    (bodies t).take 2 = answered 0x01 11 ∧ (t.faults.capture.bind RaisedFault.code) = some 1 := by decide +kernel

/-! ## Witnesses: the machine, its invariants and its rules -/

theorem witness_StepRunsFront :
    State.reset.pending = [] ∧ step { base with pending := [.adminPost 1] } = exec (.adminPost 1) base :=
  ⟨rfl, rfl⟩
theorem witness_StepRunsFront_fill :
    fillingRegion.pending = [] ∧ fillingRegion.resetPhase ≠ .functionReset ∧
      fillingRegion.store.regionFillJob = some (30000000, 30000001, record 5, 30000000) ∧
      State.reset.store.regionFillJob = none := by decide +kernel

/-- A state with something in every block: two slots, a poisoned record, jobs, transfers, notices, a probe that has
hit, a captured fault, and a command in the queue. -/
def busy : State :=
  let s := waiting (.storeRead 1) 32 (transfer 2000)
  let x := context .claiming 2 [member (work 3 (region := 2) (index := 80)) 20971600] []
  let item : RecordItem := { record := 20971600, region := 2, slot := some 2 }
  let y : Slot := { phase := .awaitingStore, record := 20971600, region := 2, claims := [1] }
  let z : Slot := { phase := .filling, record := 20971700, region := 2, claims := [] }
  let notices : List PendingNotice := [{ notice := .probeHit 1, repeats := 255 }, { notice := .faultCaptured, repeats := 1 }]
  let hit : Probe := .hit 2 5 9 { ring := 0, ringSlot := 3, tag := 7, recordIndex := 7, versionWord := 2 }
  let fault : RaisedFault := { cls := .hostProtocol, source := .workRing 0, value := some 16 }
  let store : Store :=
    { s.store with dram := [(0, 1), (1, 2)], check := [(0, 0)], poison := [20971600, 5], jobs := [.fill 3 20971700] }
  let t := ((s.setContext 1 (some { x with records := [item], storeRead := true })).setSlot 2 (some y)).setSlot 3 (some z)
  let u := ((t.setStore store).setNotices notices).setProbe 1 hit
  { u.setFaults { s.faults with seen := 0x200, capture := some fault } with pending := [.bundleCommit 0] }

/-- The device of `busy` once it has FAILED. -/
def busyFailed : State := { enterFailed busy with pending := [.post 0 4] }

theorem witness_step : (∃ t, step busy = .next t) ∧ ∃ t, step busyFailed = .next t := ⟨⟨_, rfl⟩, ⟨_, rfl⟩⟩

theorem witness_StepKeepsRegionsProper : RegionsProper busy ∧ busy.regions[2].phase = .active := by
  unfold RegionsProper regionProper; decide +kernel
theorem witness_StepKeepsCacheSound :
    SlotsDistinct busy ∧ PoisonApart busy ∧ PoisonProper busy ∧ RecencyProper busy := by
  refine ⟨?_, ⟨?_, ?_⟩, ?_, ?_, ?_⟩
  · unfold SlotsDistinct; decide +kernel
  · have h' : ∀ k : SlotId, (busy.cache.slots[k]).all
        (fun y => !busy.store.poison.contains y.record || y.phase == .awaitingStore) = true := by decide +kernel
    intro k y h hp
    have := h' k
    rw [h] at this; simpa [hp] using this
  · intro k n h
    have : (k, n) = (3, 20971700) := by
      have hj : busy.store.jobs = [.fill 3 20971700] := rfl
      rw [hj] at h; simpa using h
    obtain ⟨rfl, rfl⟩ := Prod.mk.inj this
    exact ⟨_, rfl, rfl, rfl⟩
  · unfold PoisonProper; decide +kernel
  · decide +kernel
  · intro k
    have h : ∀ k : SlotId, decide (k ∈ busy.cache.recency) = (busy.cache.slots[k]).any Slot.isResident := by
      decide +kernel
    have h := h k
    rw [← decide_eq_true_iff (p := k ∈ busy.cache.recency), h]
    cases busy.cache.slots[k] <;> simp
theorem witness_StepKeepsFailedQuiet : FailedQuiet busyFailed ∧ busyFailed.faults.failed = true := by
  unfold FailedQuiet; decide +kernel
theorem witness_StepKeepsLinkOrdered : LinkOrdered busy ∧ LinkOrdered base ∧ busy.link.transfers ≠ [] := by
  unfold LinkOrdered; decide +kernel
theorem witness_StepKeepsMemoryCanonical : MemoryCanonical busy ∧ busy.store.dram ≠ [] := by
  unfold MemoryCanonical StoreCanonical; decide +kernel
theorem witness_StepKeepsListsBounded :
    NoticesProper busy ∧ InFlightBounded busy ∧ busy.admin.notices ≠ [] := by
  unfold NoticesProper InFlightBounded; decide +kernel


/-- Whether a work ring's fields stand as `WorkRing.Ordered` has them. -/
def orderedRing (w : WorkRing) : Bool :=
  let gap := ringGap w.size w.retire
  decide (w.post < w.size ∧ w.fetch < w.size ∧ w.take < w.size ∧ w.retire < w.size) &&
    decide (gap w.take ≤ gap w.fetch ∧ gap w.fetch ≤ gap w.post ∧ gap w.take + w.prefetch.length ≤ gap w.fetch) &&
    (w.fetchRead.all fun f => decide (gap w.fetch + f.count ≤ gap w.post)) && decide w.outstanding.Nodup &&
    w.outstanding.all fun i => decide (i < w.size ∧ gap i < gap w.take)

theorem ordered_of_orderedRing {w : WorkRing} (h : orderedRing w = true) : w.Ordered := by
  simp only [orderedRing, Bool.and_eq_true, decide_eq_true_eq, List.all_eq_true] at h
  obtain ⟨⟨⟨⟨⟨h1, h2, h3, h4⟩, h5, h6, h7⟩, h8⟩, h9⟩, h10⟩ := h
  refine { post := h1, fetch := h2, take := h3, retire := h4, takeFetch := h5, fetchPost := h6, prefetch := h7,
           inFlight := fun f hf _ => ?_, distinct := h9, outstanding := h10 }
  rw [hf] at h8
  simpa using h8

/-- A bundle whose result ring has reserved its two results, while the ring reads its next entry. -/
def flowing : State :=
  { transfer 2000 with
    rings := { (transfer 2000).rings with
      work := (transfer 2000).rings.work.set 0 (some { plainRing with
        post := 7, fetch := 6, take := 5, retire := 3, prefetch := [work 5], outstanding := [3, 4],
        fetchRead := some { first := 6, count := 1 } }) }
    pending := [.bundleCommit 0] }

theorem witness_StepKeepsListsBounded_rings : RingsSound flowing ∧ ∃ t, step flowing = .next t := by
  refine ⟨{ ordered := fun r w h => ?_, results := { bound := fun r w h => ?_, reserved := fun rr q h => ?_, held := ?_ },
            credit := fun rr q h => ?_ }, _, rfl⟩
  · have h' : ∀ r : RingId, (flowing.rings.work[r]).all orderedRing = true := by decide +kernel
    have := h' r
    rw [h] at this
    exact ordered_of_orderedRing (by simpa using this)
  · have h' : ∀ r : RingId, (flowing.rings.work[r]).all
        (fun w => (flowing.rings.results[w.boundTo]).isSome) = true := by decide +kernel
    have := h' r
    rw [h] at this
    exact Option.isSome_iff_exists.1 (by simpa using this)
  · have h' : ∀ rr : RingId, (flowing.rings.results[rr]).all
        (fun q => decide (outstandingBound flowing rr ≤ q.reserved)) = true := by decide +kernel
    have := h' rr
    rw [h] at this
    simpa using this
  · decide +kernel
  · have h' : ∀ rr : RingId, (flowing.rings.results[rr]).all (fun q => decide (q.produce < q.size) &&
        decide (q.release < q.size) && decide (ringGap q.size q.release q.produce + q.reserved ≤ q.size - 1)) = true := by
      decide +kernel
    have := h' rr
    rw [h] at this
    simp only [Option.all_some, Bool.and_eq_true, decide_eq_true_eq] at this
    exact { produce := this.1.1, release := this.1.2, credit := this.2 }
theorem witness_StepKeepsListsBounded_probes : ProbesWatchActive busy ∧ busy.probes[1] ≠ .disarmed := by
  refine ⟨{ watch := fun p rg first last h => ?_, retiring := fun rg n h => ?_ }, by decide +kernel⟩
  · have h' : ∀ p : ProbeId, ((busy.probes[p]).watch).all (fun x => busy.regions[x.1].phase == .active &&
        decide (x.2.1 ≤ x.2.2) && decide (x.2.2 < busy.regions[x.1].count)) = true := by decide +kernel
    have := h' p
    rw [h] at this
    simpa [and_assoc] using this
  · have h' : runningProgress busy = none := by decide +kernel
    rw [h'] at h
    exact absurd h (by simp)

theorem witness_NothingRefused :
    endsJob .regionFillComplete = true ∧ exec .regionFillComplete (fillingRegion.setStore
      { fillingRegion.store with size := 30000001 }) = .fault .outsideStore := ⟨rfl, by rfl⟩
theorem witness_CapturedFaultStays :
    (∃ t, exec (.post 0 16) busy = .next t) ∧
      busy.faults.capture = some { cls := .hostProtocol, source := .workRing 0, value := some 16 } := ⟨⟨_, rfl⟩, rfl⟩
theorem witness_PoliciesAndSeenClassesKept :
    (∃ t, exec (.post 0 16) busy = .next t) ∧ (∀ sz1 sz0, Instr.post 0 16 ≠ .powerOnReset sz1 sz0) ∧
      (∀ x e, Instr.post 0 16 ≠ .setFaultPolicy x e) ∧ ∀ x e, Instr.post 0 16 ≠ .releaseFaultLog x e :=
  ⟨⟨_, rfl⟩, nofun, nofun, nofun⟩
theorem witness_FailedLeftOnlyByReset :
    (∃ t, exec .linkReset busyFailed = .next t) ∧ busyFailed.faults.failed = true ∧ Instr.linkReset ≠ .resetEnd :=
  ⟨⟨_, rfl⟩, rfl, nofun⟩
theorem witness_StoreChangedOnlyByItsJobs :
    (∃ t, exec (.bundleCommit 0) busy = .next t) ∧ (∀ sz1 sz0, Instr.bundleCommit 0 ≠ .powerOnReset sz1 sz0) ∧
      (∀ k, Instr.bundleCommit 0 ≠ .writeBackComplete k) ∧ Instr.bundleCommit 0 ≠ .regionFillComplete ∧
      (∀ n, Instr.bundleCommit 0 ≠ .regionFillStopped n) ∧ (∀ k e, Instr.bundleCommit 0 ≠ .fillUncorrectable k e) ∧
      ∀ x, Instr.bundleCommit 0 ≠ .storeCommit x := ⟨⟨_, rfl⟩, nofun, nofun, nofun, nofun, nofun, nofun⟩
theorem witness_HitProbeStays :
    (∃ t, exec (.bundleCommit 0) busy = .next t) ∧ busy.probes[1] =
      .hit 2 5 9 { ring := 0, ringSlot := 3, tag := 7, recordIndex := 7, versionWord := 2 } := ⟨⟨_, rfl⟩, rfl⟩
theorem witness_WritesIgnoredWhileResetting :
    (after .linkReset busy).resetPhase ≠ .operating ∧ (after (.powerOnReset false true) busy).resetPhase ≠ .operating := by
  decide +kernel

/-! ## Witnesses: tests, lane operations and validation -/

/-- An UPDATE with a match function, a magnitude function, and flags, on region 1. -/
def tested (mf gf : Byte) (flags : Byte := 0) : Entry := work 1 (region := 1) (mf := mf) (gf := gf) (flags := flags)

theorem witness_MatchOutcomes :
    WorkEntry.matchFunction (tested 0 0) = some .always ∧ WorkEntry.matchFunction (tested 1 0) = some .never ∧
      WorkEntry.matchFunction (tested 2 0) = some .equal ∧ WorkEntry.matchFunction (tested 3 0) = some .notEqual ∧
      (region1.keyA = none ∧ region1.keyB = none) ∧ (region2.keyA = some 0 ∧ region2.keyB = none) ∧
      (region0.keyA = some 0 ∧ region0.keyB = some 1) := by decide +kernel
theorem witness_MagnitudeCompares :
    ([0, 1, 2, 3, 4, 5, 6, 7] : List Byte).map (fun gf => WorkEntry.magnitudeFunction (tested 0 gf)) =
      [some .always, some .never, some .eq, some .ne, some .lt, some .le, some .gt, some .ge] ∧
      (matchTest region1 (tested 0 0) record = true ∧ magnitudeTest (tested 0 0) record = true) ∧
      (matchTest region1 (tested 0 1) record = true ∧ magnitudeTest (tested 0 1) record = false) ∧
      matchTest region1 (tested 1 0) record = false ∧
      (0x80000005 : Lane) &&& 0x80000000 = 0x8000000A &&& 0x80000000 := by decide +kernel

/-- An UPDATE of region 1, evaluated with a verdict. -/
def evaluated (v : Verdict) (flags : Byte := 0) : Evaluated :=
  { member := member (tested 0 0 flags) 4194304, region := region1, pre := record, verdict := v }

theorem witness_VerdictChoosesArm :
    WorkEntry.opcode (evaluated .pass).member.entry = some .update ∧ (evaluated .pass).arm = some .pass ∧
      (evaluated .matchFail 4).arm = none ∧
      (WorkEntry.elseArm (evaluated .magnitudeFail 4).member.entry = true ∧ (evaluated .magnitudeFail 4).arm = some .els) ∧
      WorkEntry.elseArm (evaluated .magnitudeFail 0).member.entry = false := by decide +kernel
theorem witness_LaneOperations :
    ((7 : Lane).toNat = (7 : LaneId).val) ∧ ((0 : Lane).toNat = (0 : LaneId).val) ∧
      WorkEntry.redirects (tested 0 0) = false ∧ region2.advancedLane ≠ some 1 ∧ region0.advancedLane ≠ some 6 := by
  decide +kernel

/-- The cases of ADD_SAT and of SUB_FLOOR, each at its boundary. -/
theorem witness_SaturatingOperations :
    (5 + (3 : Lane).toNat ≤ (8 : Lane).toNat) ∧ ((7 : Lane).toNat < 5 + (3 : Lane).toNat ∧ 7 ≤ (7 : Lane).toNat) ∧
      ((7 : Lane).toNat < 8 + (0 : Lane).toNat ∧ (7 : Lane).toNat < 8) ∧
      ((2 : Lane).toNat + (3 : Lane).toNat ≤ 5) ∧ (5 < (2 : Lane).toNat + (4 : Lane).toNat ∧ (5 : Lane).toNat ≤ 5) ∧
      (5 < (6 : Lane).toNat + (0 : Lane).toNat ∧ 5 < (6 : Lane).toNat) := by decide
theorem witness_ArmWritesItsLanes :
    (region0.autoVersion = true ∧ region0.versionLane = some 7) ∧ region0.versionLane ≠ some 6 ∧
      region2.autoVersion = false ∧ WorkEntry.redirects (work 1 (flags := 2) (dest := 1)) = true ∧
      WorkEntry.redirects (work 1 (flags := 2)) = false ∧
      (armWritten region0 (work 1) .pass).getLsbD 6 = false := by decide +kernel

/-- Validation at the boundary of each condition: opcodes 0, 4, 5, 6 and 255; indexes and codes that just pass and just
fail. -/
theorem witness_EntryChecksInOrder_codes :
    (entryField (work 0) 0 1 = 0 ∧ entryField (work 6) 0 1 = 6 ∧ entryField (work 255) 0 1 = 255) ∧
      (entryField (work 4) 0 1 = 4 ∧ entryField (work 5) 0 1 = 5) ∧
      (entryField (work 1) 0 1 = 1 ∧ entryField (work 2) 0 1 = 2 ∧ entryField (work 3) 0 1 = 3) ∧
      base.regions[WorkEntry.region (work 1 (region := 5))].phase ≠ .active ∧
      base.regions[WorkEntry.region (work 1 (region := 0xF2))].phase = .active ∧
      entryField (work 2 (mf := 4)) 0x05 1 = 4 ∧ entryField (work 1 (gf := 8)) 0x06 1 = 8 := by decide +kernel
theorem witness_EntryChecksInOrder_indexes :
    base.regions[WorkEntry.region (work 3 (region := 2) (index := 1048576))].count ≤
        entryField (work 3 (region := 2) (index := 1048576)) 0x08 4 ∧
      entryField (work 1 (region := 2) (index := 1048575)) 0x08 4 < base.regions[2].count ∧
      (WorkEntry.redirect (work 1 (flags := 2) (region := 2) (dest := 1048576)) = true ∧
        base.regions[2].count ≤ entryField (work 1 (flags := 2) (region := 2) (dest := 1048576)) 0x0C 4) := by
  decide +kernel
theorem witness_EntryChecksInOrder_arms :
    13 < armCode (work 1 (pass := [0, 14])) .pass 1 ∧
      (armCode (work 1 (pass := [0, 13]) (a := [0, 8])) .pass 1 = 13 ∧
        7 < entryField (work 1 (pass := [0, 13]) (a := [0, 8])) (0x38 + 4 * 1) 4) ∧
      (region0.autoVersion = true ∧ region0.versionLane = some 7 ∧
        armCode (work 1 (pass := [0, 0, 0, 0, 0, 0, 0, 1])) .pass 7 ≠ 0) ∧
      (WorkEntry.elseArm (work 1 (flags := 4) (els := [14])) = true ∧ 13 < armCode (work 1 (flags := 4) (els := [14])) .els 0) ∧
      (∀ i : LaneId, armCode (work 1 (pass := [13]) (a := [7])) .pass i ≤ 13 ∧
        (entryField (work 1 (pass := [13]) (a := [7])) (0x38 + 4 * i.val) 4 ≤ 7)) ∧
      WorkEntry.elseArm (work 1 (pass := [13]) (a := [7])) = false := by decide +kernel

/-- An entry of ring slot `i`. -/
def placed (i : Nat) (e : Entry) : Placed := { slot := i, entry := e }

/-- An UPDATE of region 1 with BUNDLE_NEXT as given. -/
def linked (next : Byte) (index : Nat) : Entry := work 1 (flags := next) (region := 1) (index := index)

theorem witness_BundleJudgedInOrder_length :
    ([placed 0 (linked 1 0), placed 1 (linked 1 1), placed 2 (linked 1 2), placed 3 (linked 1 3)].getLast?.map
        fun q => WorkEntry.bundleNext q.entry) = some true ∧
      ([placed 0 (linked 1 0), placed 1 (linked 1 1), placed 2 (linked 1 2), placed 3 (linked 0 3)].getLast?.map
        fun q => WorkEntry.bundleNext q.entry) = some false ∧
      1 < [placed 0 (linked 1 0), placed 1 (linked 0 1)].length ∧
      [placed 0 (linked 1 0), placed 1 (linked 0 1)].length ≤ 2 := by decide +kernel
theorem witness_BundleJudgedInOrder_members :
    checkMember base.regions (linked 0 16777216) = some .outOfRange ∧
      checkMember base.regions (linked 0 16777215) = none ∧ checkMember base.regions (linked 1 0) = none ∧
      (20971519 ∈ (memberOf base.regions 0 (linked 1 16777215)).records ∧
        20971519 ∈ (memberOf base.regions 1 (linked 0 16777215)).records) ∧
      ∀ n ∈ (memberOf base.regions 0 (linked 1 0)).records, n ∉ (memberOf base.regions 1 (linked 0 1)).records := by
  decide +kernel
theorem witness_BundleJudgedInOrder_single :
    checkEntry base.regions (linked 0 16777216) = some .outOfRange ∧ checkEntry base.regions (linked 0 0) = none ∧
      entryField (linked 0 0) 0 1 = 1 ∧ entryField (work 2) 0 1 = 2 ∧ entryField (work 3) 0 1 = 3 ∧
      entryField (work 4) 0 1 = 4 ∧ entryField (work 5) 0 1 = 5 := by decide +kernel
theorem witness_ArbiterChoosesInOrder_unit :
    plainRing.take < plainRing.size ∧
      (({ plainRing with prefetch := [linked 1 0, linked 0 1, work 5] } : WorkRing).unit.map List.length) = some 2 ∧
      eligible (fetched [work 5] base) 0 = true ∧ eligible base 0 = false := by decide +kernel
theorem witness_ArbiterChoosesInOrder :
    ((arbitrate (fetched [work 5] base)).map Prod.fst = some 0) ∧
      ((arbitrate ((fetched [work 5] base).setWork 0 (some { plainRing with
        post := 1, fetch := 1, prefetch := [work 5], credit := 0 }))).map Prod.fst = some 0) ∧
      (arbitrate base).isNone = true := by decide +kernel

/-! ## Witnesses: shared operations -/

/-- Work ring 1 in a DELETING mode with these prefetched entries, its deletion running. -/
def deleting (mode : DeleteMode) (es : List Entry) : State :=
  (running (admin 0x04 (w0 := 1)) (.deleteRing 0) base).setWork 0
    (some { plainRing with phase := .deleting mode, post := es.length, fetch := es.length, prefetch := es })

theorem witness_PostingEvent :
    let s := taken 2 base
    let posts := [answer .success (placed 3 (work 5)), answer .success (placed 4 (work 5))]
    ((s.rings.work[0]).map (fun w => (w.boundTo, w.outstanding, w.retire)) = some (0, [3, 4], 3)) ∧
      ((s.rings.results[0]).map ResultRing.reserved = some 2) ∧
      (posts[1]?).map Posting.ringSlot = some 4 ∧
      ((postUnit 0 posts s).rings.work[0]).map (fun w => (w.outstanding, w.retire)) = some ([], 5) := by decide +kernel
theorem witness_PostingEvent_moves :
    let s := taken 2 base
    let posts := [answer .success (placed 3 (work 5)), answer .success (placed 4 (work 5))]
    (3 < plainRing.size ∧ plainRing.take < plainRing.size ∧ plainResult.produce < plainResult.size) ∧
      s.rings.status[statusEntryOf 0] = .idle ∧
      (s.setStatus 1 (.inFlight none)).rings.status[statusEntryOf 0] = .inFlight none ∧
      (postUnit 0 posts s).link.transfers.map (fun x => x.kind) =
        [.result 0 0 0, .result 0 1 1, .status 1 5] ∧
      (postUnit 0 posts (s.setResult 0 (some { plainResult with reserved := 2, coalesceCount := 2 }))).link.transfers.map
        (fun x => x.kind) = [.result 0 0 0, .result 0 1 1, .status 1 5, .message (some 0)] := by decide +kernel
theorem witness_CommandCompletes :
    (running (admin 0x01) (.hostBuffer 0) base).admin.rings.map AdminRings.command =
      some (.running (admin 0x01) (.hostBuffer 0)) := by decide +kernel
theorem witness_FaultHandled :
    base.faults.failed = false ∧ busyFailed.faults.failed = true ∧
      ((base.faults.policy .poisonHit).masked = true ∧ base.faults.severity .poisonHit = .advisory) ∧
      ((base.faults.policy .hostProtocol).masked = false ∧ base.faults.capture = none ∧
        busy.faults.capture ≠ none ∧ base.faults.severity .hostProtocol = .ringFatal) ∧
      base.faults.severity .internalCheck = .deviceFatal ∧
      (base.rings.work[0]).map WorkRing.phase = some .active ∧
      (1 : Nat) ≠ FaultClass.entryMalformed.index.val ∧ heldFault.faults.seen.getLsbD 9 = true := by decide +kernel
theorem witness_FaultHandled_halts :
    let bound : RaisedFault := { cls := .poisonListFull, source := .resultRing 0 }
    let own : RaisedFault := { cls := .poisonListFull, source := .workRing 0 }
    base.faults.severity bound.cls = .ringFatal ∧
      ((raiseFault bound base).rings.work[0]).map WorkRing.phase = some .halted ∧
      ((deleting .drain [linked 0 0]).rings.work[0]).map (fun w => (w.phase, w.outstanding, w.fetchRead)) =
        some (.deleting .drain, [], none) ∧
      (raiseFault own (deleting .drain [linked 0 0])).rings.work[0] = none ∧
      ((raiseFault own ((deleting .drain [linked 0 0]).setStatus 1 (.inFlight none))).rings.work[0]).map WorkRing.phase =
        some (.deleting .discard) ∧
      ((deleting .discard []).rings.work[0]).map WorkRing.phase = some (.deleting .discard) := by decide +kernel
theorem witness_FailedEntry :
    (busy.rings.work[0]).map WorkRing.phase = some .active ∧
      ((enterFailed busy).cache.slots[0]).isSome = true ∧ ((enterFailed busy).cache.slots[2]).isNone = true := by
  decide +kernel
theorem witness_NoticeRaised :
    (base.admin.rings.map AdminRings.credit = some 15 ∧ base.admin.notices = []) ∧
      (fullAdmin.admin.rings.map AdminRings.credit = some 0 ∧ fullAdmin.admin.notices ≠ []) ∧
      ({ notice := .resultStall 2, repeats := 2 } : PendingNotice) ∈ fullAdmin.admin.notices ∧
      (∀ p ∈ fullAdmin.admin.notices, p.notice ≠ .faultCaptured) ∧ State.reset.admin.rings = none := by decide +kernel

/-- Slot 0 dirty with an upset image. -/
def upsetSlot : State :=
  dirtySlot.setSlot 0 ((dirtySlot.cache.slots[0]).map fun y => y.upset { slot := 0, lane := 3, bit := 31 })

theorem witness_WriteBackStarts :
    ((dirtySlot.cache.slots[0]).bind Slot.content).map
        (fun c => (decide (c.dirty ≠ 0), c.writeBack, decide (c.image.parity = recordParity c.image.lanes))) =
        some (true, false, true) ∧
      ((upsetSlot.cache.slots[0]).bind Slot.content).map
        (fun c => (decide (c.dirty ≠ 0), c.writeBack, decide (c.image.parity = recordParity c.image.lanes))) =
        some (true, false, false) := by decide +kernel

/-! ## Witnesses: resets and registers -/

theorem witness_PowerOnResetsEveryBlock : (after (.powerOnReset true true) busy).resetPhase = .powerOn := rfl
theorem witness_FunctionResetRuns :
    busy.resetPhase = .operating ∧ (after .linkReset base).resetPhase = .functionReset ∧
      (∀ k : SlotId, (after .linkReset base).cache.slots[k] = none) ∧ (after .linkReset base).store.jobs = [] := by
  decide +kernel

/-- A function reset in which region 2 is DRAINING and slot 0 of it waits for its write-back or its fill. -/
def resetting (y : Slot) (j : Job) : State :=
  { base with
    resetPhase := .functionReset
    admin := Admin.reset
    regions := base.regions.set 2 { region2 with phase := .draining }
    cache := { base.cache with slots := base.cache.slots.set 0 (some y), recency := if y.isResident then [0] else [] }
    store := { writeLanes base.store 20971527 (record) allLanes with jobs := [j] } }

theorem witness_FunctionResetRuns_draining :
    let s := resetting { phase := .filling, record := 20971527, region := 2, claims := [] } (.fill 0 20971527)
    s.resetPhase = .functionReset ∧ s.admin.rings = none ∧ 20971527 < s.store.size ∧ s.store.fillJob 0 = some 20971527 ∧
      fillBad s.store 20971527 #v[0, 0, 0, 0] = 0 ∧ s.regions[2].phase = .draining ∧
      (after (.fillComplete 0 #v[0, 0, 0, 0]) s).regions[2] = Region.cleared := by decide +kernel
theorem witness_FunctionResetRuns_written :
    let s := after .linkReset { dirtySlot with regions := base.regions.set 2 { region2 with phase := .draining } }
    s.resetPhase = .functionReset ∧ s.admin.rings = none ∧
      s.store.writeBackJob 0 = some (20971527, record 1 2 3 4 5 6 7 8, 0x04) ∧ s.regions[2].phase = .draining ∧
      (after (.writeBackComplete 0) s).regions[2] = Region.cleared ∧
      (after (.writeBackComplete 0) s).cache.slots[0] = none := by decide +kernel
theorem witness_FunctionResetRuns_stopped :
    let s := after .linkReset fillingRegion
    s.resetPhase = .functionReset ∧ s.store.regionFillJob = some (30000000, 30000001, record 5, 30000000) ∧
      s.regions[3].phase = .filling ∧ s.regions[2].phase = .active ∧ 30000001 < s.store.size := by decide +kernel
theorem witness_EnableOpensAdminRings :
    let s := State.reset.setRegs { Registers.reset with adminSizes := 0x01000010, adminWorkBase := 0x10080 }
    LinkOrdered s ∧ s.resetPhase = .operating ∧ s.regs.enable = false ∧ s.regs.adminSizes.toNat % 65536 = 16 ∧
      s.regs.adminSizes.toNat / 65536 = 256 ∧ s.regs.adminWorkBase.toNat % 128 = 0 ∧
      State.reset.regs.adminSizes.toNat % 65536 ∉ [16, 32, 64, 128, 256] ∧ base.regs.enable = true := by
  unfold LinkOrdered; decide +kernel
theorem witness_RegisterWritesReadBack :
    (State.reset.resetPhase = .operating ∧ LinkOrdered State.reset ∧ State.reset.regs.enable = false) ∧
      (base.resetPhase = .operating ∧ LinkOrdered base ∧ base.regs.enable = true) ∧
      (0x038 ∈ configOffsets ∧ 0x03C ∉ configOffsets ∧ 0x030 ∈ wideOffsets ∧ 0x020 ∉ wideOffsets) := by
  unfold LinkOrdered; decide +kernel

/-- Posts and releases at the boundary of each condition: a ring of 16 slots retired to 14 and taken to 15, and a result
ring released to 2 with produce index 4. -/
theorem witness_PostAndReleaseWrites :
    let gap := ringGap 16 14
    base.resetPhase = .operating ∧ LinkOrdered base ∧ (base.rings.work[0]).isSome = true ∧
      (base.rings.work[1]).isNone = true ∧ (gap 14 < gap 15 ∧ gap 15 ≤ gap 15 ∧ gap 15 ≤ gap 13 ∧ gap 1 < gap 2) ∧
      (16 : Nat) ≤ (16 : BitVec 32).toNat ∧ (15 : BitVec 32).toNat < 16 ∧
      (base.rings.results[0]).isSome = true ∧ (base.rings.results[1]).isNone = true ∧
      (ringGap 16 2 4 < ringGap 16 2 5 ∧ ringGap 16 2 4 ≤ ringGap 16 2 4 ∧ 0 < ringGap 16 2 3) := by
  unfold LinkOrdered; decide +kernel

/-! ## Witnesses: admin rings and commands -/

theorem witness_AdminPostAndRelease :
    (base.resetPhase = .operating ∧ LinkOrdered base ∧ State.reset.admin.rings = none) ∧
      (base.admin.rings.map (fun a => (a.workSize, a.command.busy)) = some (16, false)) ∧
      ((reading base).admin.rings.map (fun a => (a.command.busy, a.consumer)) = some (true, 0)) ∧
      (fullAdmin.admin.rings.map (fun a => (a.produce, a.release, a.resultSize)) = some (15, 0, 16)) ∧
      (ringGap 16 0 15 ≤ ringGap 16 0 15 ∧ ringGap 16 3 5 < ringGap 16 3 6) := by
  unfold LinkOrdered; decide +kernel
theorem witness_AdminReadAndPendingNotices :
    let a := { plainAdmin with post := 1 }
    LinkOrdered (base.setAdminRings (some a)) ∧ base.admin.phase = .opened ∧ base.resetPhase = .operating ∧
      a.command = .none ∧ a.post ≠ a.consumer ∧ 1 ≤ a.credit ∧ 1 ≤ plainAdmin.credit ∧
      busy.admin.notices ≠ [] ∧ busy.admin.rings = some plainAdmin ∧ LinkOrdered busy := by
  unfold LinkOrdered; decide +kernel
theorem witness_AdminReadFailsOrIsInvalid :
    awaits (reading base) 0 .adminRead = true ∧ (reading base).admin.rings.isSome = true ∧
      commandArrives (reading base) 0 = true ∧ commandArrives { reading base with now := 49999 } 0 = true ∧
      commandArrives { reading base with now := 50000 } 0 = false ∧
      entryField (admin 0) 0 1 = 0 ∧ 17 < entryField (admin 18) 0 1 := by decide +kernel
theorem witness_BufferCommandsRun :
    commandArrives (reading busyFailed) 0 = true ∧ entryField (admin 0x01) 0 1 = 1 ∧ entryField (admin 0x0D) 0 1 = 13 ∧
      entryField (admin 0x10) 0 1 = 16 ∧
      base.faults.capture = none ∧ busy.faults.capture ≠ none ∧
      (let s := waiting .adminBuffer 12 (running (admin 0x10) (.hostBuffer 2) base)
       awaits s 0 .adminBuffer = true ∧
        s.admin.rings.map AdminRings.command = some (.running (admin 0x10) (.hostBuffer 2))) := by decide +kernel

/-- The parameters of a ring at the edges of their ranges. -/
theorem witness_RingsCreated_result :
    let e := admin 0x02 (w0 := 15) (addrA := 0x700010) (w1 := 4096) (w2 := 255) (w3 := 1000) (w4 := 1000) (w5 := 1)
    let bad := admin 0x02 (w0 := 15) (addrA := 0x700010) (w1 := 4096) (w2 := 256) (w3 := 1000) (w4 := 1000) (w5 := 1)
    commandArrives (reading base) 0 = true ∧ base.faults.failed = false ∧ busyFailed.faults.failed = true ∧
      entryField e 0 1 = 2 ∧ entryField e 0x04 4 = 15 ∧ (entryAddr e 0x08).toNat % 16 = 0 ∧ entryField e 0x10 4 = 4096 ∧
      entryField e 0x14 4 = 255 ∧ entryField e 0x18 4 = 1000 ∧ entryField e 0x1C 4 = 1000 ∧ entryField e 0x20 4 = 1 ∧
      255 < entryField bad 0x14 4 ∧ entryField (admin 0x02 (w0 := 0)) 0x04 4 < 1 ∧
      base.rings.results[0] ≠ none ∧ base.rings.results[14] = none ∧ ringNumber 14 = 15 ∧ ringNumber 0 = 1 := by
  decide +kernel
theorem witness_RingsCreated_work :
    let e := admin 0x03 (w0 := 15) (addrA := 0x700080) (w1 := 16) (w2 := 1) (w3 := 8) (w4 := 16)
    let bad := admin 0x03 (w0 := 15) (addrA := 0x700010) (w1 := 16) (w2 := 1) (w3 := 8) (w4 := 16)
    commandArrives (reading base) 0 = true ∧ entryField e 0 1 = 3 ∧ entryField e 0x04 4 = 15 ∧
      (entryAddr e 0x08).toNat % 128 = 0 ∧ entryField e 0x10 4 = 16 ∧ entryField e 0x14 4 = 1 ∧
      entryField e 0x18 4 = 8 ∧ entryField e 0x1C 4 = 16 ∧ (entryAddr bad 0x08).toNat % 128 ≠ 0 ∧
      base.rings.work[0] ≠ none ∧ base.rings.work[14] = none ∧ base.rings.results[1] = none := by decide +kernel
theorem witness_RingsDeletedPausedResumed :
    (commandArrives (reading base) 0 = true ∧ commandArrives (reading busyFailed) 0 = true) ∧
      ([admin 4, admin 5, admin 6, admin 7].map fun e => entryField e 0 1) = [4, 5, 6, 7] ∧
      entryField (admin 4 (w0 := 16)) 0x04 4 = 16 ∧ entryField (admin 4 (w0 := 15) (w1 := 2)) 0x10 4 = 2 ∧
      entryField (admin 4 (w0 := 1) (w1 := 1)) 0x10 4 ≤ 1 ∧
      (base.rings.work[0]).map (fun w => (w.phase, w.boundTo)) = some (.active, 0) ∧ base.rings.work[1] = none ∧
      base.rings.results[0] ≠ none ∧ base.rings.results[1] = none := by decide +kernel
theorem witness_RingsDeletedPausedResumed_unbound :
    ∀ (r : RingId) (w : WorkRing), (base.setResult 1 (some plainResult)).rings.work[r] = some w → w.boundTo ≠ 1 := by
  intro r w h
  have h' : ((base.setResult 1 (some plainResult)).rings.work[r]).all (fun w => w.boundTo != 1) = true := by
    clear h; revert r; decide +kernel
  rw [h] at h'; simpa using h'

theorem witness_RingsDeletedPausedResumed_ends :
    (let s := deleting .drain [linked 1 0]
     (s.rings.work[0]).map (fun w => (w.fetch, nextUnit w.prefetch)) = some (1, none) ∧
       runningProgress s = some (.deleteRing 0) ∧ s.rings.status[1] = .idle) ∧
      (((deleting .drain [linked 0 0]).rings.work[0]).map fun w => (nextUnit w.prefetch).isSome) = some true ∧
      ((deleting .discard []).rings.work[0]).map WorkRing.outstanding = some [] ∧
      runningProgress (deleteCheck 0 (deleting .discard [])) = none := by decide +kernel
theorem witness_RingPhases :
    (({ plainRing with phase := .halted } : WorkRing).phase = .halted) ∧
      ({ plainRing with phase := .paused } : WorkRing).phase = .paused ∧
      ({ plainRing with phase := .deleting .drain } : WorkRing).phase = .deleting .drain := ⟨rfl, rfl, rfl⟩

/-- A region's parameters: the last two records of the store, and one record past its end. -/
theorem witness_RegionsDefinedAndRetired :
    let e := admin 0x08 (w0 := 15) (addrA := 33554430) (w1 := 2) (w2 := 0) (w3 := 1) (w4 := 7) (w5 := 3)
    let bad := admin 0x08 (w0 := 15) (addrA := 33554431) (w1 := 2) (w2 := 0) (w3 := 1) (w4 := 7) (w5 := 1)
    (commandArrives (reading base) 0 = true ∧ entryField e 0 1 = 8 ∧ entryField e 0x04 4 = 15) ∧
      ((entryAddr e 0x08).toNat + entryField e 0x10 4 ≤ base.store.size ∧
        base.store.size < (entryAddr bad 0x08).toNat + entryField bad 0x10 4) ∧
      ([0x14, 0x18, 0x1C].map fun off => entryField e off 4) = [0, 1, 7] ∧ (entryField e 0x20 4).testBit 0 = true ∧
      (entryField e 0x20 4).testBit 1 = true ∧ (entryField bad 0x20 4).testBit 1 = false ∧
      base.regions[15].phase = .undefined ∧ base.regions[2].phase ≠ .undefined ∧
      (22020095 < base.regions[2].base + base.regions[2].count ∧ base.regions[2].base < 22020095 + 1) ∧
      (entryField (admin 0x09 (w0 := 2)) 0 1 = 9 ∧ entryField (admin 0x09 (w0 := 2)) 0x04 4 = 2 ∧
        16 ≤ entryField (admin 0x09 (w0 := 16)) 0x04 4) := by decide +kernel

/-- Region 2 DRAINING while its RETIRE_REGION runs, slot 0 of it dirty. -/
def retiring (p : Progress) : State :=
  running (admin 0x09 (w0 := 2)) p (dirtySlot.setRegion 2 { region2 with phase := .draining })

theorem witness_RegionsDefinedAndRetired_ends :
    (runningProgress (retiring (.retireWait 2 1)) = some (.retireWait 2 1) ∧
      runningProgress (retireCheck (retiring (.retireWait 2 1))) = some (.retireRelease 2 1)) ∧
      (((holding .claiming 2 20971527 (work 1) (resident 2 20971527 (record) 0 [0])).contexts[0]).map
        fun x => contextNames 2 x) = some true ∧
      (retireCheck (retiring (.retireRelease 2 1)) = retiring (.retireRelease 2 1)) ∧
      (bodies (retireCheck ((retiring (.retireRelease 2 1)).setSlot 0 none))).length = 2 ∧
      ((dirtySlot.cache.slots[0]).bind Slot.content).all (fun c => c.image.parity == recordParity c.image.lanes) = true := by
  decide +kernel
theorem witness_FlushAndCleanerCommands :
    (commandArrives (reading dirtySlot) 0 = true ∧ entryField (admin 0x0A (w0 := allOnes)) 0x04 4 = 0xFFFFFFFF) ∧
      (entryField (admin 0x0A (w0 := 2)) 0x04 4 = 2 ∧ base.regions[2].phase ≠ .undefined) ∧
      (entryField (admin 0x0A (w0 := 3)) 0x04 4 = 3 ∧ base.regions[3].phase = .undefined) ∧
      entryField (admin 0x0A (w0 := 16)) 0x04 4 = 16 ∧ entryField (admin 0x0A) 0 1 = 10 ∧
      entryField (admin 0x11) 0 1 = 17 ∧ entryField (admin 0x11 (w0 := 1000)) 0x04 4 ≤ 1000 ∧
      1000 < entryField (admin 0x11 (w0 := 1001)) 0x04 4 := by decide +kernel
theorem witness_FlushAndCleanerCommands_ends :
    let s := running (admin 0x0A (w0 := allOnes)) (.flush []) base
    let again : Slot := { resident 2 20971527 (record) 0x04 with
      phase := .resident { image := Image.fresh record, dirty := 0x04, dirtySince := some 0, writeBack := true } }
    runningProgress s = some (.flush []) ∧ (bodies (flushCheck s)).length = 2 ∧
      awaitedSet (dirtySlot.setSlot 0 (some again)) none = [{ slot := 0, again := true }] ∧
      awaitedSet dirtySlot none = [{ slot := 0, again := false }] := by decide +kernel
theorem witness_ProbeCommands :
    let e := admin 0x0B (w0 := 3) (w1 := 2) (w2 := 1048575) (w3 := 1048575)
    let bad := admin 0x0B (w0 := 3) (w1 := 2) (w2 := 0) (w3 := 1048576)
    (commandArrives (reading busy) 0 = true ∧ entryField e 0 1 = 11 ∧ entryField e 0x04 4 = 3 ∧
      entryField e 0x10 4 = 2) ∧ (entryField e 0x14 4 ≤ entryField e 0x18 4 ∧ entryField e 0x18 4 < base.regions[2].count) ∧
      base.regions[2].count ≤ entryField bad 0x18 4 ∧ base.probes[3] = .disarmed ∧ busy.probes[1] ≠ .disarmed ∧
      entryField (admin 0x0C (w0 := 1)) 0 1 = 12 ∧ 4 ≤ entryField (admin 0x0C (w0 := 4)) 0x04 4 := by decide +kernel
theorem witness_FaultCommands :
    (commandArrives (reading busy) 0 = true ∧ commandArrives (reading busyFailed) 0 = true) ∧
      (entryField (admin 0x0E (w0 := 1)) 0x04 4 ≤ 1 ∧ 1 < entryField (admin 0x0E (w0 := 2)) 0x04 4) ∧
      (entryField (admin 0x0F (w0 := 12) (w1 := 1) (w2 := 2)) 0x04 4 = FaultClass.internalCheck.index.val) ∧
      13 ≤ entryField (admin 0x0F (w0 := 13)) 0x04 4 ∧ entryField (admin 0x0F (w1 := 2)) 0x10 4 = 2 ∧
      entryField (admin 0x0F (w2 := 3)) 0x14 4 = 3 ∧ entryField (admin 0x0E) 0 1 = 14 ∧
      entryField (admin 0x0F) 0 1 = 15 := by decide +kernel

/-! ## Witnesses: fetches, takes and contexts -/

/-- Work ring 1 with these fields, reading one entry of slot 15. -/
def fetchingWith (f : WorkRing → WorkRing) : State := reading15.setWork 0 ((reading15.rings.work[0]).map f)

theorem witness_FetchReads :
    (let w := { plainRing with post := 2, fetch := 15 }
     w.phase = .active ∧ base.faults.failed = false ∧ w.fetchRead = none ∧ w.fetchHeld = false ∧ w.fetch ≠ w.post ∧
      0 < min (ringGap w.size w.fetch w.post) (min (8 - w.prefetch.length) (w.size - w.fetch)) ∧
      plainRing.fetch = plainRing.post) ∧
      readAwaits reading15 0 (.fetchRead 0) = true ∧ readAwaits { reading15 with now := 49999 } 0 (.fetchRead 0) = true ∧
      ({ first := 15, count := 1 } : FetchRead).count = [work 5].length ∧
      (reading15.rings.work[0]).map (fun w => (w.fetchRead, w.fetchStale, w.phase)) =
        some (some { first := 15, count := 1 }, false, .active) := by decide +kernel
theorem witness_FetchReads_stale :
    ((fetchingWith fun w => { w with fetchStale := true }).rings.work[0]).map WorkRing.fetchStale = some true ∧
      ((fetchingWith fun w => { w with phase := .deleting .discard }).rings.work[0]).map WorkRing.phase =
        some (.deleting .discard) ∧
      awaits (fetchingWith fun w => { w with fetchStale := true }) 0 (.fetchRead 0) = true := by decide +kernel

/-- The kind of judgement of the unit that a ring would be served with. -/
def judgedAccepted (s : State) (r : RingId) : Option Bool :=
  match s.rings.work[r] with
  | some w => w.unit.map fun ps => match judge r s.regions w.inFlightLimit ps with
    | .accepted _ => true
    | .answered _ _ => false
  | none => none

theorem witness_TakesAnswered :
    ([fetched [work 4] base, fetched [work 5] base, fetched [work 0] base, fetched [work 6] base,
      fetched [linked 1 3, linked 0 3] base].map fun s => ((arbitrate s).map Prod.fst, judgedAccepted s 0)) =
      List.replicate 5 (some 0, some false) := by decide +kernel
theorem witness_TakesHandedToContext :
    ([fetched [work 1 (region := 1)] base, fetched [work 2 (region := 1)] base, fetched [work 3 (region := 1)] base,
      fetched [linked 1 0, linked 0 1] base].map fun s => ((arbitrate s).map Prod.fst, judgedAccepted s 0)) =
      List.replicate 4 (some 0, some true) := by decide +kernel
theorem witness_SlotGrantServesEveryRecord :
    let s := asking (work 1 (region := 2) (index := 7))
    let x := (s.contexts[0]).getD (context .allocating 2 [] [])
    s.cache.requests = [0] ∧ (s.contexts[0]).isSome = true ∧ slotNeed s x ≤ slotsAvailable s x ∧ x.recordNumbers.Nodup ∧
      s.cache.recency = [] ∧ x.isStore = false ∧ unheld s 20971527 = true ∧ s.store.poisoned 20971527 = false ∧
      (s.setPoison [20971527]).store.poisoned 20971527 = true := by decide +kernel
theorem witness_SlotGrantServesEveryRecord_waits :
    let s := asking (work 1 (region := 2) (index := 7))
    let taken : SlotId → Option Slot := fun k => some { phase := .filling, record := k.val, region := 0, claims := [] }
    let full := s.setCache { s.cache with slots := Vector.ofFn taken }
    let x := (s.contexts[0]).getD (context .allocating 2 [] [])
    slotsAvailable full x < slotNeed full x := by decide +kernel
/-- Every slot but slot 0 FILLING, and slot 0 dirty and unclaimed, while context 0 asks for a slot. -/
def pressed : State :=
  let s := asking (work 1 (region := 2) (index := 7))
  let y : SlotId → Option Slot := fun k =>
    if k = 0 then some (resident 2 20971528 (record) 0x01)
    else some { phase := .filling, record := k.val, region := 0, claims := [] }
  s.setCache { s.cache with slots := Vector.ofFn y, recency := [0] }

theorem witness_SlotGrantServesEveryRecord_pressure :
    let x := (pressed.contexts[0]).getD (context .allocating 2 [] [])
    pressed.cache.requests = [0] ∧ slotsAvailable pressed x < slotNeed pressed x ∧
      (pressed.cache.slots[0]).any (staleSlot x) = true ∧ (evaluate pressed).store.jobs =
        [.writeBack 0 20971528 (record) 0x01] := by decide +kernel
theorem witness_SlotGrantServesEveryRecord_ready :
    let s := holding .claiming 0 9000 quota (resident 0 9000 (record) 0 [0])
    (s.contexts[0]).map Context.phase = some .claiming ∧
      ((readyCheck s).contexts[0]).map Context.phase = some .ready ∧
      (storing.contexts[0]).map (fun x => (x.phase, x.storeData)) = some (.claiming, none) ∧
      ((readyCheck storing).contexts[0]).map Context.phase = some .claiming := by decide +kernel
theorem witness_StoreReadEnds :
    readAwaits storing 0 (.storeRead 0) = true ∧ (storing.contexts[0]).isSome = true ∧
      ((storing.contexts[0]).bind (awaitingHeaded storing 0)) = some (0, 20971527, []) ∧
      (let s := storing.setSlot 0 none
       (s.contexts[0]).bind (awaitingHeaded s 0) = none ∧ awaits s 0 (.storeRead 0) = true) := by decide +kernel
theorem witness_FillsEnd :
    let s := filling (record 1 2 3 4 5 6 7 8)
    let one : Vector WordErrors 4 := #v[0, 0, 0x10, 0]
    let two : Vector WordErrors 4 := #v[0, 0, 0, 0x11]
    s.store.fillJob 0 = some 20971527 ∧ 20971527 < s.store.size ∧ (s.cache.slots[0]).isSome = true ∧
      (∀ w : WordId, wordWritten s.store 20971527 w = true ∧ errorCount (wordErrors s.store 20971527 w ||| one[w]) ≤ 1) ∧
      errorCount (wordErrors s.store 20971527 2 ||| one[(2 : WordId)]) = 1 ∧
      errorCount (wordErrors s.store 20971527 3 ||| two[(3 : WordId)]) = 2 ∧
      fillBad s.store 20971527 one = 0 ∧ fillBad s.store 20971527 two ≠ 0 ∧ releasing s 2 = false ∧
      releasing { s with resetPhase := .functionReset } 2 = true ∧ 20971527 ∉ s.store.poison := by decide +kernel
theorem witness_FillsEnd_errors : MemoryCanonical (filling (record 1 2 3 4 5 6 7 8)) := by
  unfold MemoryCanonical StoreCanonical; decide +kernel
theorem witness_FillsEnd_outside :
    let s := filling (record 1 2 3 4 5 6 7 8)
    (s.setStore { s.store with size := 20971527 }).store.size ≤ 20971527 ∧
      64 ≤ (s.setPoison (List.range 64)).store.poison.length ∧
      20971527 ∉ (s.setPoison (List.range 64)).store.poison := by decide +kernel

/-! ## Witnesses: commits, host writes, expiries and jobs -/

/-- What a commit of context 0 finds: whether every image it holds is sound, and each member's verdict. -/
def found (s : State) : Option (ContextPhase × Bool × Option (List Verdict)) :=
  (s.contexts[0]).map fun x =>
    (x.phase, (unsoundSlot s x).isNone, (evaluateMembers s x).map fun vs => vs.map Evaluated.verdict)

/-- The opcode of each entry of context 0. -/
def opcodes (s : State) : List (Option Opcode) :=
  ((s.contexts[0]).map fun x => x.members.map fun m => WorkEntry.opcode m.entry).getD []

/-- Context 0 READY with a FETCH that expects this key in a record whose L0 is 9. -/
def fetchOf (key : Nat) : State :=
  readyOn 2 20971527 (work 2 (region := 2) (mf := 2) (index := 7) (keyA := key)) (record 9)

theorem witness_UpdatesAndBundlesCommit :
    let s := readyOn 0 9000 quota (record 0xA31C 2 0 5000 50000 0 0 0x11)
    found s = some (.ready, true, some [.pass]) ∧ opcodes s = [some .update] ∧
      found (transfer 2000) = some (.ready, true, some [.pass, .pass]) ∧
      found (transfer 499) = some (.ready, true, some [.magnitudeFail, .pass]) := by decide +kernel
theorem witness_UpdatesAndBundlesCommit_arms :
    let pass := evaluated .pass
    let fail := evaluated .magnitudeFail
    pass.arm = some .pass ∧ fail.arm = none ∧
      (armWritten region1 (work 1 (region := 1) (pass := [8])) .pass ≠ 0 ∧
        armWritten region1 (work 1 (region := 1)) .pass = 0) := by decide +kernel
/-- The bundle of `transfer` while probe 1 watches record 7 of region 2, and probe 2 records 1,200 and above. -/
def watched : State := ((transfer 2000).setProbe 1 (.armed 2 7 7)).setProbe 2 (.armed 2 1200 1200)

theorem witness_UpdatesAndBundlesCommit_probes :
    watched.probes[1] = .armed 2 7 7 ∧ watched.probes[0] = .disarmed ∧
      ((after (.bundleCommit 0) watched).probes[1] =
        .hit 2 7 7 { ring := 0, ringSlot := 4, tag := 0x0777, recordIndex := 7, versionWord := 10 }) ∧
      ((after (.bundleCommit 0) watched).probes[2] =
        .hit 2 1200 1200 { ring := 0, ringSlot := 3, tag := 0x0777, recordIndex := 1200, versionWord := 0x16 }) ∧
      (bodies (after (.bundleCommit 0) watched)).take 2 =
        [[1, 1, 0, 0, 0, 0, 0, 0, 0, 0, 0, 0, 1, 0, 0, 0], [2, 1, 0, 0, 0, 0, 0, 0, 0, 0, 0, 0, 1, 1, 0, 0]] := by
  decide +kernel
theorem witness_UpdatesAndBundlesCommit_images :
    let m : Member := { member (tested 0 0 8) 4194304 with image := some record }
    WorkEntry.returnImage m.entry = true ∧ [m][0]? = some m ∧ m.image = some record ∧
      WorkEntry.opcode m.entry = some .update ∧ (evaluated .pass 8).decided.image = some record ∧
      ((evaluated .magnitudeFail 8).withheld.outcome.map MemberOutcome.withheld) = some true := by decide +kernel
theorem witness_FetchesAndStoresCommit :
    found (fetchOf 9) = some (.ready, true, some [.pass]) ∧ found (fetchOf 8) = some (.ready, true, some [.matchFail]) ∧
      opcodes (fetchOf 9) = [some .fetch] := by decide +kernel
theorem witness_FetchesAndStoresCommit_store :
    let s := after (.storeReadComplete 0 (Vector.replicate 32 0xAB)) storing
    found s = some (.ready, true, none) ∧ opcodes s = [some .store] ∧
      (s.contexts[0]).map (fun x => (heldSlot s x 20971527).map Prod.fst) = some (some 0) ∧
      (s.cache.slots[0]).map Slot.phase = some .awaitingStore := by decide +kernel
/-- Context 0 READY with a STORE whose data have arrived, to a resident record. -/
def restoring : State :=
  let e := work 3 (region := 2) (index := 7)
  (readyOn 2 20971527 e (record 1)).setContext 0
    (some { context .ready 2 [member e 20971527] [20971527] with storeData := some (record 2) })

theorem witness_FetchesAndStoresCommit_resident :
    found restoring = some (.ready, true, some [.pass]) ∧ opcodes restoring = [some .store] ∧
      ((restoring.cache.slots[0]).bind Slot.content).map Resident.dirty = some 0 := by decide +kernel
theorem witness_ParityPreventsCommit :
    let s := readyOn 0 9000 quota (record 0xA31C 2 0 5000 50000 0 0 0x11)
    let s := s.setSlot 0 ((s.cache.slots[0]).map fun y => y.upset { slot := 0, lane := 0, bit := 0 })
    (s.contexts[0]).map (fun x => (x.phase, (unsoundSlot s x).map Slot.record, x.members.map
      fun m => WorkEntry.opcode m.entry)) = some (.ready, some 9000, [some .update]) := by decide +kernel
theorem witness_HostBufferWritesEnd :
    awaits copying 0 (.buffer 0 0) = true ∧ (copying.contexts[0]).map (fun x => (x.hostWrites, x.members.map
      fun m => m.outcome.map MemberOutcome.committed)) = some (1, [some false]) := by decide +kernel
theorem witness_RingWritesEnd :
    awaits (waiting (.result 0 2 5) 16 base) 0 (.result 0 2 5) = true ∧
      awaits (waiting (.adminResult 2 5) 16 base) 0 (.adminResult 2 5) = true ∧
      (let s := waiting (.status 1 4) 8 (base.setStatus 1 (.inFlight (some 7)))
       awaits s 0 (.status 1 4) = true ∧ s.rings.status[1] = .inFlight (some 7)) ∧
      (waiting (.status 0 4) 8 (base.setStatus 0 (.inFlight none))).rings.status[0] = .inFlight none ∧
      statusEntryOf 14 = 15 := by decide +kernel
theorem witness_ExpiriesFall :
    (let s := { base.setResult 0 (some { plainResult with unsignalled := 1, firstUnsignalled := some 100 }) with now := 300 }
     LinkOrdered s ∧ (s.rings.results[0]).map (fun q => (q.unsignalled, q.firstUnsignalled, q.coalesceTime, q.msgEnabled)) =
       some (1, some 100, 200, true)) ∧
      (let s := { base.setResult 0 (some { plainResult with stall := .timing 1000 }) with now := 51000 }
       (s.rings.results[0]).map (fun q => (q.stall, 1000 * q.stallLimit)) = some (.timing 1000, 51000 - 1000)) ∧
      (let s := { dirtySlot with now := 100000 }
       ((s.cache.slots[0]).bind Slot.content).map (fun c => (c.writeBack, c.dirtySince)) = some (false, some 0) ∧
         s.cache.ageLimit ≠ 0 ∧ 1000 * s.cache.ageLimit ≤ s.now - 0) := by
  unfold LinkOrdered; decide +kernel
theorem witness_ExpiriesFall_timing :
    let s := (fetched [work 5] base).setResult 0 (some { plainResult with reserved := 15 })
    (s.rings.results[0]).map ResultRing.credit = some 0 ∧
      ((stallCheck { s with now := 9 }).rings.results[0]).map ResultRing.stall = some (.timing 9) ∧
      ((stallCheck (base.setResult 0 (some { plainResult with stall := .timing 9 }))).rings.results[0]).map
        ResultRing.stall = some .idle := by decide +kernel
theorem witness_WriteBackCompletes_again :
    let s := after (.cleanerExpiry 0) { dirtySlot with now := 100000 }
    let flushing := running (admin 0x0A (w0 := allOnes)) (.flush [{ slot := 0, again := true }]) s
    runningProgress flushing = some (.flush [{ slot := 0, again := true }]) ∧
      runningProgress (retiring (.retireRelease 2 1)) = some (.retireRelease 2 1) ∧
      s.cache.ageLimit ≠ 0 ∧ 1000 * s.cache.ageLimit ≤ s.now - 0 := by decide +kernel
theorem witness_WriteBackCompletes :
    let s := after (.cleanerExpiry 0) { dirtySlot with now := 100000 }
    MemoryCanonical s ∧ s.store.writeBackJob 0 = some (20971527, record 1 2 3 4 5 6 7 8, 0x04) ∧
      20971527 < s.store.size ∧ (0x04 : LaneSet).getLsbD (2 * 1) = true ∧ (0x04 : LaneSet).getLsbD (2 * 0) = false ∧
      (0x04 : LaneSet).getLsbD (2 * 0 + 1) = false ∧ ((s.cache.slots[0]).bind Slot.content).isSome = true ∧
      (s.setStore { s.store with size := 20971527 }).store.size ≤ 20971527 := by
  unfold MemoryCanonical StoreCanonical; decide +kernel
theorem witness_RegionFillsEnd :
    MemoryCanonical fillingRegion ∧
      fillingRegion.store.regionFillJob = some (30000000, 30000001, record 5, 30000000) ∧
      fillingRegion.resetPhase ≠ .functionReset ∧ 30000001 < fillingRegion.store.size ∧
      (runningProgress fillingRegion = some (.regionFill 3) ∧ fillingRegion.regions[3].phase = .filling) ∧
      (fillingRegion.setStore { fillingRegion.store with size := 30000001 }).store.size ≤ 30000001 ∧
      fillingRegion.pending = [] ∧
      (let s := after .linkReset fillingRegion
       MemoryCanonical s ∧ s.resetPhase = .functionReset ∧
        s.store.regionFillJob = some (30000000, 30000001, record 5, 30000000)) := by
  unfold MemoryCanonical StoreCanonical; decide +kernel

end Sys2Proof.Tests
end

/-! # What an event leaves of the record store and of the region table -/

namespace Sys2Proof.Machine

section RecordsKept

/-- The record store's size, bytes, check bits, bits in error and poison list are as they were, and each region is as it
was or UNDEFINED: all that an event does to them besides its own effect. -/
structure RecordsKept (s t : State) : Prop where
  size : t.store.size = s.store.size
  dram : t.store.dram = s.store.dram
  check : t.store.check = s.store.check
  errors : t.store.errors = s.store.errors
  poison : t.store.poison = s.store.poison
  regions : ∀ n : RegionId, t.regions[n] = s.regions[n] ∨ t.regions[n] = Region.cleared

variable {s t u : State}

theorem RecordsKept.refl (s : State) : RecordsKept s s := ⟨rfl, rfl, rfl, rfl, rfl, fun _ => .inl rfl⟩

theorem RecordsKept.trans (h : RecordsKept s t) (h' : RecordsKept t u) : RecordsKept s u where
  size := h'.size.trans h.size
  dram := h'.dram.trans h.dram
  check := h'.check.trans h.check
  errors := h'.errors.trans h.errors
  poison := h'.poison.trans h.poison
  regions n := by
    rcases h'.regions n with e | e
    · rw [e]; exact h.regions n
    · exact .inr e

/-- An update of other fields. -/
theorem RecordsKept.of_eq (hs : t.store = s.store) (hr : t.regions = s.regions) : RecordsKept s t :=
  ⟨by rw [hs], by rw [hs], by rw [hs], by rw [hs], by rw [hs], fun _ => .inl (by rw [hr])⟩

theorem Reaction.records (h : Reaction s t) : RecordsKept s t :=
  ⟨congrArg Kept.size h.kept, congrArg Kept.dram h.kept, congrArg Kept.check h.kept, congrArg Kept.errors h.kept,
    congrArg Kept.poison h.kept, h.regions⟩

theorem RecordsKept.foldl {α : Type} {f : State → α → State} (h : ∀ s a, RecordsKept s (f s a)) (l : List α)
    (s : State) : RecordsKept s (l.foldl f s) := by
  induction l generalizing s with
  | nil => exact .refl s
  | cons a l ih => exact (h s a).trans (ih (f s a))

/-- A reaction that comes after. -/
theorem Reaction.after (h' : Reaction t u) (h : RecordsKept s t) : RecordsKept s u := h.trans h'.records

/-- `trans` with its second part first, for a chain that is read from its end. -/
theorem RecordsKept.after (h' : RecordsKept t u) (h : RecordsKept s t) : RecordsKept s u := h.trans h'

/-- A fault raised as the whole of an event. -/
theorem records_raise (f : RaisedFault) (s : State) : RecordsKept s (settle (raiseFault f s)) :=
  ((reaction_raiseFault f s).trans (reaction_settle _)).records

theorem records_ite {c : Prop} [Decidable c] (ht : RecordsKept s t) (hu : RecordsKept s u) :
    RecordsKept s (if c then t else u) := by
  split
  · exact ht
  · exact hu

/-! ## Reports and events -/

theorem records_event {f : State → State} (h : ∀ s, RecordsKept s (f s)) (s : State) : RecordsKept s (event f s) :=
  (h s).trans (reaction_adminMessage _ _).records

theorem records_dropTransfer (xfer : Nat) (s : State) : RecordsKept s (dropTransfer xfer s) := .of_eq rfl rfl

theorem records_onReport {α : Type} {kind : TransferKind → Option α} {handle : α → State → State}
    (h : ∀ a s, RecordsKept s (handle a s)) (xfer : Nat) (s : State) : RecordsKept s (onReport kind handle xfer s) := by
  unfold onReport
  split
  · exact .refl s
  · split
    · exact .refl s
    · exact records_ite ((records_dropTransfer xfer s).trans (h _ _)) (records_dropTransfer xfer s)

theorem records_onReadComplete {α : Type} {kind : TransferKind → Option α} {handle : α → State → State}
    (h : ∀ a s, RecordsKept s (handle a s)) (xfer : Nat) (s : State) :
    RecordsKept s (onReadComplete kind handle xfer s) :=
  records_ite (records_onReport h xfer s) (.refl s)

/-! ## Resets and registers -/

theorem records_dropAtReset (s : State) : RecordsKept s (dropAtReset s) :=
  ((reaction_abandonContexts s).trans (reaction_unheed (fun _ => true) _)).records.trans (.of_eq rfl rfl)

theorem records_functionReset (s : State) : RecordsKept s (functionReset s) :=
  (reaction_drainingCheck _).after ((reaction_releaseSlotsWith reaction_raiseFault _ _).after
    ((records_dropAtReset _).after (.of_eq rfl rfl)))

theorem records_requestReset (s : State) : RecordsKept s (requestReset s) :=
  records_ite (records_functionReset s) (.refl s)

theorem records_registerWrite {f : State → State} (h : ∀ s, RecordsKept s (f s)) (s : State) :
    RecordsKept s (registerWrite f s) := records_ite (records_event h s) (.refl s)

theorem records_openAdmin (s : State) : RecordsKept s (openAdmin s) := by
  refine records_ite ?_ (.of_eq rfl rfl)
  exact (reaction_considerAdminRead _).after ((reaction_postPending _).after (.of_eq rfl rfl))

theorem records_writeDevControl (enable msgEn : Bool) (s : State) : RecordsKept s (writeDevControl enable msgEn s) :=
  records_ite ((records_openAdmin _).after (.of_eq rfl rfl)) (.of_eq rfl rfl)

theorem records_writeConfig (offset : Nat) (width : AccessWidth) (v : BitVec 64) (s : State) :
    RecordsKept s (writeConfig offset width v s) := records_ite (.refl s) (.of_eq rfl rfl)

theorem records_writePost (r : RingId) (v : BitVec 32) (s : State) : RecordsKept s (writePost r v s) := by
  unfold writePost
  split
  · exact .refl s
  · refine records_ite (.refl s) (records_ite ?_ (records_raise _ s))
    exact (reaction_stallCheck _).after (.of_eq rfl rfl)

theorem records_writeRelease (rr : RingId) (v : BitVec 32) (s : State) : RecordsKept s (writeRelease rr v s) := by
  unfold writeRelease
  split
  · exact .refl s
  · refine records_ite ?_ (records_raise _ s)
    exact (reaction_stallCheck _).after (.of_eq rfl rfl)

theorem records_writeAdminPost (v : BitVec 32) (s : State) : RecordsKept s (writeAdminPost v s) := by
  unfold writeAdminPost
  split
  · exact .refl s
  · exact records_ite ((reaction_considerAdminRead _).after (.of_eq rfl rfl)) (records_raise _ s)

theorem records_writeAdminRelease (v : BitVec 32) (s : State) : RecordsKept s (writeAdminRelease v s) := by
  unfold writeAdminRelease
  split
  · exact .refl s
  · refine records_ite ?_ (records_raise _ s)
    exact (reaction_considerAdminRead _).after ((reaction_postPending _).after (.of_eq rfl rfl))

/-! ## Fetches and takes -/

theorem records_issueFetch (r : RingId) (s : State) : RecordsKept s (issueFetch r s) := by
  unfold issueFetch
  split
  · exact .refl s
  · exact records_ite (.of_eq rfl rfl) (.refl s)

theorem records_completeFetch (entries : List Entry) (r : RingId) (s : State) :
    RecordsKept s (completeFetch entries r s) := by
  unfold completeFetch
  split
  · exact .refl s
  · split
    · exact .refl s
    · exact (reaction_settle _).after ((records_issueFetch r _).after (.of_eq rfl rfl))

theorem records_drainToDiscard (r : RingId) (s : State) : RecordsKept s (drainToDiscard r s) := by
  unfold drainToDiscard
  split
  · exact .refl s
  · exact records_ite (.of_eq rfl rfl) (.refl s)

theorem records_failFetch (r : RingId) (s : State) : RecordsKept s (failFetch r s) := by
  unfold failFetch
  split
  · exact .refl s
  · split
    · exact .refl s
    · refine records_ite ?_ (records_ite ?_ ?_)
      · exact (reaction_settle _).after ((records_issueFetch r _).after (.of_eq rfl rfl))
      · exact (reaction_settle _).after (.of_eq rfl rfl)
      · exact (reaction_settle _).after
          ((records_drainToDiscard r _).after ((reaction_raiseFault _ _).after (.of_eq rfl rfl)))

theorem records_reserve (rr : RingId) (n : Nat) (s : State) : RecordsKept s (reserve rr n s) := by
  unfold reserve
  split
  · exact .of_eq rfl rfl
  · exact .refl s

theorem records_beginStoreRead (c : CtxId) (ms : List Member) (s : State) : RecordsKept s (beginStoreRead c ms s) := by
  unfold beginStoreRead
  split
  · exact records_ite (.of_eq rfl rfl) (.refl s)
  · exact .refl s

theorem records_handToContext (r : RingId) (ms : List Member) (s : State) : RecordsKept s (handToContext r ms s) := by
  unfold handToContext
  split
  · exact (records_beginStoreRead _ ms _).after (.of_eq rfl rfl)
  · exact .refl s

theorem records_carryOut (r : RingId) (j : Judgement) (s : State) : RecordsKept s (carryOut r j s) := by
  cases j with
  | answered posts faults => exact ((reaction_postUnit r posts s).trans (reaction_raiseFaults faults _)).records
  | accepted ms => exact records_handToContext r ms s

theorem records_takeFrom (r : RingId) (s : State) : RecordsKept s (takeFrom r s) := by
  unfold takeFrom
  split
  · exact .refl s
  · split
    · exact .refl s
    · exact (reaction_settle _).after
        ((records_carryOut r _ _).after ((records_reserve _ _ _).after (.of_eq rfl rfl)))

/-- The state the arbiter leaves is the state it found, or that state with the credits reloaded. -/
theorem arbitrate_state {r : RingId} {s1 : State} (h : arbitrate s = some (r, s1)) :
    s1 = s ∨ s1 = reloadCredits s := by
  unfold arbitrate at h
  split at h
  · cases h; exact .inl rfl
  · split at h
    · obtain ⟨_, _, e⟩ := Option.map_eq_some_iff.1 h
      cases e; exact .inr rfl
    · cases h

theorem records_takeUnit (k : UnitKind) (s : State) : RecordsKept s (takeUnit k s) := by
  unfold takeUnit
  split
  · next r s1 h =>
    refine records_ite (RecordsKept.trans ?_ (records_event (records_takeFrom r) s1)) (.refl s)
    rcases arbitrate_state h with rfl | rfl
    · exact .refl _
    · exact .of_eq rfl rfl
  · exact .refl s

/-! ## Contexts -/

theorem records_grantHead (s : State) : RecordsKept s (grantHead s) := by
  unfold grantHead
  split
  · exact .refl s
  · split
    · exact .refl s
    · exact records_ite (records_event (fun s => (reaction_settle _).after (reaction_grant _ s).records) s) (.refl s)

theorem records_acceptStoreData (data : Vector Byte 32) (c : CtxId) (s : State) :
    RecordsKept s (acceptStoreData data c s) := by
  unfold acceptStoreData
  split
  · exact .refl s
  · exact (reaction_settle _).after (.of_eq rfl rfl)

theorem records_freeSlot (k : SlotId) (s : State) : RecordsKept s (freeSlot k s) := .of_eq rfl rfl

theorem records_failStoreRead (c : CtxId) (s : State) : RecordsKept s (failStoreRead c s) := by
  unfold failStoreRead
  split
  · exact .refl s
  · refine (reaction_settle _).after ?_
    have ended : ∀ y, RecordsKept s (endContext c (s.setContext c y)) := fun y =>
      (reaction_endContext c _).after (.of_eq rfl rfl)
    split
    · exact (reaction_raiseFaults _ _).after (ended _)
    · refine (reaction_raiseFaults _ _).after ((records_freeSlot _ _).after ?_)
      exact (ended _).trans (.foldl (fun s d => (reaction_failContext _ _ d s).records) _ _)

theorem records_writeImage (x : Context) (record : Nat) (image : Record) (set : LaneSet) (s : State) :
    RecordsKept s (writeImage x record image set s) := by
  unfold writeImage
  split
  · exact .refl s
  · split
    · exact .of_eq rfl rfl
    · exact .refl s

theorem records_applyMember (x : Context) (s : State) (v : Evaluated) : RecordsKept s (applyMember x s v) := by
  unfold applyMember
  split
  · exact records_writeImage ..
  · exact .refl s

theorem records_examineProbe (r : RingId) (vs : List Evaluated) (s : State) (p : ProbeId) :
    RecordsKept s (examineProbe r vs s p) := by
  unfold examineProbe
  split
  · split
    · exact (reaction_raiseNotice _ _).after (.of_eq rfl rfl)
    · exact .refl s
  · exact .refl s

theorem records_issueImages (c : CtxId) (j : Nat) (ms : List Member) (s : State) :
    RecordsKept s (issueImages c j ms s) := by
  induction ms generalizing j s with
  | nil => exact .refl s
  | cons m rest ih =>
    refine RecordsKept.trans ?_ (ih (j + 1) _)
    split
    · exact .of_eq rfl rfl
    · exact .refl s

theorem records_finishCommit (c : CtxId) (x : Context) (ms : List Member) (s : State) :
    RecordsKept s (finishCommit c x ms s) := by
  have left : RecordsKept s (leaveQueues c (s.setContext c (some (x.committed ms)))) := .of_eq rfl rfl
  exact (reaction_settle _).after
    (records_ite (left.trans (reaction_endContext c _).records) (left.trans (records_issueImages c 0 ms _)))

theorem records_applyAll (c : CtxId) (x : Context) (vs : List Evaluated) (s : State) :
    RecordsKept s (applyAll c x vs s) :=
  ((RecordsKept.foldl (records_applyMember x) vs s).trans (.foldl (records_examineProbe x.ring vs) _ _)).trans
    (records_finishCommit c x _ _)

theorem records_commitUpdate (c : CtxId) (x : Context) (s : State) : RecordsKept s (commitUpdate c x s) := by
  unfold commitUpdate
  split
  · exact records_applyAll ..
  · exact .refl s

theorem records_commitFetch (c : CtxId) (x : Context) (s : State) : RecordsKept s (commitFetch c x s) := by
  unfold commitFetch
  split
  · exact records_finishCommit ..
  · exact .refl s

theorem records_commitBundle (c : CtxId) (x : Context) (s : State) : RecordsKept s (commitBundle c x s) := by
  unfold commitBundle
  split
  · exact records_ite (records_applyAll ..) (records_finishCommit ..)
  · exact .refl s

/-- A commit is not taken, or its own effect comes first in the event, or a parity mismatch fails it. -/
theorem commitOn_cases (kind : Context → Bool) (effect : CtxId → Context → State → State) (c : CtxId) (s : State) :
    RecordsKept s (commitOn kind effect c s) ∨
      ∃ x, commitOn kind effect c s = adminMessage s.link.next (effect c x s) := by
  unfold commitOn
  split
  · exact .inl (.refl s)
  · next x _ =>
    split
    · unfold event
      dsimp only
      split
      · next y _ =>
        exact .inl ((reaction_adminMessage _ _).after (records_raise (commitParityFault x y) s))
      · exact .inr ⟨x, rfl⟩
    · exact .inl (.refl s)

theorem records_commitOn {kind : Context → Bool} {effect : CtxId → Context → State → State}
    (h : ∀ c x s, RecordsKept s (effect c x s)) (c : CtxId) (s : State) :
    RecordsKept s (commitOn kind effect c s) := by
  rcases commitOn_cases kind effect c s with hk | ⟨x, e⟩
  · exact hk
  · rw [e]; exact (h c x s).trans (reaction_adminMessage _ _).records

theorem records_storeImage (x : Context) (record : Nat) (data : Record) (s : State) :
    RecordsKept s (storeImage x record data s) := by
  unfold storeImage
  split
  · exact .refl s
  · split
    · exact .of_eq rfl rfl
    · exact records_writeImage ..

/-- The store's fields after a STORE's image stands in its slot. -/
theorem storeImage_store (x : Context) (record : Nat) (data : Record) (s : State) :
    (storeImage x record data s).store = s.store := by
  unfold storeImage writeImage
  split
  · rfl
  · split
    · rfl
    · split
      · rfl
      · split <;> rfl

/-! ## Ends of host writes, and expiries -/

theorem records_endBuffer (finish : MemberOutcome → MemberOutcome) (c : CtxId) (j : Nat) (s : State) :
    RecordsKept s (endBuffer finish c j s) := by
  unfold endBuffer
  split
  · exact .refl s
  · exact records_ite ((reaction_endContext c _).after (.of_eq rfl rfl)) (.of_eq rfl rfl)

theorem records_completeBuffer (cm : CtxId × Nat) (s : State) : RecordsKept s (completeBuffer cm s) :=
  (reaction_settle _).after (records_endBuffer _ _ _ s)

theorem records_failBuffer (cm : CtxId × Nat) (s : State) : RecordsKept s (failBuffer cm s) :=
  (reaction_settle _).after ((reaction_raiseFaults _ _).after (records_endBuffer _ _ _ s))

theorem records_statusWritten (e : Fin 16) (s : State) : RecordsKept s (settle (endStatusWrite e s)) :=
  (reaction_settle _).after (reaction_endStatusWrite e s).records

theorem records_statusFailed (e : Fin 16) (f : RaisedFault) (s : State) :
    RecordsKept s (settle (raiseFault f (endStatusWrite e s))) :=
  (records_raise f _).after (reaction_endStatusWrite e s).records

theorem records_expireCoalescing (rr : RingId) (s : State) : RecordsKept s (expireCoalescing rr s) := by
  unfold expireCoalescing
  split
  · exact .refl s
  · next h => exact records_ite (reaction_causeMessage rr _ s h).records (.refl s)

theorem records_expireStall (rr : RingId) (s : State) : RecordsKept s (expireStall rr s) := by
  unfold expireStall
  split
  · exact .refl s
  · refine records_ite ((reaction_settle _).after ((reaction_raiseNotice _ _).after ?_)) (.refl s)
    exact (reaction_raiseFault _ _).after (.of_eq rfl rfl)

/-! ## Admin commands -/

theorem records_haltAdmin (s : State) : RecordsKept s (haltAdmin s) := by
  unfold haltAdmin
  split
  · exact .refl s
  · exact .of_eq rfl rfl

theorem records_failAdminRead (a : Unit) (s : State) : RecordsKept s (failAdminRead a s) :=
  (reaction_settle _).after
    ((reaction_raiseFault _ _).after ((reaction_postPending _).after (records_haltAdmin s)))

theorem records_beginCommand (e : Entry) (s : State) : RecordsKept s (beginCommand e s) := by
  unfold beginCommand
  split
  · exact .of_eq rfl rfl
  · exact .refl s

/-- An admin command is not taken, or it is carried out on the state in which it is the running command. -/
theorem takeCommand_cases (row : Nat → Bool) (run : Entry → State → State) (xfer : Nat) (e : Entry) (s : State) :
    RecordsKept s (takeCommand row run xfer e s) ∨
      takeCommand row run xfer e s = afterEvent s (run e (commandTaken xfer e s)) [] := by
  have message : ∀ {u : State}, RecordsKept s u → RecordsKept s (adminMessage s.link.next u) :=
    fun h => h.trans (reaction_adminMessage _ _).records
  unfold takeCommand event onReadComplete onReport
  split
  · split
    · split
      · exact .inl (message (.refl s))
      · split
        · exact .inl (message (.refl s))
        · split
          · exact .inr rfl
          · exact .inl (message (records_dropTransfer xfer s))
    · exact .inl (message (.refl s))
  · exact .inl (.refl s)

theorem records_commandTaken (xfer : Nat) (e : Entry) (s : State) : RecordsKept s (commandTaken xfer e s) :=
  (records_dropTransfer xfer s).trans (records_beginCommand e _)

theorem records_afterEvent (s u : State) (faults : List RaisedFault) : RecordsKept u (afterEvent s u faults) :=
  (reaction_afterEvent s u faults).records

theorem records_takeCommand {row : Nat → Bool} {run : Entry → State → State} (h : ∀ e s, RecordsKept s (run e s))
    (xfer : Nat) (e : Entry) (s : State) : RecordsKept s (takeCommand row run xfer e s) := by
  rcases takeCommand_cases row run xfer e s with hk | he
  · exact hk
  · rw [he]; exact ((records_commandTaken xfer e s).trans (h e _)).trans (records_afterEvent s _ [])

theorem records_complete (st : AdminStatus) (value : BitVec 32) (s : State) :
    RecordsKept s (completeCommand st value s) := (reaction_completeCommand st value s).records

theorem records_whileOperating {run : State → State} (value : BitVec 32) (h : ∀ s, RecordsKept s (run s)) (s : State) :
    RecordsKept s (whileOperating value run s) := records_ite (records_complete _ _ s) (h s)

theorem records_writeAdminBuffer (e : Entry) (body : List Byte) (value : BitVec 32) (s : State) :
    RecordsKept s (writeAdminBuffer e body value s) :=
  ((reaction_issueWrite _ _ _ s).trans (reaction_setProgress _ _)).records

theorem records_bufferWritten (value : BitVec 32) (s : State) :
    RecordsKept s (settle (completeCommand .done value s)) :=
  (reaction_settle _).after (records_complete _ _ s)

theorem records_bufferFailed (f : RaisedFault) (value : BitVec 32) (s : State) :
    RecordsKept s (settle (raiseFault f (completeCommand .hostFault value s))) :=
  (records_raise f _).after (records_complete _ _ s)

theorem records_createResult (e : Entry) (s : State) : RecordsKept s (createResult e s) := by
  unfold createResult
  split
  · exact records_complete ..
  · refine records_ite (records_complete ..) (records_ite (records_complete ..) ?_)
    exact (reaction_completeCommand _ _ _).after (.of_eq rfl rfl)

theorem records_createWork (e : Entry) (s : State) : RecordsKept s (createWork e s) := by
  unfold createWork
  split
  · refine records_ite (records_complete ..) (records_ite (records_complete ..) (records_ite (records_complete ..) ?_))
    exact (reaction_completeCommand _ _ _).after (.of_eq rfl rfl)
  · exact records_complete ..

theorem records_deleteWork (e : Entry) (s : State) : RecordsKept s (deleteWork e s) := by
  unfold deleteWork
  split
  · split
    · exact records_complete ..
    · exact (reaction_deleteCheck _ _).after ((reaction_setProgress _ _).after (.of_eq rfl rfl))
  · exact records_complete ..

theorem records_deleteResult (e : Entry) (s : State) : RecordsKept s (deleteResult e s) := by
  unfold deleteResult
  split
  · exact records_complete ..
  · refine records_ite (records_complete ..) (records_ite (records_complete ..) ?_)
    exact (reaction_completeCommand _ _ _).after (.of_eq rfl rfl)

theorem records_pauseRing (e : Entry) (s : State) : RecordsKept s (pauseRing e s) := by
  unfold pauseRing
  split
  · exact records_complete ..
  · split
    · exact records_complete ..
    · split
      · exact records_complete ..
      · exact (reaction_completeCommand _ _ _).after (.of_eq rfl rfl)
      all_goals exact records_complete ..

theorem records_resumeRing (e : Entry) (s : State) : RecordsKept s (resumeRing e s) := by
  unfold resumeRing
  split
  · exact records_complete ..
  · split
    · exact records_complete ..
    · split
      · exact (reaction_completeCommand _ _ _).after (.of_eq rfl rfl)
      · exact (reaction_completeCommand _ _ _).after (.of_eq rfl rfl)
      all_goals exact records_complete ..

theorem records_beginFlush (scope : Option RegionId) (s : State) : RecordsKept s (beginFlush scope s) :=
  (reaction_setProgress _ s).records.trans (.foldl (fun s _ => (reaction_startWriteBack _ s).records) _ _)

theorem records_flushRegion (e : Entry) (s : State) : RecordsKept s (flushRegion e s) := by
  have flush := fun scope => (records_beginFlush scope s).trans (reaction_flushCheck _).records
  unfold flushRegion
  split
  · exact records_complete ..
  · exact flush _
  · exact records_ite (records_complete ..) (flush _)

theorem records_armProbe (e : Entry) (s : State) : RecordsKept s (armProbe e s) := by
  unfold armProbe
  dsimp only
  split
  · refine records_ite (records_complete ..) (records_ite (records_complete ..) ?_)
    exact (reaction_completeCommand _ _ _).after (.of_eq rfl rfl)
  · exact records_complete ..

theorem records_disarmProbe (e : Entry) (s : State) : RecordsKept s (disarmProbe e s) := by
  unfold disarmProbe
  split
  · exact records_complete ..
  · split
    · exact (reaction_finishCommand _ _ _).after (.of_eq rfl rfl)
    all_goals exact (reaction_completeCommand _ _ _).after (.of_eq rfl rfl)

theorem records_releaseLog (e : Entry) (s : State) : RecordsKept s (releaseLog e s) :=
  records_ite (records_complete ..) ((reaction_completeCommand _ _ _).after (.of_eq rfl rfl))

theorem records_setPolicy (e : Entry) (s : State) : RecordsKept s (setPolicy e s) := by
  unfold setPolicy
  split
  · exact records_ite (records_complete ..) ((reaction_completeCommand _ _ _).after (.of_eq rfl rfl))
  · exact records_complete ..

theorem records_cleanNow (s : State) : RecordsKept s (cleanNow s) :=
  .foldl (fun s _ => records_ite (reaction_startWriteBack _ s).records (.refl s)) _ s

theorem records_setCleaner (e : Entry) (s : State) : RecordsKept s (setCleaner e s) := by
  refine records_ite (records_complete ..) ((reaction_completeCommand _ _ _).after ?_)
  exact (records_cleanNow _).after (.of_eq rfl rfl)

end RecordsKept

end Sys2Proof.Machine

/-! # What each command does to the record store and to the region table -/

namespace Sys2Proof.Machine

section OwnEffect

/-- The effect of a command of its own on the record store and on the region table, with what it found where it has it;
jobs apart. -/
inductive OwnEffect (s : State) : Instr → State → Prop where
  /-- none -/
  | idle (c : Instr) : OwnEffect s c s
  /-- the power-on state (R16) -/
  | restarted (sz1 sz0 : Bool) : OwnEffect s (.powerOnReset sz1 sz0) (powerOn sz1 sz0 s)
  /-- a fill records the bits it found in error (R105) -/
  | filled (k : SlotId) (errors : Vector WordErrors 4) (n : Nat) :
      OwnEffect s (.fillComplete k errors) (s.setStore (s.store.endFill k n errors))
  /-- an uncorrectable fill also lists its record (R111) -/
  | unreadable (k : SlotId) (errors : Vector WordErrors 4) (n : Nat) :
      OwnEffect s (.fillUncorrectable k errors) (s.setStore ((s.store.endFill k n errors).addPoison n))
  /-- a STORE takes its record off the poison list (R112) -/
  | stored (c : CtxId) (n : Nat) : OwnEffect s (.storeCommit c) (s.setStore (s.store.removePoison n))
  /-- a write-back writes its words (R108) -/
  | writtenBack (k : SlotId) (n : Nat) (lanes : Record) (set : LaneSet) :
      OwnEffect s (.writeBackComplete k) (s.setStore (writeLanes (s.store.endJobs (Job.isWriteBack k)) n lanes set))
  /-- a region fill writes its last records, and its range leaves the poison list (R109) -/
  | regionFilled (first last next : Nat) (pattern : Record) :
      OwnEffect s .regionFillComplete (s.setStore
        (((fillRecords s.store pattern next (last + 1 - next)).endJobs Job.isRegionFill).removePoisonRange first last))
  /-- and its region becomes ACTIVE (R10) -/
  | regionActive (first last next : Nat) (pattern : Record) (n : RegionId) :
      OwnEffect s .regionFillComplete ((s.setStore
        (((fillRecords s.store pattern next (last + 1 - next)).endJobs Job.isRegionFill).removePoisonRange first
          last)).setRegion n s.regions[n].filled)
  /-- a stopped region fill writes up to the record in progress, and its region becomes UNDEFINED (R17, R110) -/
  | fillStopped (current next : Nat) (pattern : Record) :
      OwnEffect s (.regionFillStopped current) (dropFilling (s.setStore
        ((fillRecords s.store pattern next (current + 1 - next)).endJobs Job.isRegionFill)))
  /-- an UNDEFINED region is defined by a descriptor that passes the checks of R8 (R9, R10) -/
  | defined (xfer : Nat) (e : Entry) (n : RegionId) (rg : Region) (phase : rg.phase ≠ .undefined)
      (valid : validRegion s.store.size rg = true) (free : s.regions[n].phase = .undefined)
      (apart : ∀ m : RegionId, regionsOverlap rg s.regions[m] = false) :
      OwnEffect s (.defineRegion xfer e) (s.setRegion n rg)
  /-- a defined region becomes DRAINING (R11) -/
  | retired (xfer : Nat) (e : Entry) (n : RegionId) (defined : s.regions[n].phase ≠ .undefined) :
      OwnEffect s (.retireRegion xfer e) (s.setRegion n { s.regions[n] with phase := .draining })

/-- A command's own effect, and what follows it in the event. -/
def EffectThenKept (s : State) (c : Instr) (t : State) : Prop := ∃ u, OwnEffect s c u ∧ RecordsKept u t

variable {s t : State}

/-- A command with no effect of its own. -/
theorem effect_of_records {c : Instr} {u : State} (h : (Host.Outcome.next u : Result) = .next t)
    (k : RecordsKept s u) : EffectThenKept s c t := by
  cases h; exact ⟨s, .idle c, k⟩

/-- An effect that answers the state of the event's end. -/
theorem effect_of_next {c : Instr} {u v : State} (h : (Host.Outcome.next v : Result) = .next t) (e : OwnEffect s c u)
    (k : RecordsKept u v) : EffectThenKept s c t := by
  cases h; exact ⟨u, e, k⟩

theorem withinStore_next {n : Nat} {u : State} (h : withinStore s n u = .next t) :
    n < s.store.size ∧ u = t := by
  unfold withinStore at h
  split at h
  · next hi => cases h; exact ⟨of_decide_eq_true hi, rfl⟩
  · cases h

/-! ## The ends of jobs -/

theorem records_completeFill (k : SlotId) (n : Nat) (errors : Vector WordErrors 4) (s : State) :
    RecordsKept (s.setStore (s.store.endFill k n errors)) (completeFill k n errors s) := by
  unfold completeFill
  dsimp only
  split
  · exact .refl _
  · next y _ =>
    have resident : ∀ image corrected u, RecordsKept u (residentFill k y image corrected u) := fun image corrected u =>
      records_ite (records_freeSlot k u) (.of_eq rfl rfl)
    exact (reaction_settle _).after
      (records_ite (resident _ _ _) ((reaction_raiseFault _ _).after (resident _ _ _)))

theorem effect_fillComplete {k : SlotId} {errors : Vector WordErrors 4} (h : execFillComplete k errors s = .next t) :
    EffectThenKept s (.fillComplete k errors) t := by
  unfold execFillComplete at h
  split at h
  · exact effect_of_records h (.refl s)
  · next n _ =>
    split at h
    · obtain ⟨-, rfl⟩ := withinStore_next h
      exact ⟨_, .filled k errors n, (reaction_adminMessage _ _).after (records_completeFill k n errors s)⟩
    · exact effect_of_records h (.refl s)

theorem records_failFill (k : SlotId) (n : Nat) (errors : Vector WordErrors 4) (s : State) :
    RecordsKept (s.setStore ((s.store.endFill k n errors).addPoison n)) (failFill k n errors s) := by
  unfold failFill
  dsimp only
  split
  · exact .refl _
  · refine (reaction_settle _).after ((reaction_raiseFaults _ _).after ?_)
    exact (records_freeSlot k _).trans (.foldl (fun s c => (reaction_failContext _ _ c s).records) _ _)

theorem effect_fillUncorrectable {k : SlotId} {errors : Vector WordErrors 4}
    (h : execFillUncorrectable k errors s = .next t) : EffectThenKept s (.fillUncorrectable k errors) t := by
  unfold execFillUncorrectable at h
  split at h
  · exact effect_of_records h (.refl s)
  · next n _ =>
    split at h
    · exact effect_of_records h (.refl s)
    · obtain ⟨-, rfl⟩ := withinStore_next h
      exact ⟨_, .unreadable k errors n, (reaction_adminMessage _ _).after (records_failFill k n errors s)⟩

theorem reaction_awaitedEnd (k : SlotId) (s : State) : Reaction s (awaitedEnd k s) := by
  unfold awaitedEnd
  split
  · split
    · exact reaction_setProgress _ s
    · exact .refl s
  · exact reaction_unawait k s

theorem records_afterWriteBack (k : SlotId) (y : Slot) (c : Resident) (s : State) :
    RecordsKept s (afterWriteBack k y c s) := by
  have ended := (reaction_awaitedEnd k s).records
  exact records_ite (records_ite (ended.trans (records_freeSlot k _)) ended)
    (records_ite ((reaction_startWriteBack k _).after ended) ended)

theorem records_completeWriteBack (k : SlotId) (n : Nat) (lanes : Record) (set : LaneSet) (s : State) :
    RecordsKept (s.setStore (writeLanes (s.store.endJobs (Job.isWriteBack k)) n lanes set))
      (completeWriteBack k n lanes set s) := by
  unfold completeWriteBack
  dsimp only
  split
  · exact .refl _
  · split
    · exact (reaction_settle _).after ((records_afterWriteBack k _ _ _).after (.of_eq rfl rfl))
    · exact .refl _

theorem effect_writeBackComplete {k : SlotId} (h : execWriteBackComplete k s = .next t) :
    EffectThenKept s (.writeBackComplete k) t := by
  unfold execWriteBackComplete at h
  split at h
  · exact effect_of_records h (.refl s)
  · next n lanes set _ =>
    obtain ⟨-, rfl⟩ := withinStore_next h
    exact ⟨_, .writtenBack k n lanes set, (reaction_adminMessage _ _).after (records_completeWriteBack k n lanes set s)⟩

theorem effect_regionFillComplete (h : execRegionFillComplete s = .next t) :
    EffectThenKept s .regionFillComplete t := by
  unfold execRegionFillComplete at h
  split at h
  · exact effect_of_records h (.refl s)
  · next first last pattern next _ =>
    split at h
    · exact effect_of_records h (.refl s)
    · obtain ⟨-, rfl⟩ := withinStore_next h
      unfold event completeRegionFill finishDefine
      split
      · next rg _ =>
        refine ⟨_, .regionActive first last next pattern rg, (reaction_adminMessage _ _).after ?_⟩
        exact ((reaction_completeCommand _ _ _).trans (reaction_settle _)).records
      · refine ⟨_, .regionFilled first last next pattern, (reaction_adminMessage _ _).after ?_⟩
        exact (reaction_settle _).records

theorem effect_regionFillStopped {current : Nat} (h : execRegionFillStopped current s = .next t) :
    EffectThenKept s (.regionFillStopped current) t := by
  unfold execRegionFillStopped at h
  split at h
  · exact effect_of_records h (.refl s)
  · next last pattern next _ =>
    split at h
    · obtain ⟨-, rfl⟩ := withinStore_next h
      exact ⟨_, .fillStopped current next pattern, .refl _⟩
    · exact effect_of_records h (.refl s)

/-! ## The commit of a STORE -/

theorem effect_storeCommit {c : CtxId} (h : execStoreCommit c s = .next t) : EffectThenKept s (.storeCommit c) t := by
  rcases commitOn_cases (Context.single .store) commitStore c s with hk | ⟨x, e⟩
  · exact effect_of_records h hk
  · unfold execStoreCommit at h
    rw [e] at h
    unfold commitStore at h
    split at h
    · next m data _ _ =>
      refine effect_of_next h (.stored c m.source) ((reaction_adminMessage _ _).after
        ((records_finishCommit c x _ _).after ?_))
      rw [storeImage_store]
      exact ⟨rfl, rfl, rfl, rfl, rfl, (records_storeImage x m.source data s).regions⟩
    · exact effect_of_records h (reaction_adminMessage _ s).records

/-! ## The region commands -/

@[simp] theorem commandTaken_store (xfer : Nat) (e : Entry) (s : State) : (commandTaken xfer e s).store = s.store := by
  unfold commandTaken beginCommand; split <;> rfl

@[simp] theorem commandTaken_regions (xfer : Nat) (e : Entry) (s : State) :
    (commandTaken xfer e s).regions = s.regions := by
  unfold commandTaken beginCommand; split <;> rfl

/-- A descriptor that is asked for as ACTIVE is ACTIVE. -/
theorem requestedRegion_phase {e : Entry} {phase : RegionPhase} {rg : Region}
    (h : requestedRegion e phase = some rg) : rg.phase = phase := by
  unfold requestedRegion at h
  split at h <;> cases h
  rfl

/-- DEFINE_REGION changes no region, or defines one that passes the checks of R8. -/
theorem defineRegion_cases (e : Entry) (s : State) :
    RecordsKept s (defineRegion e s) ∨
      ∃ (n : RegionId) (rg : Region), rg.phase ≠ .undefined ∧ validRegion s.store.size rg = true ∧
        s.regions[n].phase = .undefined ∧ (∀ m : RegionId, regionsOverlap rg s.regions[m] = false) ∧
        RecordsKept (s.setRegion n rg) (defineRegion e s) := by
  have refused := fun st => records_complete st 0 s
  unfold defineRegion
  split
  · next n rg _ hrg =>
    have active := requestedRegion_phase hrg
    split
    · exact .inl (refused _)
    · next hv =>
      split
      · exact .inl (refused _)
      · next hf =>
        split
        · exact .inl (refused _)
        · next ho =>
          have valid : validRegion s.store.size rg = true := by simpa using hv
          have free : s.regions[n].phase = .undefined := not_not.1 hf
          have apart : ∀ m : RegionId, regionsOverlap rg s.regions[m] = false := fun m =>
            Bool.eq_false_iff.2 fun hm => ho (List.any_eq_true.2 ⟨_, by simp, hm⟩)
          unfold defineAccepted
          split
          · exact .inr ⟨n, { rg with phase := .filling }, by simp, valid, free, apart,
              (reaction_setProgress _ _).after ⟨rfl, rfl, rfl, rfl, rfl, fun _ => .inl rfl⟩⟩
          · exact .inr ⟨n, rg, by rw [active]; simp, valid, free, apart, (reaction_completeCommand _ _ _).records⟩
  · exact .inl (refused _)

/-- RETIRE_REGION changes no region, or makes a defined one DRAINING. -/
theorem retireRegion_cases (e : Entry) (s : State) :
    RecordsKept s (retireRegion e s) ∨
      ∃ n : RegionId, s.regions[n].phase ≠ .undefined ∧
        RecordsKept (s.setRegion n { s.regions[n] with phase := .draining }) (retireRegion e s) := by
  unfold retireRegion
  split
  · exact .inl (records_complete ..)
  · next n _ =>
    split
    · exact .inl (records_complete ..)
    · next hd =>
      refine .inr ⟨n, hd, ?_⟩
      exact (reaction_retireCheck _).after ((reaction_setProgress _ _).after (.of_eq rfl rfl))

/-- What an admin command does while the device operates, it does from the state at its take. -/
theorem whileOperating_cases (value : BitVec 32) (run : State → State) (s : State) :
    RecordsKept s (whileOperating value run s) ∨ whileOperating value run s = run s := by
  unfold whileOperating
  split
  · exact .inl (records_complete ..)
  · exact .inr rfl

theorem effect_defineRegion {xfer : Nat} {e : Entry} (h : execDefineRegion xfer e s = .next t) :
    EffectThenKept s (.defineRegion xfer e) t := by
  rcases takeCommand_cases (· == 0x08) (fun e => whileOperating 0 (defineRegion e)) xfer e s with hk | he
  · exact effect_of_records h hk
  · have taken := records_commandTaken xfer e s
    rcases whileOperating_cases 0 (defineRegion e) (commandTaken xfer e s) with hk | hw
    · exact effect_of_records h (he ▸ (records_afterEvent s _ []).after (taken.trans hk))
    · rcases defineRegion_cases e (commandTaken xfer e s) with hk | ⟨n, rg, hp, hv, hf, ho, hk⟩
      · exact effect_of_records h (he ▸ (records_afterEvent s _ []).after (hw ▸ taken.trans hk))
      · simp only [commandTaken_store, commandTaken_regions] at hv hf ho
        refine effect_of_next h (.defined xfer e n rg hp hv hf ho) (he ▸ (records_afterEvent s _ []).after (hw ▸ ?_))
        exact hk.after (.of_eq (commandTaken_store xfer e s) (by simp))

theorem effect_retireRegion {xfer : Nat} {e : Entry} (h : execRetireRegion xfer e s = .next t) :
    EffectThenKept s (.retireRegion xfer e) t := by
  rcases takeCommand_cases (· == 0x09) (fun e => whileOperating 0 (retireRegion e)) xfer e s with hk | he
  · exact effect_of_records h hk
  · have taken := records_commandTaken xfer e s
    rcases whileOperating_cases 0 (retireRegion e) (commandTaken xfer e s) with hk | hw
    · exact effect_of_records h (he ▸ (records_afterEvent s _ []).after (taken.trans hk))
    · rcases retireRegion_cases e (commandTaken xfer e s) with hk | ⟨n, hd, hk⟩
      · exact effect_of_records h (he ▸ (records_afterEvent s _ []).after (hw ▸ taken.trans hk))
      · simp only [commandTaken_regions] at hd
        refine effect_of_next h (.retired xfer e n hd) (he ▸ (records_afterEvent s _ []).after (hw ▸ ?_))
        exact hk.after (.of_eq (commandTaken_store xfer e s) (by simp))

/-! ## Every command -/

/-- What a command does to the record store and to the region table: its own effect, and then no more than that regions
become UNDEFINED. -/
theorem exec_effect (c : Instr) (h : exec c s = .next t) : EffectThenKept s c t := by
  cases c with
  | powerOnReset sz1 sz0 => exact effect_of_next h (.restarted sz1 sz0) (.refl _)
  | powerOnReady => exact effect_of_records h (records_ite (.of_eq rfl rfl) (.refl s))
  | linkReset => exact effect_of_records h (records_requestReset s)
  | reset enable msgEn =>
    exact effect_of_records h (records_ite ((records_functionReset _).after (.of_eq rfl rfl)) (.refl s))
  | resetEnd => exact effect_of_records h (records_ite (.of_eq rfl rfl) (.refl s))
  | enable msgEn => exact effect_of_records h (records_registerWrite (records_writeDevControl true msgEn) s)
  | adminMsgEn msgEn => exact effect_of_records h (records_registerWrite (records_writeDevControl false msgEn) s)
  | registerWrite offset width v =>
    exact effect_of_records h (records_registerWrite (records_writeConfig offset width v) s)
  | post r v => exact effect_of_records h (records_registerWrite (records_writePost r v) s)
  | adminPost v => exact effect_of_records h (records_registerWrite (records_writeAdminPost v) s)
  | release rr v => exact effect_of_records h (records_registerWrite (records_writeRelease rr v) s)
  | adminRelease v => exact effect_of_records h (records_registerWrite (records_writeAdminRelease v) s)
  | pendingNoticePost => exact effect_of_records h (records_event (fun s => (reaction_postPending s).records) s)
  | fetchReadIssue r => exact effect_of_records h (records_issueFetch r s)
  | fetchReadComplete xfer entries =>
    exact effect_of_records h
      (records_ite (records_event (records_onReadComplete (records_completeFetch entries) xfer) s) (.refl s))
  | fetchReadFailure xfer => exact effect_of_records h (records_event (records_onReport records_failFetch xfer) s)
  | update => exact effect_of_records h (records_takeUnit _ s)
  | fetch => exact effect_of_records h (records_takeUnit _ s)
  | store => exact effect_of_records h (records_takeUnit _ s)
  | fence => exact effect_of_records h (records_takeUnit _ s)
  | nop => exact effect_of_records h (records_takeUnit _ s)
  | bundle => exact effect_of_records h (records_takeUnit _ s)
  | unknownOpcode => exact effect_of_records h (records_takeUnit _ s)
  | slotGrant => exact effect_of_records h (records_grantHead s)
  | storeReadComplete xfer data =>
    exact effect_of_records h (records_event (records_onReadComplete (records_acceptStoreData data) xfer) s)
  | storeReadFailure xfer => exact effect_of_records h (records_event (records_onReport records_failStoreRead xfer) s)
  | fillComplete k errors => exact effect_fillComplete h
  | fillUncorrectable k errors => exact effect_fillUncorrectable h
  | updateCommit c => exact effect_of_records h (records_commitOn records_commitUpdate c s)
  | fetchCommit c => exact effect_of_records h (records_commitOn records_commitFetch c s)
  | storeCommit c => exact effect_storeCommit h
  | bundleCommit c => exact effect_of_records h (records_commitOn records_commitBundle c s)
  | hostBufferWriteComplete xfer =>
    exact effect_of_records h (records_event (records_onReport records_completeBuffer xfer) s)
  | hostBufferWriteFailure xfer =>
    exact effect_of_records h (records_event (records_onReport records_failBuffer xfer) s)
  | resultWriteFailure xfer =>
    exact effect_of_records h (records_event (records_onReport (fun w => records_raise (resultWriteFault w)) xfer) s)
  | statusWriteComplete xfer =>
    exact effect_of_records h
      (records_event (records_onReport (fun w : Fin 16 × Nat => records_statusWritten w.1) xfer) s)
  | statusWriteFailure xfer =>
    exact effect_of_records h
      (records_event
        (records_onReport (fun w : Fin 16 × Nat => records_statusFailed w.1 (statusWriteFault w.1 w.2)) xfer) s)
  | coalescingExpiry rr => exact effect_of_records h (records_event (records_expireCoalescing rr) s)
  | stallExpiry rr => exact effect_of_records h (records_event (records_expireStall rr) s)
  | cleanerExpiry k =>
    exact effect_of_records h (records_ite
      (records_event (fun s => ((reaction_startWriteBack k s).trans (reaction_settle _)).records) s) (.refl s))
  | writeBackComplete k => exact effect_writeBackComplete h
  | regionFillComplete => exact effect_regionFillComplete h
  | regionFillStopped current => exact effect_regionFillStopped h
  | adminReadIssue => exact effect_of_records h (records_event (fun s => (reaction_considerAdminRead s).records) s)
  | adminReadFailure xfer => exact effect_of_records h (records_event (records_onReport records_failAdminRead xfer) s)
  | invalidCommand xfer e => exact effect_of_records h (records_takeCommand (fun _ => records_complete _ _) xfer e s)
  | identify xfer e =>
    exact effect_of_records h (records_takeCommand (fun e s => records_writeAdminBuffer e _ _ s) xfer e s)
  | createResultRing xfer e =>
    exact effect_of_records h
      (records_takeCommand (fun e => records_whileOperating 0 (records_createResult e)) xfer e s)
  | createWorkRing xfer e =>
    exact effect_of_records h (records_takeCommand (fun e => records_whileOperating 0 (records_createWork e)) xfer e s)
  | deleteWorkRing xfer e =>
    exact effect_of_records h (records_takeCommand (fun e => records_whileOperating 0 (records_deleteWork e)) xfer e s)
  | deleteResultRing xfer e =>
    exact effect_of_records h
      (records_takeCommand (fun e => records_whileOperating 0 (records_deleteResult e)) xfer e s)
  | pauseRing xfer e =>
    exact effect_of_records h (records_takeCommand (fun e => records_whileOperating 0 (records_pauseRing e)) xfer e s)
  | resumeRing xfer e =>
    exact effect_of_records h (records_takeCommand (fun e => records_whileOperating 0 (records_resumeRing e)) xfer e s)
  | defineRegion xfer e => exact effect_defineRegion h
  | retireRegion xfer e => exact effect_retireRegion h
  | flushRegion xfer e =>
    exact effect_of_records h (records_takeCommand (fun e => records_whileOperating 0 (records_flushRegion e)) xfer e s)
  | armProbe xfer e =>
    exact effect_of_records h (records_takeCommand (fun e => records_whileOperating 0 (records_armProbe e)) xfer e s)
  | disarmProbe xfer e =>
    exact effect_of_records h (records_takeCommand (fun e => records_whileOperating 0 (records_disarmProbe e)) xfer e s)
  | readFaultLog xfer e =>
    exact effect_of_records h (records_takeCommand (fun e s => records_writeAdminBuffer e _ _ s) xfer e s)
  | releaseFaultLog xfer e =>
    exact effect_of_records h (records_takeCommand (fun e => records_whileOperating 0 (records_releaseLog e)) xfer e s)
  | setFaultPolicy xfer e =>
    exact effect_of_records h
      (records_takeCommand (fun e s => records_whileOperating _ (records_setPolicy e) s) xfer e s)
  | listPoison xfer e =>
    exact effect_of_records h (records_takeCommand (fun e s => records_writeAdminBuffer e _ _ s) xfer e s)
  | setCleaner xfer e =>
    exact effect_of_records h
      (records_takeCommand (fun e s => records_whileOperating _ (records_setCleaner e) s) xfer e s)
  | adminBufferWriteComplete xfer =>
    exact effect_of_records h
      (records_event (records_onReport (fun _ s => records_bufferWritten (bufferValue s) s) xfer) s)
  | adminBufferWriteFailure xfer =>
    exact effect_of_records h (records_event
      (records_onReport (fun _ s => records_bufferFailed (adminBufferFault s) (bufferValue s) s) xfer) s)
  | adminResultWriteFailure xfer =>
    exact effect_of_records h
      (records_event (records_onReport (fun w => records_raise (adminResultWriteFault w)) xfer) s)

end OwnEffect

end Sys2Proof.Machine

/-! # The region table and the record store over one step -/

namespace Sys2Proof.Machine

section Steps

variable {s t : State}

/-! ## Steps and ticks -/

theorem step_cases (h : step s = .next t) :
    t = tick s ∨ ∃ c rest, s.pending = c :: rest ∧ exec c { s with pending := rest } = .next t := by
  unfold step at h
  split at h
  · cases h; exact .inl rfl
  · next c rest hp => exact .inr ⟨c, rest, hp, h⟩

theorem applyUpset_kept (u : Option ImageUpset) (s : State) :
    (applyUpset u s).store = s.store ∧ (applyUpset u s).regions = s.regions := by
  cases u <;> exact ⟨rfl, rfl⟩

/-- In a microsecond the region fill writes some records, if any. -/
theorem tick_store (s : State) :
    (tick s).store = s.store ∨
      ∃ pattern next n, (tick s).store = (fillRecords s.store pattern next n).advanceFill n := by
  have upset := (applyUpset_kept (Config.imageUpset s.now) s).1
  unfold tick advanceRegionFill
  rw [upset]
  dsimp only
  split
  · exact .inl upset
  · split
    · exact .inl upset
    · exact .inr ⟨_, _, _, rfl⟩

theorem tick_regions (s : State) : (tick s).regions = s.regions := by
  have upset := (applyUpset_kept (Config.imageUpset s.now) s).2
  unfold tick advanceRegionFill
  dsimp only
  split
  · exact upset
  · split <;> exact upset

theorem tick_size (s : State) : (tick s).store.size = s.store.size := by
  rcases tick_store s with e | ⟨pattern, next, n, e⟩
  · rw [e]
  · rw [e]; exact (fillRecords_tables s.store pattern next n).size

/-! ## The region table -/

theorem not_overlap_undefined {a b : Region} (h : b.phase = .undefined) : regionsOverlap a b = false := by
  simp [regionsOverlap, h]

/-- Overlap is seen from either side, where both regions are defined. -/
theorem regionsOverlap_comm {a b : Region} (h : regionsOverlap a b = false) :
    b.phase ≠ .undefined → regionsOverlap b a = false := by
  intro hb
  simp only [regionsOverlap, Bool.and_eq_false_iff, bne_eq_false_iff_eq, decide_eq_false_iff_not] at h ⊢
  rcases h with (h | h) | h
  · exact absurd h hb
  · exact .inr h
  · exact .inl (.inr h)

theorem regionProper_cleared (size : Nat) : regionProper size Region.cleared := by
  simp [regionProper, Region.cleared]

/-- Regions that each stay as they are or become UNDEFINED stay proper. -/
theorem RecordsKept.proper (h : RecordsKept s t) (p : RegionsProper s) : RegionsProper t := by
  refine ⟨fun n => ?_, fun a b hab ha => ?_⟩
  · rw [h.size]
    rcases h.regions n with e | e <;> rw [e]
    · exact p.1 n
    · exact regionProper_cleared _
  · rcases h.regions a with ea | ea <;> rw [ea] at ha ⊢
    · rcases h.regions b with eb | eb <;> rw [eb]
      · exact p.2 a b hab ha
      · exact not_overlap_undefined rfl
    · exact absurd rfl ha

/-- The regions of a state whose one descriptor changes. -/
theorem regionsProper_setRegion {n : RegionId} {rg : Region} (p : RegionsProper s)
    (own : regionProper s.store.size rg)
    (apart : rg.phase ≠ .undefined → ∀ m : RegionId, m ≠ n → regionsOverlap rg s.regions[m] = false) :
    RegionsProper (s.setRegion n rg) := by
  refine ⟨fun m => ?_, fun a b hab ha => ?_⟩ <;> simp only [State.setRegion_regions, getElem_set_fin] at *
  · split
    · exact own
    · exact p.1 m
  · by_cases ea : a = n <;> by_cases eb : b = n
    · exact absurd (ea.trans eb.symm) hab
    · rw [if_pos ea] at ha ⊢
      rw [if_neg eb]
      exact apart ha b eb
    · rw [if_neg ea] at ha ⊢
      rw [if_pos eb]
      by_cases hrg : rg.phase = .undefined
      · exact not_overlap_undefined hrg
      · exact regionsOverlap_comm (apart hrg a ea) ha
    · rw [if_neg ea] at ha ⊢
      rw [if_neg eb]
      exact p.2 a b hab ha

/-- A defined region that goes on to another life state in which it is defined. -/
theorem regionsProper_setPhase {n : RegionId} {phase : RegionPhase} (p : RegionsProper s)
    (hn : s.regions[n].phase ≠ .undefined) (hp : phase ≠ .undefined) :
    RegionsProper (s.setRegion n { s.regions[n] with phase := phase }) := by
  refine regionsProper_setRegion p ?_ fun _ m hm => ?_
  · have := p.1 n
    unfold regionProper at this ⊢
    rw [if_neg hn] at this
    rw [if_neg hp]
    exact this
  · exact p.2 n m hm.symm hn

theorem regionsProper_setFilled {n : RegionId} (p : RegionsProper s) :
    RegionsProper (s.setRegion n s.regions[n].filled) := by
  unfold Region.filled
  split
  · next h => exact regionsProper_setPhase p (by rw [h]; simp) (by simp)
  · exact regionsProper_setRegion p (p.1 n) fun hn m hm => p.2 n m hm.symm hn

/-- The regions are proper whatever becomes of the store's content. -/
theorem regionsProper_setStore {st : Store} (h : st.size = s.store.size) (p : RegionsProper s) :
    RegionsProper (s.setStore st) := ⟨fun n => h ▸ p.1 n, p.2⟩

theorem regionsProper_cleared (h : ∀ n : RegionId, s.regions[n] = Region.cleared) : RegionsProper s :=
  ⟨fun n => h n ▸ regionProper_cleared _, fun a _ _ ha => absurd (by rw [h a]; rfl) ha⟩

theorem regionsProper_dropFilling (p : RegionsProper s) : RegionsProper (dropFilling s) := by
  refine RecordsKept.proper (s := s) ⟨rfl, rfl, rfl, rfl, rfl, fun n => ?_⟩ p
  show (s.regions.map _)[n] = _ ∨ (s.regions.map _)[n] = _
  rw [getElem_map_fin]
  split
  · exact .inr rfl
  · exact .inl rfl

theorem endFill_size (st : Store) (k : SlotId) (errors : Vector WordErrors 4) (n : Nat) :
    (st.endFill k n errors).size = st.size := (endFill_content st k n errors).size

theorem addPoison_size (st : Store) (n : Nat) : (st.addPoison n).size = st.size := by
  unfold Store.addPoison; split <;> rfl

/-- A command's own effect keeps the region table proper. -/
theorem OwnEffect.proper {c : Instr} (h : OwnEffect s c t) (p : RegionsProper s) : RegionsProper t := by
  have filled := fun pattern next n => (fillRecords_tables s.store pattern next n).size
  cases h with
  | idle => exact p
  | restarted sz1 sz0 => exact regionsProper_cleared fun n => by simp [powerOn, State.reset]
  | filled k errors n => exact regionsProper_setStore (endFill_size ..) p
  | unreadable k errors n => exact regionsProper_setStore ((addPoison_size _ n).trans (endFill_size ..)) p
  | stored c n => exact regionsProper_setStore rfl p
  | writtenBack k n lanes set => exact regionsProper_setStore (writeLanes_tables _ n lanes set).size p
  | regionFilled first last next pattern => exact regionsProper_setStore (filled _ _ _) p
  | regionActive first last next pattern n =>
    exact regionsProper_setFilled (s := s.setStore _) (regionsProper_setStore (filled _ _ _) p)
  | fillStopped current next pattern =>
    exact regionsProper_dropFilling (s := s.setStore _) (regionsProper_setStore (filled _ _ _) p)
  | defined xfer e n rg phase valid free apart =>
    exact regionsProper_setRegion p (by rw [regionProper, if_neg phase]; exact valid) fun _ m _ => apart m
  | retired xfer e n defined => exact regionsProper_setPhase p defined (by simp)

/-- Settles O4: from what each command does to the region table, and what a microsecond leaves of it. -/
theorem stepKeepsRegionsProper : Obligations.StepKeepsRegionsProper := by
  intro s t p h
  rcases step_cases h with rfl | ⟨c, rest, _, hc⟩
  · exact RecordsKept.proper (s := s.setStore (tick s).store)
      ⟨rfl, rfl, rfl, rfl, rfl, fun _ => .inl (by rw [tick_regions]; rfl)⟩ (regionsProper_setStore (tick_size s) p)
  · obtain ⟨u, own, kept⟩ := exec_effect c hc
    exact kept.proper (own.proper (s := { s with pending := rest }) p)

/-! ## The canonical form of the record store -/

theorem RecordsKept.canonical (h : RecordsKept s t) (m : MemoryCanonical s) : MemoryCanonical t := by
  unfold MemoryCanonical StoreCanonical at *
  rw [h.dram, h.check, h.errors]
  exact m

theorem endFill_canonical (st : Store) (k : SlotId) (n : Nat) (errors : Vector WordErrors 4) (h : StoreCanonical st) :
    StoreCanonical (st.endFill k n errors) := addFillErrors_canonical (st.endJobs (Job.isFill k)) n errors h

theorem addPoison_canonical (st : Store) (n : Nat) (h : StoreCanonical st) : StoreCanonical (st.addPoison n) := by
  unfold Store.addPoison
  split <;> exact h

/-- A command's own effect keeps the record store's canonical form. -/
theorem OwnEffect.canonical {c : Instr} (h : OwnEffect s c t) (m : MemoryCanonical s) : MemoryCanonical t := by
  have filled := fun pattern next n => fillRecords_canonical s.store pattern next n m
  cases h with
  | idle => exact m
  | restarted sz1 sz0 => exact ⟨.nil, .nil, .nil, fun _ h => absurd h (by simp [powerOn, State.reset])⟩
  | filled k errors n => exact endFill_canonical _ k n errors m
  | unreadable k errors n => exact addPoison_canonical _ n (endFill_canonical _ k n errors m)
  | stored c n => exact m
  | writtenBack k n lanes set => exact writeLanes_canonical (s.store.endJobs _) n lanes set m
  | regionFilled first last next pattern => exact filled _ _ _
  | regionActive first last next pattern n => exact filled _ _ _
  | fillStopped current next pattern => exact filled _ _ _
  | defined xfer e n rg phase valid free apart => exact m
  | retired xfer e n defined => exact m

/-- Settles O8: every write of a command or of a microsecond keeps the canonical form. -/
theorem stepKeepsMemoryCanonical : Obligations.StepKeepsMemoryCanonical := by
  intro s t m h
  rcases step_cases h with rfl | ⟨c, rest, _, hc⟩
  · rcases tick_store s with e | ⟨pattern, next, n, e⟩
    · unfold MemoryCanonical; rw [e]; exact m
    · unfold MemoryCanonical; rw [e]; exact fillRecords_canonical s.store pattern next n m
  · obtain ⟨u, own, kept⟩ := exec_effect c hc
    exact kept.canonical (own.canonical (s := { s with pending := rest }) m)

/-! ## What changes the record store -/

/-- What a command may change of the record store, besides S at a power-on reset: bytes and check bits at the end of a
write-back or of a region fill, bits in error also at the end of a fill, the poison list at an uncorrectable fill, at a
STORE's commit and at the end of a region fill. -/
structure ChangedByItsJobs (c : Instr) (s t : State) : Prop where
  size : t.store.size = s.store.size
  written : (∀ k, c ≠ .writeBackComplete k) → c ≠ .regionFillComplete → (∀ n, c ≠ .regionFillStopped n) →
    t.store.dram = s.store.dram ∧ t.store.check = s.store.check
  errors : (∀ k, c ≠ .writeBackComplete k) → c ≠ .regionFillComplete → (∀ n, c ≠ .regionFillStopped n) →
    (∀ k errors, c ≠ .fillComplete k errors) → (∀ k errors, c ≠ .fillUncorrectable k errors) →
    t.store.errors = s.store.errors
  poison : (∀ k errors, c ≠ .fillUncorrectable k errors) → (∀ x, c ≠ .storeCommit x) → c ≠ .regionFillComplete →
    t.store.poison = s.store.poison

theorem ChangedByItsJobs.kept {c : Instr} {u : State} (h : ChangedByItsJobs c s u) (k : RecordsKept u t) :
    ChangedByItsJobs c s t where
  size := k.size.trans h.size
  written a b d := ⟨k.dram.trans (h.written a b d).1, k.check.trans (h.written a b d).2⟩
  errors a b d e f := k.errors.trans (h.errors a b d e f)
  poison a b d := k.poison.trans (h.poison a b d)

theorem ChangedByItsJobs.same {c : Instr} (h : t.store = s.store) : ChangedByItsJobs c s t := by
  constructor <;> simp [h]

theorem OwnEffect.byJobs {c : Instr} (h : OwnEffect s c t) (hc : ∀ sz1 sz0, c ≠ .powerOnReset sz1 sz0) :
    ChangedByItsJobs c s t := by
  have tables := fun pattern next n => fillRecords_tables s.store pattern next n
  have fill := fun k n errors => endFill_content s.store k n errors
  cases h with
  | idle => exact .same rfl
  | restarted sz1 sz0 => exact absurd rfl (hc sz1 sz0)
  | filled k errors n =>
    exact ⟨(fill k n errors).size, fun _ _ _ => ⟨(fill k n errors).dram, (fill k n errors).check⟩,
      fun _ _ _ h => absurd rfl (h k errors), fun _ _ _ => (fill k n errors).poison⟩
  | unreadable k errors n =>
    have content : (((s.store.endFill k n errors).addPoison n).dram = s.store.dram) ∧
        ((s.store.endFill k n errors).addPoison n).check = s.store.check := by
      unfold Store.addPoison
      split <;> exact ⟨(fill k n errors).dram, (fill k n errors).check⟩
    exact ⟨(addPoison_size _ n).trans (fill k n errors).size, fun _ _ _ => content,
      fun _ _ _ _ h => absurd rfl (h k errors), fun h => absurd rfl (h k errors)⟩
  | stored c n => exact ⟨rfl, fun _ _ _ => ⟨rfl, rfl⟩, fun _ _ _ _ _ => rfl, fun _ h => absurd rfl (h c)⟩
  | writtenBack k n lanes set =>
    have lanesTables := writeLanes_tables (s.store.endJobs (Job.isWriteBack k)) n lanes set
    exact ⟨lanesTables.size, fun h => absurd rfl (h k), fun h => absurd rfl (h k), fun _ _ _ => lanesTables.poison⟩
  | regionFilled first last next pattern =>
    exact ⟨(tables _ _ _).size, fun _ h => absurd rfl h, fun _ h => absurd rfl h, fun _ _ h => absurd rfl h⟩
  | regionActive first last next pattern n =>
    exact ⟨(tables _ _ _).size, fun _ h => absurd rfl h, fun _ h => absurd rfl h, fun _ _ h => absurd rfl h⟩
  | fillStopped current next pattern =>
    exact ⟨(tables _ _ _).size, fun _ _ h => absurd rfl (h current), fun _ _ h => absurd rfl (h current),
      fun _ _ _ => (tables _ _ _).poison⟩
  | defined xfer e n rg phase valid free apart => exact .same rfl
  | retired xfer e n defined => exact .same rfl

/-- Settles O14: each command's own effect on the store, which the rest of its event leaves alone. -/
theorem storeChangedOnlyByItsJobs : Obligations.StoreChangedOnlyByItsJobs := by
  intro c s t h hc
  obtain ⟨u, own, kept⟩ := exec_effect c h
  obtain ⟨size, written, errors, poison⟩ := (own.byJobs hc).kept kept
  refine ⟨size, fun a b d => ?_, poison⟩
  exact ⟨(written a b d).1, (written a b d).2, errors a b d⟩

end Steps

end Sys2Proof.Machine

/-! # What the words of a record read as after it is written -/

namespace Sys2Proof.Machine

section Words

/-! ## The bytes of a record and of its words -/

theorem leBytes_add (a b v : Nat) : leBytes (a + b) v = leBytes a v ++ leBytes b (v / 256 ^ a) := by
  induction a generalizing v with
  | zero => simp [leBytes]
  | succ a ih =>
    rw [Nat.succ_add, leBytes, leBytes, ih, List.cons_append, Nat.div_div_eq_div_mul, Nat.pow_succ']

/-- The low bytes of a number do not depend on what stands above them. -/
theorem leBytes_mod (a v : Nat) : leBytes a (v % 256 ^ a) = leBytes a v := by
  induction a generalizing v with
  | zero => rfl
  | succ a ih =>
    rw [leBytes, leBytes, Nat.pow_succ', Nat.mod_mul_right_div_self, ih]
    refine congrArg (· :: _) (BitVec.eq_of_toNat_eq ?_)
    rw [BitVec.toNat_ofNat, BitVec.toNat_ofNat]
    exact Nat.mod_mul_right_mod v 256 _

/-- The bytes of a protection word: its lower lane's, then its upper lane's. -/
theorem leBytes_word (low high : Lane) :
    leBytes 8 (high ++ low).toNat = leBytes 4 low.toNat ++ leBytes 4 high.toNat := by
  have hl := low.isLt
  have e : (high ++ low).toNat = high.toNat * 2 ^ 32 + low.toNat := by
    rw [BitVec.toNat_append, ← Nat.shiftLeft_add_eq_or_of_lt hl, Nat.shiftLeft_eq]
  rw [e, leBytes_add 4 4, ← leBytes_mod 4 (_ + _)]
  congr 2 <;> omega

/-- The bytes of a record, word by word. -/
theorem recordBytes_words (r : Record) :
    recordBytes r = (List.finRange 4).flatMap fun w => leBytes 8 (wordOf r w).toNat := by
  obtain ⟨⟨l⟩, hl⟩ := r
  match l, hl with
  | [a, b, c, d, e, f, g, h], _ =>
    show leBytes 4 a.toNat ++ (leBytes 4 b.toNat ++ (leBytes 4 c.toNat ++ (leBytes 4 d.toNat ++ (leBytes 4 e.toNat ++
      (leBytes 4 f.toNat ++ (leBytes 4 g.toNat ++ (leBytes 4 h.toNat ++ []))))))) =
      leBytes 8 (b ++ a).toNat ++ (leBytes 8 (d ++ c).toNat ++ (leBytes 8 (f ++ e).toNat ++
        (leBytes 8 (h ++ g).toNat ++ [])))
    simp only [leBytes_word, List.append_assoc]

/-- Place `i` of part `k` of a list that is made of parts of one length. -/
theorem getElem?_flatMap_parts {α β : Type} {g : α → List β} {c : Nat} (hg : ∀ x, (g x).length = c) (l : List α)
    {k i : Nat} (hi : i < c) : (l.flatMap g)[c * k + i]? = l[k]?.bind fun x => (g x)[i]? := by
  induction l generalizing k with
  | nil => simp
  | cons x l ih =>
    rw [List.flatMap_cons]
    cases k with
    | zero => rw [List.getElem?_append_left (by rw [hg]; omega)]; simp
    | succ k =>
      rw [List.getElem?_append_right (by rw [hg, Nat.mul_succ]; omega), hg, Nat.mul_succ,
        show c * k + c + i - c = c * k + i by omega, ih, List.getElem?_cons_succ]

theorem recordBytes_getElem? (r : Record) (w : WordId) {i : Nat} (hi : i < 8) :
    (recordBytes r)[8 * w.val + i]? = (leBytes 8 (wordOf r w).toNat)[i]? := by
  rw [recordBytes_words, getElem?_flatMap_parts (fun w => leBytes_length 8 _) _ hi,
    List.getElem?_eq_getElem (by simp), List.getElem_finRange]
  rfl

/-! ## What depends on one protection word -/

/-- A reading of the store that depends on the last write of word `v` of record `m` and on no other word's. -/
structure ReadsWord {α : Type} (m : Nat) (v : WordId) (read : Store → α) (f : BitVec 64 → α) : Prop where
  same : ∀ st d, StoreCanonical st → read (writeWord st m v d) = f d
  other : ∀ st n w d, StoreCanonical st → ¬(m = n ∧ v = w) → read (writeWord st n w d) = read st

theorem readsWord_dram (m : Nat) (v : WordId) {i : Nat} (hi : i < 8) :
    ReadsWord m v (fun st => Memory.read st.dram (32 * m + 8 * v.val + i)) fun d => (leBytes 8 d.toNat)[i]? where
  same st d h := (readback_word st m v d h i hi).1
  other st n w d h hne := by
    have hv := v.isLt
    have hw := w.isLt
    show Memory.read (Memory.writeBytes st.dram (wordAddr n w) (leBytes 8 d.toNat)) _ = _
    rw [Memory.read_writeBytes _ _ _ _ h.1, leBytes_length, if_neg]
    unfold wordAddr
    intro hr
    exact hne ⟨by omega, Fin.ext (by omega)⟩

theorem readsWord_check (m : Nat) (v : WordId) :
    ReadsWord m v (fun st => Memory.read st.check (4 * m + v.val)) fun d => some (Config.eccCheck d) where
  same st d h := (readCheck_writeWord st m m v v d h).trans (if_pos ⟨rfl, rfl⟩)
  other st n w d h hne := (readCheck_writeWord st n m w v d h).trans (if_neg hne)

theorem readsWord_errors (m : Nat) (v : WordId) :
    ReadsWord m v (fun st => wordErrors st m v) fun _ => 0 where
  same st d _ := (wordErrors_writeWord st m m v v d).trans (if_pos ⟨rfl, rfl⟩)
  other st n w d _ hne := (wordErrors_writeWord st n m w v d).trans (if_neg hne)

variable {α : Type} {m : Nat} {v : WordId} {read : Store → α} {f : BitVec 64 → α}

/-- A word after the touched words of a list are written. -/
theorem ReadsWord.foldl (h : ReadsWord m v read f) (n : Nat) (lanes : Record) (set : LaneSet) (l : List WordId)
    (hl : l.Nodup) (st : Store) (hc : StoreCanonical st) :
    read (l.foldl (fun acc w => if wordTouched set w then writeWord acc n w (wordOf lanes w) else acc) st) =
      if m = n ∧ v ∈ l ∧ wordTouched set v = true then f (wordOf lanes v) else read st := by
  induction l generalizing st with
  | nil => simp
  | cons w l ih =>
    obtain ⟨hw, hl⟩ := List.nodup_cons.1 hl
    rw [List.foldl_cons]
    by_cases ht : wordTouched set w = true
    · rw [if_pos ht, ih hl _ (writeWord_canonical st n w _ hc)]
      by_cases he : m = n ∧ v = w
      · obtain ⟨rfl, rfl⟩ := he
        rw [if_neg (fun h => hw h.2.1), if_pos ⟨rfl, List.mem_cons_self, ht⟩, h.same st _ hc]
      · rw [h.other st n w _ hc he]
        refine if_congr ?_ rfl rfl
        simp only [List.mem_cons]
        tauto
    · rw [if_neg ht, ih hl _ hc]
      refine if_congr ?_ rfl rfl
      simp only [List.mem_cons]
      constructor
      · rintro ⟨a, b, c⟩; exact ⟨a, .inr b, c⟩
      · rintro ⟨a, rfl | b, c⟩
        · exact absurd c ht
        · exact ⟨a, b, c⟩

/-- A word after lanes of a record are written (R108). -/
theorem ReadsWord.writeLanes (h : ReadsWord m v read f) (n : Nat) (lanes : Record) (set : LaneSet) (st : Store)
    (hc : StoreCanonical st) :
    read (writeLanes st n lanes set) = if m = n ∧ wordTouched set v = true then f (wordOf lanes v) else read st := by
  refine (h.foldl n lanes set _ (List.nodup_finRange 4) st hc).trans (if_congr ?_ rfl rfl)
  simp

theorem wordTouched_allLanes (w : WordId) : wordTouched allLanes w = true := by
  revert w; decide

/-- A word after records are filled (R109). -/
theorem ReadsWord.fillRecords (h : ReadsWord m v read f) (pattern : Record) (first count : Nat) (st : Store)
    (hc : StoreCanonical st) :
    read (fillRecords st pattern first count) =
      if first ≤ m ∧ m < first + count then f (wordOf pattern v) else read st := by
  induction count generalizing first st with
  | zero => rw [if_neg (by omega)]; rfl
  | succ k ih =>
    rw [Machine.fillRecords, ih _ _ (writeLanes_canonical st first pattern allLanes hc), h.writeLanes _ _ _ st hc]
    simp only [wordTouched_allLanes, and_true]
    by_cases hm : m = first
    · rw [if_neg (by omega), if_pos hm, if_pos (by omega)]
    · rw [if_neg hm]
      exact if_congr (by omega) rfl rfl

/-! ## A record that is written, as bytes and check bits at addresses -/

variable {st : Store}

/-- An address of a check byte names a word of a record. -/
theorem checkAddress_word (a : Nat) : ∃ w : WordId, a = 4 * (a / 4) + w.val :=
  ⟨⟨a % 4, Nat.mod_lt _ (by decide)⟩, by show a = 4 * (a / 4) + a % 4; omega⟩

theorem writeLanes_check_frame (n : Nat) (lanes : Record) (set : LaneSet) (hc : StoreCanonical st) {a : Nat}
    (ha : a < 4 * n ∨ 4 * n + 4 ≤ a) :
    Memory.read (writeLanes st n lanes set).check a = Memory.read st.check a := by
  obtain ⟨w, e⟩ := checkAddress_word a
  have := (readsWord_check (a / 4) w).writeLanes n lanes set st hc
  rw [if_neg (by have := w.isLt; omega), ← e] at this
  exact this

theorem fillRecords_check_frame (pattern : Record) (first count : Nat) (hc : StoreCanonical st) {a : Nat}
    (ha : a < 4 * first ∨ 4 * (first + count) ≤ a) :
    Memory.read (fillRecords st pattern first count).check a = Memory.read st.check a := by
  obtain ⟨w, e⟩ := checkAddress_word a
  have := (readsWord_check (a / 4) w).fillRecords pattern first count st hc
  rw [if_neg (by have := w.isLt; omega), ← e] at this
  exact this

/-- The bytes of a filled record are the pattern's. -/
theorem fillRecords_dram (pattern : Record) (first count : Nat) (hc : StoreCanonical st) {n i : Nat}
    (hn : first ≤ n ∧ n < first + count) (hi : i < 32) :
    Memory.read (fillRecords st pattern first count).dram (32 * n + i) = (recordBytes pattern)[i]? := by
  have hb : i % 8 < 8 := Nat.mod_lt _ (by decide)
  have hw : i / 8 < 4 := by omega
  have := (readsWord_dram n ⟨i / 8, hw⟩ hb).fillRecords pattern first count st hc
  rw [if_pos hn, ← recordBytes_getElem? _ _ hb] at this
  have e : 8 * (i / 8) + i % 8 = i := Nat.div_add_mod i 8
  simpa only [Nat.add_assoc, e] using this

end Words

end Sys2Proof.Machine

/-! # The ends of write-backs and of region fills -/

namespace Sys2Proof.Machine

section Jobs

variable {s : State}

/-! ## What goes on after a write-back -/

theorem releasing_iff (s : State) (rg : RegionId) : releasing s rg = true ↔
    s.resetPhase = .functionReset ∨ ∃ probes, runningProgress s = some (.retireRelease rg probes) := by
  unfold releasing
  rw [Bool.or_eq_true, beq_iff_eq]
  refine or_congr_right ?_
  split
  · next rg' n h => simp [h]
  · next h =>
    refine ⟨fun h => absurd h (by simp), fun ⟨probes, e⟩ => absurd e (h rg probes)⟩

theorem ageReached_iff (s : State) (since : Option Nat) : ageReached s since = true ↔
    ∃ d, since = some d ∧ s.cache.ageLimit ≠ 0 ∧ 1000 * s.cache.ageLimit ≤ s.now - d := by
  cases since with
  | none => simp [ageReached]
  | some d => simp [ageReached, Config.microsPerMilli, Nat.mul_comm s.cache.ageLimit 1000]

theorem awaitedAgain_iff (s : State) (k : SlotId) : awaitedAgain s k = true ↔
    ∃ awaited, runningProgress s = some (.flush awaited) ∧ ∃ a ∈ awaited, a.slot = k ∧ a.again = true := by
  unfold awaitedAgain
  split
  · next awaited h => simp [h]
  · next h => exact ⟨fun h => absurd h (by simp), fun ⟨awaited, e, _⟩ => absurd e (h awaited)⟩

theorem awaitedEnd_of_no_flush {k : SlotId} (h : ∀ awaited, runningProgress s ≠ some (.flush awaited)) :
    awaitedEnd k s = s := by
  have again : ¬awaitedAgain s k = true := fun e => by
    obtain ⟨awaited, e, _⟩ := (awaitedAgain_iff s k).1 e
    exact h awaited e
  unfold awaitedEnd unawait
  rw [if_neg again]
  split
  · next e => exact absurd e (h _)
  · rfl

theorem awaitedEnd_of_flush {k : SlotId} {awaited : List Awaited} (h : runningProgress s = some (.flush awaited)) :
    awaitedEnd k s = if awaitedAgain s k = true then
        setProgress (.flush (awaited.map fun a => if a.slot = k then { a with again := false } else a)) s
      else setProgress (.flush (awaited.filter fun a => a.slot != k)) s := by
  unfold awaitedEnd unawait
  rw [h]

theorem furtherDue_iff (s : State) (k : SlotId) (rg : RegionId) (c : Resident) : furtherDue s k rg c = true ↔
    releasing s rg = true ∨ awaitedAgain s k = true ∨ ageReached s c.dirtySince = true := by
  simp [furtherDue, or_assoc]

/-! ## WRITE_BACK_COMPLETE -/

/-- The state in which the write-back of a RESIDENT slot has ended and nothing has followed yet (R95, R108). -/
def writeBackEnded (k : SlotId) (n : Nat) (lanes : Record) (set : LaneSet) (y : Slot) (c : Resident) (s : State) :
    State :=
  (s.setStore (writeLanes (s.store.endJobs (Job.isWriteBack k)) n lanes set)).setSlot k
    (some { y with phase := .resident { c with writeBack := false } })

theorem completeWriteBack_resident {k : SlotId} {y : Slot} {c : Resident} (hy : s.cache.slots[k] = some y)
    (hc : y.phase = .resident c) (n : Nat) (lanes : Record) (set : LaneSet) :
    completeWriteBack k n lanes set s = settle (afterWriteBack k y c (writeBackEnded k n lanes set y c s)) := by
  unfold completeWriteBack
  dsimp only
  rw [hy]
  dsimp only
  rw [hc]
  rfl

/-- The end of a write-back job inside the store, as an event. -/
theorem exec_writeBackComplete {k : SlotId} {n : Nat} {lanes : Record} {set : LaneSet}
    (hj : s.store.writeBackJob k = some (n, lanes, set)) :
    exec (.writeBackComplete k) s =
      if n < s.store.size then .next (event (completeWriteBack k n lanes set) s) else .fault .outsideStore := by
  show execWriteBackComplete k s = _
  unfold execWriteBackComplete withinStore inStore
  rw [hj]
  simp only [decide_eq_true_eq]

theorem wordTouched_iff (set : LaneSet) (w : WordId) : wordTouched set w = true ↔
    set.getLsbD (2 * w.val) = true ∨ set.getLsbD (2 * w.val + 1) = true := by
  unfold wordTouched; exact Bool.or_eq_true_iff

/-- The protection words of a record that hold a lane of a set stand as the lanes give them, with check bits computed
from them and no bit in error, and the rest of a store is as it was (R108). -/
structure LanesWritten (a b : Store) (n : Nat) (lanes : Record) (set : LaneSet) : Prop where
  bytes : ∀ (w : WordId) (i : Nat), i < 8 → wordTouched set w = true →
    Memory.read b.dram (32 * n + 8 * w.val + i) = (recordBytes lanes)[8 * w.val + i]?
  words : ∀ w : WordId, wordTouched set w = true →
    Memory.read b.check (4 * n + w.val) = some (Config.eccCheck (lanes[highLane w] ++ lanes[lowLane w])) ∧
      wordErrors b n w = 0
  bytesKept : ∀ (w : WordId) (i : Nat), i < 8 → ¬wordTouched set w = true →
    Memory.read b.dram (32 * n + 8 * w.val + i) = Memory.read a.dram (32 * n + 8 * w.val + i)
  wordsKept : ∀ w : WordId, ¬wordTouched set w = true →
    Memory.read b.check (4 * n + w.val) = Memory.read a.check (4 * n + w.val) ∧ wordErrors b n w = wordErrors a n w
  dram : ∀ x, x < 32 * n ∨ 32 * n + 32 ≤ x → Memory.read b.dram x = Memory.read a.dram x
  check : ∀ x, x < 4 * n ∨ 4 * n + 4 ≤ x → Memory.read b.check x = Memory.read a.check x
  errors : ∀ (m : Nat) (w : WordId), m ≠ n → wordErrors b m w = wordErrors a m w

theorem lanesWritten_writeLanes {st : Store} (hc : StoreCanonical st) (n : Nat) (lanes : Record) (set : LaneSet) :
    LanesWritten st (writeLanes st n lanes set) n lanes set where
  bytes w i hi hw := by
    rw [(readsWord_dram n w hi).writeLanes n lanes set st hc, if_pos ⟨rfl, hw⟩, recordBytes_getElem? _ _ hi]
  words w hw := by
    rw [(readsWord_check n w).writeLanes n lanes set st hc, (readsWord_errors n w).writeLanes n lanes set st hc,
      if_pos ⟨rfl, hw⟩, if_pos ⟨rfl, hw⟩]
    exact ⟨rfl, rfl⟩
  bytesKept w i hi hw := by rw [(readsWord_dram n w hi).writeLanes n lanes set st hc, if_neg fun h => hw h.2]
  wordsKept w hw := by
    rw [(readsWord_check n w).writeLanes n lanes set st hc, (readsWord_errors n w).writeLanes n lanes set st hc,
      if_neg fun h => hw h.2, if_neg fun h => hw h.2]
    exact ⟨rfl, rfl⟩
  dram x hx := writeLanes_frame st n lanes set hc x hx
  check x hx := writeLanes_check_frame n lanes set hc hx
  errors m w hm := by rw [(readsWord_errors m w).writeLanes n lanes set st hc, if_neg fun h => hm h.1]

/-- The same for a store with the same content, as what follows the write in its event leaves it. -/
theorem LanesWritten.congr {a b d : Store} {n : Nat} {lanes : Record} {set : LaneSet} (h : LanesWritten a b n lanes set)
    (hd : d.dram = b.dram) (hk : d.check = b.check) (he : d.errors = b.errors) : LanesWritten a d n lanes set := by
  have errors : ∀ m w, wordErrors d m w = wordErrors b m w := fun m w => by unfold wordErrors; rw [he]
  obtain ⟨h1, h2, h3, h4, h5, h6, h7⟩ := h
  simp only [← errors] at h2 h4 h7
  simp only [← hd] at h1 h3 h5
  simp only [← hk] at h2 h4 h6
  exact ⟨h1, h2, h3, h4, h5, h6, h7⟩

/-- Settles O59: the words by what each reads as after the write of the lanes, the slot by the cases of what follows. -/
theorem writeBackCompletes : Obligations.WriteBackCompletes := by
  intro s k n lanes set hm hj touched
  rw [exec_writeBackComplete hj]
  refine ⟨fun h => if_neg (not_lt.2 h), fun h => ⟨_, if_pos h, ?_⟩⟩
  have kept : RecordsKept _ (event (completeWriteBack k n lanes set) s) :=
    (reaction_adminMessage _ _).after (records_completeWriteBack k n lanes set s)
  have written := (lanesWritten_writeLanes (st := s.store.endJobs (Job.isWriteBack k)) hm n lanes set).congr kept.dram
    kept.check kept.errors
  have ht : ∀ {w}, touched w → wordTouched set w = true := (wordTouched_iff set _).2
  have hn : ∀ {w}, ¬touched w → ¬wordTouched set w = true := mt (wordTouched_iff set _).1
  refine ⟨fun w i hi hw => written.bytes w i hi (ht hw), fun w hw => written.words w (ht hw),
    fun w i hi hw => written.bytesKept w i hi (hn hw), fun w hw => written.wordsKept w (hn hw), written.dram,
    written.check, written.errors, fun y c hy hr => ?_⟩
  have tables := writeLanes_tables (s.store.endJobs (Job.isWriteBack k)) n lanes set
  have ended : event (completeWriteBack k n lanes set) s =
      afterEvent s (afterWriteBack k y c (writeBackEnded k n lanes set y c s)) [] := by
    unfold event
    rw [completeWriteBack_resident hy hr]
    rfl
  refine ⟨writeBackEnded k n lanes set y c s, awaitedEnd k (writeBackEnded k n lanes set y c s), ended, rfl,
    tables.jobs, tables.poison, rfl, rfl, rfl, rfl, rfl, ?_⟩
  intro released again aged
  have hreleased : releasing (writeBackEnded k n lanes set y c s) y.region = true ↔ released := releasing_iff _ _
  have hagain : awaitedAgain (writeBackEnded k n lanes set y c s) k = true ↔ again := awaitedAgain_iff _ _
  have haged : ageReached (writeBackEnded k n lanes set y c s) c.dirtySince = true ↔ aged := ageReached_iff _ _
  have hdue := (furtherDue_iff (writeBackEnded k n lanes set y c s) k y.region c).trans
    (or_congr hreleased (or_congr hagain haged))
  rw [ended]
  unfold afterWriteBack
  refine ⟨awaitedEnd_of_no_flush (s := writeBackEnded k n lanes set y c s), fun awaited hf => ?_,
    fun hd hr => ?_, fun hd hr => ?_, fun hd hr => ?_, fun hd hr => ?_⟩
  · rw [awaitedEnd_of_flush (s := writeBackEnded k n lanes set y c s) hf]
    exact ⟨fun ha => if_pos (hagain.2 ha), fun ha => if_neg (mt hagain.1 ha)⟩
  · rw [if_pos hd, if_pos (hreleased.2 hr)]
  · rw [if_pos hd, if_neg (mt hreleased.1 hr)]
  · rw [if_neg hd, if_pos (hdue.2 hr)]
  · rw [if_neg hd, if_neg (mt hdue.1 hr)]

/-! ## The region fill -/

/-- The records from `next` on and below `till` hold the pattern, with check bits computed from it and no bit in error,
and the rest of a store is as it was (R109). -/
structure FilledWith (a b : Store) (pattern : Record) (next till : Nat) : Prop where
  bytes : ∀ n i, next ≤ n → n < till → i < 32 → Memory.read b.dram (32 * n + i) = (recordBytes pattern)[i]?
  words : ∀ (n : Nat) (w : WordId), next ≤ n → n < till →
    Memory.read b.check (4 * n + w.val) = some (Config.eccCheck (pattern[highLane w] ++ pattern[lowLane w])) ∧
      wordErrors b n w = 0
  dram : ∀ x, x < 32 * next ∨ 32 * till ≤ x → next ≤ till → Memory.read b.dram x = Memory.read a.dram x
  check : ∀ x, x < 4 * next ∨ 4 * till ≤ x → next ≤ till → Memory.read b.check x = Memory.read a.check x
  errors : ∀ (n : Nat) (w : WordId), n < next ∨ till ≤ n → next ≤ till → wordErrors b n w = wordErrors a n w

/-- What a region fill writes, whatever jobs and poison list become of it. -/
theorem filledWith_fillRecords {st b : Store} (hc : StoreCanonical st) (pattern : Record) {next till count : Nat}
    (ht : count = till - next) (hd : b.dram = (fillRecords st pattern next count).dram)
    (hk : b.check = (fillRecords st pattern next count).check)
    (he : b.errors = (fillRecords st pattern next count).errors) : FilledWith st b pattern next till := by
  have errors : ∀ n w, wordErrors b n w = wordErrors (fillRecords st pattern next count) n w := fun n w => by
    unfold wordErrors; rw [he]
  constructor
  · intro n i hn hlt hi
    rw [hd, fillRecords_dram pattern next count hc (by omega) hi]
  · intro n w hn hlt
    rw [hk, errors, (readsWord_check n w).fillRecords pattern next count st hc,
      (readsWord_errors n w).fillRecords pattern next count st hc, if_pos (by omega), if_pos (by omega)]
    exact ⟨rfl, rfl⟩
  · intro x hx hle
    rw [hd]; exact fillRecords_frame st pattern next count hc x (by omega)
  · intro x hx hle
    rw [hk]; exact fillRecords_check_frame pattern next count hc (by omega)
  · intro n w hx hle
    rw [errors, (readsWord_errors n w).fillRecords pattern next count st hc, if_neg (by omega)]

/-- The same after what follows the write in its event. -/
theorem FilledWith.kept {st : Store} {u t : State} {pattern : Record} {next till : Nat}
    (h : FilledWith st u.store pattern next till) (k : RecordsKept u t) : FilledWith st t.store pattern next till := by
  have errors : ∀ n w, wordErrors t.store n w = wordErrors u.store n w := fun n w => by
    unfold wordErrors; rw [k.errors]
  obtain ⟨h1, h2, h3, h4, h5⟩ := h
  simp only [← errors] at h2 h5
  rw [← k.dram] at h1 h3
  simp only [← k.check] at h2 h4
  exact ⟨h1, h2, h3, h4, h5⟩

/-- The region-fill job of a job list whose region fill has written more records. -/
theorem regionFillJob_advanceFill (st : Store) (n : Nat) : (st.advanceFill n).regionFillJob =
    st.regionFillJob.map fun j => (j.1, j.2.1, j.2.2.1, j.2.2.2 + n) := by
  unfold Store.regionFillJob Store.advanceFill
  dsimp only
  induction st.jobs with
  | nil => rfl
  | cons j jobs ih =>
    rw [List.map_cons, List.findSome?_cons, List.findSome?_cons]
    cases j with
    | regionFill => rfl
    | fill => exact ih
    | writeBack => exact ih

theorem regionFillJob_congr {a b : Store} (h : a.jobs = b.jobs) : a.regionFillJob = b.regionFillJob := by
  unfold Store.regionFillJob; rw [h]

/-- A microsecond in which a region fill goes on. -/
theorem tick_store_of_fill {first last next : Nat} {pattern : Record}
    (hj : s.store.regionFillJob = some (first, last, pattern, next)) (hp : s.resetPhase ≠ .functionReset) :
    ∃ n, (n = 0 ∨ next + n ≤ last ∧ next + n ≤ s.store.size) ∧
      (tick s).store = (fillRecords s.store pattern next n).advanceFill n := by
  have upset := (applyUpset_kept (Config.imageUpset s.now) s).1
  have phase : (applyUpset (Config.imageUpset s.now) s).resetPhase = s.resetPhase := by
    cases Config.imageUpset s.now <;> rfl
  refine ⟨fillStride s.store (Config.fillPace s.now) last next, ?_, ?_⟩
  · unfold fillStride; omega
  · unfold tick advanceRegionFill
    rw [upset, hj, phase]
    dsimp only
    rw [if_neg hp]
    rfl

theorem exec_regionFillComplete {first last next : Nat} {pattern : Record}
    (hj : s.store.regionFillJob = some (first, last, pattern, next)) (hp : s.resetPhase ≠ .functionReset) :
    exec .regionFillComplete s = if last < s.store.size then
      .next (event (completeRegionFill first last pattern next) s) else .fault .outsideStore := by
  show execRegionFillComplete s = _
  unfold execRegionFillComplete withinStore inStore
  rw [hj]
  simp only [if_neg hp, decide_eq_true_eq]

theorem exec_regionFillStopped {first last next current : Nat} {pattern : Record}
    (hj : s.store.regionFillJob = some (first, last, pattern, next))
    (h : s.resetPhase = .functionReset ∧ next ≤ current ∧ current ≤ last) :
    exec (.regionFillStopped current) s = if current < s.store.size then
      .next (stopRegionFill pattern next current s) else .fault .outsideStore := by
  show execRegionFillStopped current s = _
  unfold execRegionFillStopped withinStore inStore
  rw [hj]
  simp only [if_pos h, decide_eq_true_eq]

/-- The store at the end of a region fill (R109, R112). -/
def fillEnded (first last : Nat) (pattern : Record) (next : Nat) (st : Store) : Store :=
  ((fillRecords st pattern next (last + 1 - next)).endJobs Job.isRegionFill).removePoisonRange first last

theorem fillEnded_poison (first last : Nat) (pattern : Record) (next : Nat) (st : Store) :
    (fillEnded first last pattern next st).poison =
      st.poison.filter fun n => decide (n < first ∨ last < n) := by
  show (fillRecords st pattern next (last + 1 - next)).poison.filter _ = _
  rw [(fillRecords_tables st pattern next _).poison]
  refine List.filter_congr fun n _ => ?_
  rw [Bool.eq_iff_iff]
  simp only [Bool.not_eq_true', Bool.and_eq_false_iff, decide_eq_false_iff_not, decide_eq_true_eq, not_le]

theorem records_completeRegionFill (first last : Nat) (pattern : Record) (next : Nat) (s : State) :
    ∃ u : State, u.store = fillEnded first last pattern next s.store ∧
      RecordsKept u (event (completeRegionFill first last pattern next) s) := by
  unfold event completeRegionFill finishDefine
  split
  · exact ⟨State.setRegion (s.setStore (fillEnded first last pattern next s.store)) _ _, rfl,
      (reaction_adminMessage _ _).after ((reaction_settle _).after (records_complete ..))⟩
  · exact ⟨s.setStore (fillEnded first last pattern next s.store), rfl,
      (reaction_adminMessage _ _).after (reaction_settle _).records⟩

/-- The DEFINE_REGION that waits for a region fill completes, its region ACTIVE. -/
theorem completeRegionFill_defines {rg : RegionId} (h : runningProgress s = some (.regionFill rg))
    (hf : s.regions[rg].phase = .filling) (first last : Nat) (pattern : Record) (next : Nat) :
    event (completeRegionFill first last pattern next) s = afterEvent s (completeCommand .done 0
      ((s.setStore (fillEnded first last pattern next s.store)).setRegion rg
        { s.regions[rg] with phase := .active })) [] := by
  have filled : s.regions[rg].filled = { s.regions[rg] with phase := .active } := if_pos hf
  have progress : ∀ st, runningProgress (s.setStore st) = some (.regionFill rg) := fun st => h
  unfold event completeRegionFill finishDefine
  rw [progress]
  show adminMessage _ (settle (completeCommand _ _ (State.setRegion _ _ s.regions[rg].filled))) = _
  rw [filled]
  rfl

/-- Settles O60: the tick, the end and the stop of a region fill, each by what its writes leave of every word. -/
theorem regionFillsEnd : Obligations.RegionFillsEnd := by
  intro s first last next pattern hm hj filled
  have filled_of : ∀ {t : State} {till : Nat}, FilledWith s.store t.store pattern next till → filled t till :=
    fun h => ⟨h.bytes, h.words, h.dram, h.check, h.errors⟩
  refine ⟨fun hq hp => ?_, fun hp hs => ?_, fun hp hs => ?_, fun current hp hn hl => ⟨fun hs => ?_, fun hs => ?_⟩⟩
  · obtain ⟨n, hn, e⟩ := tick_store_of_fill hj hp
    have tables := fillRecords_tables s.store pattern next n
    refine ⟨tick s, n, by unfold step; rw [hq], ?_,
      filled_of (filledWith_fillRecords (count := n) hm pattern ?_ ?_ ?_ ?_), hn, ?_, tick_regions s⟩
    · rw [e, regionFillJob_advanceFill, regionFillJob_congr tables.jobs, hj]; rfl
    · exact (Nat.add_sub_cancel_left next n).symm
    · rw [e]; rfl
    · rw [e]; rfl
    · rw [e]; rfl
    · rw [e]; exact tables.poison
  · rw [exec_regionFillComplete hj hp, if_neg (not_lt.2 hs)]
  · obtain ⟨u, hu, kept⟩ := records_completeRegionFill first last pattern next s
    have tables := fillRecords_tables s.store pattern next (last + 1 - next)
    refine ⟨_, (exec_regionFillComplete hj hp).trans (if_pos hs), filled_of (FilledWith.kept ?_ kept), ?_,
      fun rg hr hf => ⟨_, completeRegionFill_defines hr hf first last pattern next, rfl, ?_⟩⟩
    · rw [hu]; exact filledWith_fillRecords hm pattern rfl rfl rfl rfl
    · rw [kept.poison, hu, fillEnded_poison]
    · show List.filter _ (fillRecords s.store pattern next (last + 1 - next)).jobs = _
      rw [tables.jobs]
  · rw [exec_regionFillStopped hj ⟨hp, hn, hl⟩, if_neg (not_lt.2 hs)]
  · have tables := fillRecords_tables s.store pattern next (current + 1 - next)
    refine ⟨_, (exec_regionFillStopped hj ⟨hp, hn, hl⟩).trans (if_pos hs),
      filled_of (filledWith_fillRecords hm pattern rfl rfl rfl rfl), tables.poison, ?_, fun rg => ?_, rfl, rfl, rfl,
      rfl, rfl⟩
    · show List.filter _ (fillRecords s.store pattern next (current + 1 - next)).jobs = _
      rw [tables.jobs]
    · show (s.regions.map _)[rg] = _
      rw [getElem_map_fin]

end Jobs

end Sys2Proof.Machine

/-! # Power-on reset, and the image an arm writes -/

namespace Sys2Proof.Machine

section PowerOn

/-! ## The state after power-on reset -/

/-- Settles O2: the registers, the policies and the tables by evaluation. -/
theorem resetValues : Obligations.ResetValues := by
  refine ⟨by decide, by decide, by decide, by decide, by decide, by decide, rfl, rfl, rfl, rfl, rfl, by decide, rfl, rfl,
    rfl, rfl, rfl, rfl, rfl, by decide, rfl, rfl, rfl, fun c => ?_, fun c => ?_⟩
  · cases c <;> decide
  · cases c <;> rfl

theorem reset_regions (n : RegionId) : State.reset.regions[n] = Region.cleared := by simp [State.reset]
theorem reset_contexts (c : CtxId) : State.reset.contexts[c] = none := by simp [State.reset]
theorem reset_slots (k : SlotId) : State.reset.cache.slots[k] = none := by simp [State.reset, Cache.reset]
theorem reset_work (r : RingId) : State.reset.rings.work[r] = none := by simp [State.reset, Rings.reset]
theorem reset_results (r : RingId) : State.reset.rings.results[r] = none := by
  simp [State.reset, Rings.reset]
theorem reset_probes (p : ProbeId) : State.reset.probes[p] = .disarmed := by simp [State.reset]

theorem reset_slotsHeld (r : RingId) : slotsHeld State.reset r = [] :=
  List.flatMap_eq_nil_iff.2 fun c _ => by rw [reset_contexts]

theorem reset_rings_sound : RingsSound State.reset where
  ordered r w h := absurd (reset_work r) (by rw [h]; simp)
  results :=
    { bound := fun r w h => absurd (reset_work r) (by rw [h]; simp)
      reserved := fun rr q h => absurd (reset_results rr) (by rw [h]; simp)
      held := fun r => by rw [reset_slotsHeld]; exact ⟨.nil, fun _ h => absurd h List.not_mem_nil⟩ }
  credit rr q h := absurd (reset_results rr) (by rw [h]; simp)

/-- Settles O3: with every table empty, each invariant of `Sound` holds of nothing. -/
theorem resetSound : Obligations.ResetSound where
  memory := ⟨.nil, .nil, .nil, by simp [State.reset]⟩
  regions := regionsProper_cleared reset_regions
  poison := ⟨.nil, Nat.zero_le _⟩
  notices := ⟨.nil, fun _ h => absurd h List.not_mem_nil⟩
  slots k k' h := absurd (by rw [slotRecord, reset_slots]; rfl) h
  apart := ⟨fun k y h => absurd (reset_slots k) (by rw [h]; simp), fun _ _ h => absurd h List.not_mem_nil⟩
  recency := ⟨.nil, fun k => by rw [reset_slots]; simp [State.reset, Cache.reset]⟩
  link := ⟨.nil, fun _ h => absurd h List.not_mem_nil⟩
  failed h := absurd h (by simp [State.reset, FaultUnit.reset])
  inFlight r := by rw [reset_work]; rfl
  rings := reset_rings_sound
  probes :=
    { watch := fun p rg first last h => absurd h (by rw [reset_probes]; simp [Probe.watch])
      retiring := fun rg n h => absurd h (by simp [runningProgress, State.reset, Admin.reset]) }

theorem strapSize_eq (sz1 sz0 : Bool) : strapSize sz1 sz0 =
    if sz1 = true ∧ sz0 = false then 134217728 else if sz1 = false ∧ sz0 = true then 67108864 else 33554432 := by
  cases sz1 <;> cases sz0 <;> rfl

/-- No block waits any more for a transfer of before (R186). -/
theorem unheed_all_heeded (s : State) {x : Transfer} (h : x ∈ (unheed (fun _ => true) s).link.transfers) :
    x.heeded = false := by
  obtain ⟨y, _, rfl⟩ := List.mem_map.1 h
  rfl

/-- Settles O32: both rows answer their state by definition. -/
theorem powerOnResetsEveryBlock : Obligations.PowerOnResetsEveryBlock :=
  ⟨fun sz1 sz0 s => ⟨powerOn sz1 sz0 s, rfl, rfl, strapSize_eq sz1 sz0, rfl, fun _ => unheed_all_heeded s, rfl⟩,
    fun _ h => congrArg Host.Outcome.next (if_pos h)⟩

end PowerOn

section Arms

/-! ## Sets of lanes -/

theorem testBit_flagBits (l : List Bool) (i : Nat) : (flagBits l).testBit i = l.getD i false := by
  induction l generalizing i with
  | nil => simp [flagBits]
  | cons b l ih =>
    cases i with
    | zero => cases b <;> simp [flagBits, Nat.add_mod]
    | succ i =>
      have half : (b.toNat + 2 * flagBits l) / 2 = flagBits l := by
        cases b
        · simp
        · simp; omega
      rw [flagBits, Nat.testBit_succ, half, ih, List.getD_cons_succ]

theorem getLsbD_laneSetOf (p : LaneId → Bool) (i : LaneId) : (laneSetOf p).getLsbD i.val = p i := by
  rw [laneSetOf, BitVec.getLsbD_ofNat, testBit_flagBits]
  simp [List.getD_eq_getElem?_getD]

/-! ## What an arm writes -/

theorem advancedLane_iff (rg : Region) (i : LaneId) :
    rg.advancedLane = some i ↔ rg.autoVersion = true ∧ rg.versionLane = some i := by
  unfold Region.advancedLane
  cases rg.autoVersion <;> simp

theorem allLanes_getLsbD (i : LaneId) : allLanes.getLsbD i.val = true := by
  revert i; decide

theorem armImage_lane (rg : Region) (e : Entry) (arm : ArmChoice) (pre : Record) (i : LaneId) :
    (armImage rg e arm pre)[i] = if rg.advancedLane = some i then pre[i] + 1 else (armResult e arm pre i).value := by
  rw [armImage, getElem_ofFn_fin]

theorem armWritten_lane (rg : Region) (e : Entry) (arm : ArmChoice) (i : LaneId) (h : WorkEntry.redirects e = false) :
    (armWritten rg e arm).getLsbD i.val = true ↔ armOp e arm i ≠ .keep ∨ rg.advancedLane = some i := by
  rw [armWritten, if_neg (by simp [h]), getLsbD_laneSetOf]
  simp

/-- Settles O22: lane by lane, from what an arm's image and its written-lane set hold. -/
theorem armWritesItsLanes : Obligations.ArmWritesItsLanes := by
  intro rg e arm pre i
  have advanced := advancedLane_iff rg i
  refine ⟨fun ha hv => ?_, fun h => ?_, fun hr => ?_, fun hr => ⟨?_, fun hw => ?_⟩⟩
  · rw [armImage_lane, if_pos (advanced.2 ⟨ha, hv⟩)]
  · have still : rg.advancedLane ≠ some i := fun hi => by
      obtain ⟨ha, hv⟩ := advanced.1 hi
      rcases h with h | h
      · rw [ha] at h; exact absurd h (by simp)
      · exact h hv
    rw [armImage_lane, if_neg still]
    rfl
  · rw [armWritten, if_pos hr, allLanes_getLsbD]
  · rw [armWritten_lane rg e arm i hr, advanced]
  · have unwritten := mt (armWritten_lane rg e arm i hr).2 (Bool.not_eq_true _ ▸ hw)
    obtain ⟨keep, still⟩ := not_or.1 unwritten
    rw [armImage_lane, if_neg still, armResult, not_not.1 keep]
    rfl

end Arms

end Sys2Proof.Machine

/-! # What the reactions of an event leave of the regions and of the running command -/

namespace Sys2Proof.Machine

section Tame

/-- What a command waits for, if it is running. -/
def Command.progress : Command → Option Progress
  | .running _ p => some p
  | _ => Option.none

theorem runningProgress_eq (s : State) : runningProgress s = s.admin.rings.bind fun a => a.command.progress := by
  unfold runningProgress
  cases s.admin.rings with
  | none => rfl
  | some a => cases h : a.command <;> simp [Command.progress, h]

/-- The running command is a RETIRE_REGION that waits for contexts. -/
def RetireWaits (s : State) : Prop := ∃ n probes, runningProgress s = some (.retireWait n probes)

/-- What a reaction leaves of the regions and of the running command: while no admin rings are configured, as during a
function reset, it configures none and keeps every region, and it never makes a command wait for contexts. -/
structure Tame (s t : State) : Prop where
  closed : s.admin.rings = none → t.admin.rings = none ∧ t.regions = s.regions
  waits : RetireWaits t → RetireWaits s

variable {s t u : State}

theorem Tame.refl (s : State) : Tame s s := ⟨fun h => ⟨h, rfl⟩, id⟩

theorem Tame.trans (h : Tame s t) (h' : Tame t u) : Tame s u where
  closed c := ⟨(h'.closed (h.closed c).1).1, (h'.closed (h.closed c).1).2.trans (h.closed c).2⟩
  waits := h.waits ∘ h'.waits

/-- `trans` with its second part first, for a chain that is read from its end. -/
theorem Tame.after (h' : Tame t u) (h : Tame s t) : Tame s u := h.trans h'

/-- An update of other fields. -/
theorem Tame.of_eq (ha : t.admin.rings = s.admin.rings) (hr : t.regions = s.regions) : Tame s t :=
  ⟨fun c => ⟨ha.trans c, hr⟩, fun ⟨n, probes, h⟩ => ⟨n, probes, by
    rw [runningProgress_eq, ← ha, ← runningProgress_eq]; exact h⟩⟩

theorem Tame.foldl {α : Type} {f : State → α → State} (h : ∀ s a, Tame s (f s a)) (l : List α) (s : State) :
    Tame s (l.foldl f s) := by
  induction l generalizing s with
  | nil => exact .refl s
  | cons a l ih => exact (h s a).trans (ih (f s a))

theorem tame_ite {c : Prop} [Decidable c] (ht : Tame s t) (hu : Tame s u) : Tame s (if c then t else u) := by
  split
  · exact ht
  · exact hu

/-! ## The admin rings -/

/-- Admin rings that are configured go on, with a command that does not wait for contexts, or with the same one. -/
theorem tame_setAdminRings {a a' : AdminRings} (h : s.admin.rings = some a)
    (hc : a'.command = a.command ∨ ∀ e n probes, a'.command ≠ .running e (.retireWait n probes)) :
    Tame s (s.setAdminRings (some a')) := by
  refine ⟨fun c => absurd (h.symm.trans c) (by simp), fun ⟨n, probes, hw⟩ => ⟨n, probes, ?_⟩⟩
  rw [runningProgress_eq] at hw ⊢
  have hw : a'.command.progress = some (.retireWait n probes) := hw
  rw [h]
  rcases hc with hc | hc
  · rw [hc] at hw; exact hw
  · cases e : a'.command with
    | running e' p =>
      rw [e] at hw
      exact absurd (e.trans (congrArg _ (Option.some.inj hw))) (hc e' n probes)
    | none => rw [e] at hw; exact absurd hw (by simp [Command.progress])
    | reading => rw [e] at hw; exact absurd hw (by simp [Command.progress])

theorem tame_writeStatus (e : Fin 16) (index : Nat) (s : State) : Tame s (writeStatus e index s) := by
  unfold writeStatus
  split <;> exact .of_eq rfl rfl

theorem tame_postAdmin (body : List Byte) (kind : Byte) (s : State) : Tame s (postAdmin body kind s) := by
  unfold postAdmin
  split
  · exact .refl s
  · next a h =>
    exact Tame.after (tame_setAdminRings (s := issueWrite _ _ _ s) h (.inl rfl)) (.of_eq rfl rfl)

theorem tame_raiseNotice (n : Notice) (s : State) : Tame s (raiseNotice n s) :=
  tame_ite (tame_postAdmin _ _ s) (.of_eq rfl rfl)

theorem tame_considerAdminRead (s : State) : Tame s (considerAdminRead s) := by
  unfold considerAdminRead
  split
  · exact .refl s
  · next a h =>
    refine tame_ite ?_ (.refl s)
    exact Tame.after (tame_setAdminRings (s := issueRead _ _ _ s) h (.inr (by simp))) (.of_eq rfl rfl)

theorem tame_setProgress {p : Progress} (hp : ∀ n probes, p ≠ .retireWait n probes) (s : State) :
    Tame s (setProgress p s) := by
  unfold setProgress
  split
  · next a h =>
    split
    · exact tame_setAdminRings h (.inr fun e n probes e' => hp n probes (by injection e'))
    · exact .refl s
  · exact .refl s

theorem tame_passCommand (s : State) : Tame s (passCommand s) := by
  unfold passCommand
  split
  · exact .refl s
  · next a h => exact tame_setAdminRings h (.inr (by simp))

theorem tame_finishCommand (body : List Byte) (kind : Byte) (s : State) : Tame s (finishCommand body kind s) :=
  (tame_considerAdminRead _).after
    ((tame_writeStatus 0 _ _).after ((tame_passCommand _).after (tame_postAdmin body kind s)))

theorem tame_completeCommand (st : AdminStatus) (value : BitVec 32) (s : State) :
    Tame s (completeCommand st value s) := by
  unfold completeCommand
  split
  · exact .refl s
  · exact tame_finishCommand _ _ s

/-! ## Rings -/

theorem tame_completeDelete (r : RingId) (s : State) : Tame s (completeDelete r s) := by
  unfold completeDelete
  split
  · exact tame_ite (tame_completeCommand _ _ s) (.refl s)
  · exact .refl s

theorem tame_deleteCheck (r : RingId) (s : State) : Tame s (deleteCheck r s) := by
  unfold deleteCheck
  split
  · exact .refl s
  · exact tame_ite ((tame_completeDelete r _).after (.of_eq rfl rfl)) (.of_eq rfl rfl)

theorem tame_failDeleting (s : State) (r : RingId) : Tame s (failDeleting s r) := by
  unfold failDeleting
  split
  · exact .refl s
  · split
    · refine (tame_completeDelete r _).after ?_
      split
      · exact .of_eq rfl rfl
      · exact .of_eq rfl rfl
    · exact .refl s

theorem tame_haltRing (r : RingId) (s : State) : Tame s (haltRing r s) := by
  unfold haltRing
  split
  · exact .refl s
  · split
    · exact (tame_raiseNotice _ _).after (.of_eq rfl rfl)
    · exact (tame_raiseNotice _ _).after (.of_eq rfl rfl)
    · exact (tame_deleteCheck r _).after ((tame_raiseNotice _ _).after (.of_eq rfl rfl))
    · exact .refl s
    · exact .refl s

/-! ## Slots -/

theorem tame_freeSlot (k : SlotId) (s : State) : Tame s (freeSlot k s) := .of_eq rfl rfl

theorem tame_unawait (k : SlotId) (s : State) : Tame s (unawait k s) := by
  unfold unawait
  split
  · exact tame_setProgress (by simp) s
  · exact .refl s

theorem tame_dropUnsound (k : SlotId) (record : Nat) (s : State) : Tame s (dropUnsound k record s) := by
  unfold dropUnsound
  split
  · exact tame_ite ((tame_freeSlot k _).after (tame_unawait k s)) (.refl s)
  · exact .refl s

variable {raise : RaisedFault → State → State}

theorem tame_startWriteBackWith (hr : ∀ f s, Tame s (raise f s)) (k : SlotId) (s : State) :
    Tame s (startWriteBackWith raise k s) := by
  unfold startWriteBackWith
  split
  · split
    · exact tame_ite (.refl s) (tame_ite (.of_eq rfl rfl) ((tame_dropUnsound k _ _).after (hr _ s)))
    · exact .refl s
  · exact .refl s

theorem tame_releaseSlotWith (hr : ∀ f s, Tame s (raise f s)) (k : SlotId) (s : State) :
    Tame s (releaseSlotWith raise k s) := by
  unfold releaseSlotWith
  split
  · split
    · exact tame_ite (.refl s) (tame_ite (tame_freeSlot k s) (tame_startWriteBackWith hr k s))
    · exact .refl s
  · exact .refl s

theorem tame_releaseSlotsWith (hr : ∀ f s, Tame s (raise f s)) (p : Slot → Bool) (s : State) :
    Tame s (releaseSlotsWith raise p s) :=
  .foldl (fun s k => by
    split
    · exact tame_ite (tame_releaseSlotWith hr k s) (.refl s)
    · exact .refl s) _ s

/-! ## Retire and flush -/

/-- A region becomes UNDEFINED where a RETIRE_REGION runs, and so only while admin rings are configured. -/
theorem tame_retireFinish (s : State) : Tame s (retireFinish s) := by
  unfold retireFinish
  split
  · next rg probes h =>
    refine tame_ite (.refl s) ((tame_completeCommand _ _ _).after ⟨fun c => ?_, id⟩)
    simp [runningProgress, c] at h
  · exact .refl s

theorem tame_retireCheckWith (hr : ∀ f s, Tame s (raise f s)) (s : State) : Tame s (retireCheckWith raise s) := by
  unfold retireCheckWith
  split
  · exact tame_ite (.refl s) ((tame_retireFinish _).after
      ((tame_releaseSlotsWith hr _ _).after (tame_setProgress (by simp) s)))
  · exact tame_retireFinish s
  · exact .refl s

theorem tame_flushCheck (s : State) : Tame s (flushCheck s) := by
  unfold flushCheck
  split
  · exact tame_completeCommand _ _ s
  · exact .refl s

/-! ## The fault unit -/

theorem tame_noteFault (f : RaisedFault) (s : State) : Tame s (noteFault f s) := .of_eq rfl rfl

theorem tame_stopTiming (s : State) : Tame s (stopTiming s) := .of_eq rfl rfl

theorem tame_enterFailed (s : State) : Tame s (enterFailed s) := by
  have abandoned : Tame s (abandonContexts (s.setFaults { s.faults with failed := true })) := .of_eq rfl rfl
  have ended := abandoned.trans (.foldl tame_failDeleting (List.finRange 15) _)
  exact (ended.trans (tame_stopTiming _)).trans (tame_retireCheckWith tame_noteFault _)

theorem tame_haltBound (rr : RingId) (s : State) : Tame s (haltBound rr s) :=
  .foldl (fun s r => tame_ite (tame_haltRing r s) (.refl s)) _ s

theorem tame_applySeverity (f : RaisedFault) (s : State) : Tame s (applySeverity f s) := by
  unfold applySeverity
  split
  · exact .refl s
  · exact tame_enterFailed s
  · split
    · exact tame_haltRing _ s
    · exact tame_haltBound _ s
    all_goals exact .refl s

theorem tame_captureFault (f : RaisedFault) (s : State) : Tame s (captureFault f s) := by
  refine tame_ite (.refl s) ?_
  split
  · exact (tame_raiseNotice _ _).after (.of_eq rfl rfl)
  · exact .of_eq rfl rfl

theorem tame_raiseFault (f : RaisedFault) (s : State) : Tame s (raiseFault f s) :=
  tame_ite (.of_eq rfl rfl)
    ((tame_applySeverity f _).after ((tame_captureFault f _).after (.of_eq rfl rfl)))

theorem tame_raiseFaults (fs : List RaisedFault) (s : State) : Tame s (raiseFaults fs s) :=
  .foldl (fun s f => tame_raiseFault f s) fs s

theorem tame_startWriteBack (k : SlotId) (s : State) : Tame s (startWriteBack k s) :=
  tame_startWriteBackWith tame_raiseFault k s

theorem tame_retireCheck (s : State) : Tame s (retireCheck s) := tame_retireCheckWith tame_raiseFault s

/-! ## Results and contexts -/

theorem tame_endOutstanding (r : RingId) (slot : Nat) (s : State) : Tame s (endOutstanding r slot s) := by
  unfold endOutstanding
  split
  · exact .of_eq rfl rfl
  · exact .refl s

theorem tame_postFrom (r rr : RingId) (count member : Nat) (posts : List Posting) (s : State) :
    Tame s (postFrom r rr count member posts s) := by
  induction posts generalizing member s with
  | nil => exact .refl s
  | cons p rest ih =>
    refine Tame.trans ?_ (ih (member + 1) _)
    unfold postResult
    split
    · exact .refl s
    · exact (tame_endOutstanding r _ _).after (.of_eq rfl rfl)

theorem tame_retireRing (r : RingId) (s : State) : Tame s (retireRing r s) := by
  unfold retireRing
  split
  · exact .refl s
  · exact tame_ite (.refl s) ((tame_writeStatus _ _ _).after (.of_eq rfl rfl))

theorem tame_coalesceCheck (rr : RingId) (s : State) : Tame s (coalesceCheck rr s) := by
  unfold coalesceCheck
  split
  · exact .refl s
  · exact tame_ite (tame_ite (.of_eq rfl rfl) (.of_eq rfl rfl)) (.refl s)

theorem tame_postUnit (r : RingId) (posts : List Posting) (s : State) : Tame s (postUnit r posts s) := by
  unfold postUnit
  split
  · exact .refl s
  · exact (tame_coalesceCheck _ _).after ((tame_retireRing _ _).after (tame_postFrom _ _ _ _ _ s))

theorem tame_endContext (c : CtxId) (s : State) : Tame s (endContext c s) := by
  unfold endContext
  split
  · exact .refl s
  · exact (tame_postUnit _ _ _).after (.of_eq rfl rfl)

theorem tame_failContext (records : List Nat) (st : Status) (c : CtxId) (s : State) :
    Tame s (failContext records st c s) := by
  unfold failContext
  split
  · exact .refl s
  · exact (tame_endContext c _).after (.of_eq rfl rfl)

/-! ## The allocator -/

theorem tame_joinSlot (k : SlotId) (c : CtxId) (s : State) : Tame s (joinSlot k c s) := by
  unfold joinSlot
  split
  · exact .refl s
  · dsimp only
    split <;> exact .of_eq rfl rfl

theorem tame_giveSlot (k : SlotId) (c : CtxId) (i : RecordItem) (s : State) : Tame s (giveSlot k c i s) :=
  tame_ite (.of_eq rfl rfl) (.of_eq rfl rfl)

theorem tame_grantItem (x : Context) (c : CtxId) (i : RecordItem) (s : State) : Tame s (grantItem x c i s).2 := by
  unfold grantItem
  split
  · exact tame_joinSlot _ c s
  · split
    · exact tame_giveSlot _ c i s
    · exact .refl s

theorem tame_grantItems (x : Context) (c : CtxId) (is : List RecordItem) (s : State) :
    Tame s (grantItems x c is s).2 := by
  induction is generalizing s with
  | nil => exact .refl s
  | cons i rest ih => exact (tame_grantItem x c i s).trans (ih _)

theorem tame_withdrawRequest (c : CtxId) (s : State) : Tame s (withdrawRequest c s) := .of_eq rfl rfl

theorem tame_readyCheck (s : State) : Tame s (readyCheck s) := by
  unfold readyCheck; exact .of_eq rfl rfl

theorem tame_grant (c : CtxId) (s : State) : Tame s (grant c s) := by
  have withdrawn := tame_withdrawRequest c s
  unfold grant
  split
  · exact withdrawn
  · next x _ =>
    refine (tame_readyCheck _).after (tame_ite ?_ ?_)
    · exact (withdrawn.trans (tame_grantItems x c x.records _)).trans (.of_eq rfl rfl)
    · exact (tame_raiseFaults _ _).after ((tame_failContext _ _ c _).after withdrawn)

theorem tame_evaluateFrom (fuel : Nat) (s : State) : Tame s (evaluateFrom fuel s) := by
  induction fuel generalizing s with
  | zero => exact .refl s
  | succ n ih =>
    unfold evaluateFrom
    split
    · exact .refl s
    · split
      · exact (ih _).after (tame_withdrawRequest _ s)
      · refine tame_ite ((ih _).after (tame_grant _ s)) ?_
        exact .foldl (fun s k => tame_ite (.refl s) (tame_startWriteBack k s)) _ s

theorem tame_evaluate (s : State) : Tame s (evaluate s) := tame_evaluateFrom _ s

/-! ## The end of an event -/

/-- The reactions up to the check of the DRAINING regions (R18). -/
def settledToDraining (s : State) : State := flushCheck (evaluate (retireCheck (evaluate (retireCheck (readyCheck s)))))

theorem settle_eq (s : State) : settle s = stallCheck (deleteCheckRunning (drainingCheck (settledToDraining s))) := rfl

theorem tame_settledToDraining (s : State) : Tame s (settledToDraining s) :=
  ((((tame_readyCheck s).trans (tame_retireCheck _)).trans (tame_evaluate _)).trans (tame_retireCheck _)).trans
    ((tame_evaluate _).trans (tame_flushCheck _))

theorem reaction_settledToDraining (s : State) : Reaction s (settledToDraining s) :=
  ((((reaction_readyCheck s).trans (reaction_retireCheck _)).trans (reaction_evaluate _)).trans
    (reaction_retireCheck _)).trans ((reaction_evaluate _).trans (reaction_flushCheck _))

end Tame

end Sys2Proof.Machine

/-! # The release of slots -/

namespace Sys2Proof.Machine

section Release

/-! ## One slot -/

/-- What the release of a slot leaves of it (R86, R101, R102). -/
def Slot.released (y : Slot) : Option Slot :=
  match y.phase with
  | .resident c =>
    if c.writeBack then some y
    else if c.dirty = 0 then none
    else if c.image.sound then
      some { y with phase := .resident { c with dirty := 0, dirtySince := none, writeBack := true } }
    else none
  | _ => some y

/-- The write-back job that the release of a slot issues, if any (R93). -/
def Slot.releaseJob (k : SlotId) (y : Slot) : Option Job :=
  match y.phase with
  | .resident c =>
    if c.writeBack = false ∧ c.dirty ≠ 0 ∧ c.image.sound = true then
      some (.writeBack k y.record c.image.lanes c.dirty)
    else none
  | _ => none

variable {s t : State} {k : SlotId} {y : Slot} {c : Resident}

theorem Image.sound_iff (x : Image) : x.sound = true ↔ x.parity = recordParity x.lanes := beq_iff_eq

/-- A slot that is not RESIDENT, or whose write-back is in flight, waits. -/
theorem released_of_waiting (h : ∀ c, y.phase = .resident c → c.writeBack = true) : y.released = some y := by
  unfold Slot.released
  split
  · next c hp => exact if_pos (h c hp)
  · rfl

theorem released_of_resident (h : y.phase = .resident c) (hw : c.writeBack = false) : y.released =
    if c.dirty = 0 then none
    else if c.image.sound = true then
      some { y with phase := .resident { c with dirty := 0, dirtySince := none, writeBack := true } }
    else none := by
  unfold Slot.released
  rw [h]
  exact if_neg (by rw [hw]; simp)

theorem releaseJob_eq_some {j : Job} : y.releaseJob k = some j ↔
    ∃ c, y.phase = .resident c ∧ c.writeBack = false ∧ c.dirty ≠ 0 ∧ c.image.sound = true ∧
      j = .writeBack k y.record c.image.lanes c.dirty := by
  unfold Slot.releaseJob
  cases h : y.phase with
  | resident c =>
    rw [Option.ite_none_right_eq_some]
    constructor
    · rintro ⟨⟨hw, hd, hs⟩, e⟩; exact ⟨c, rfl, hw, hd, hs, (Option.some.inj e).symm⟩
    · rintro ⟨c', e, hw, hd, hs, rfl⟩
      cases e; exact ⟨⟨hw, hd, hs⟩, rfl⟩
  | filling => simp
  | awaitingStore => simp

theorem releaseJob_eq_none (h : ∀ c, y.phase = .resident c → c.writeBack = false → c.dirty ≠ 0 →
    c.image.sound = false) : y.releaseJob k = none :=
  Option.eq_none_iff_forall_ne_some.2 fun j hj => by
    obtain ⟨c, hp, hw, hd, hs, -⟩ := releaseJob_eq_some.1 hj
    rw [h c hp hw hd] at hs
    exact absurd hs (by simp)

/-- A slot whose release leaves and issues what `released` and `releaseJob` say. -/
theorem slotReleased_of (hk : t.cache.slots[k] = y.released) (hj : ∀ j, y.releaseJob k = some j → j ∈ t.store.jobs) :
    SlotReleased k y t where
  waits h := hk.trans (released_of_waiting fun c hp => by
    rcases h with h | ⟨c', h, hw⟩
    · rw [h] at hp; exact absurd hp (by simp)
    · rw [h] at hp; cases hp; exact hw)
  clean c h hw hd := by rw [hk, released_of_resident h hw, if_pos hd]
  dirty c h hw hd hs := by
    have sound := (Image.sound_iff c.image).2 hs
    rw [hk, released_of_resident h hw, if_neg hd, if_pos sound]
    exact ⟨rfl, hj _ (releaseJob_eq_some.2 ⟨c, h, hw, hd, sound, rfl⟩)⟩
  unsound c h hw hd hs := by
    rw [hk, released_of_resident h hw, if_neg hd, if_neg (mt (Image.sound_iff c.image).1 hs)]

theorem freeSlot_slots (k j : SlotId) (s : State) :
    (freeSlot k s).cache.slots[j] = if j = k then none else s.cache.slots[j] := getElem_set_fin _ _ _ _

theorem issueWriteBack_slots (k j : SlotId) (y : Slot) (c : Resident) (s : State) :
    (issueWriteBack k y c s).cache.slots[j] = if j = k then
      some { y with phase := .resident { c with dirty := 0, dirtySince := none, writeBack := true } }
      else s.cache.slots[j] := getElem_set_fin _ _ _ _

@[simp] theorem setProgress_store (p : Progress) (s : State) : (setProgress p s).store = s.store := by
  unfold setProgress
  split
  · split <;> rfl
  · rfl

@[simp] theorem unawait_store (k : SlotId) (s : State) : (unawait k s).store = s.store := by
  unfold unawait
  split <;> simp

/-! ## What the releases keep -/

/-- A property that the release of slots keeps, with a way of raising faults that leaves slots and jobs alone wherever
the release of a slot raises one. -/
structure ReleaseKeeps (raise : RaisedFault → State → State) (I : State → Prop) : Prop where
  raised : ∀ {s : State} {k : SlotId} {y : Slot} {c : Resident}, I s → s.cache.slots[k] = some y →
    y.phase = .resident c → c.writeBack = false → c.dirty ≠ 0 → c.image.sound = false →
    I (raise (writeBackParityFault y) s) ∧ (raise (writeBackParityFault y) s).cache.slots = s.cache.slots ∧
      (raise (writeBackParityFault y) s).store.jobs = s.store.jobs
  unawaited : ∀ {s : State} (k : SlotId), I s → I (unawait k s)
  freed : ∀ {s : State} (k : SlotId), I s → I (freeSlot k s)
  issued : ∀ {s : State} {k : SlotId} {y : Slot} {c : Resident}, I s → s.cache.slots[k] = some y →
    y.phase = .resident c → I (issueWriteBack k y c s)

variable {raise : RaisedFault → State → State} {I : State → Prop}

/-- The slots in `l` that `p` selects are released, with the jobs issued in the order of `l`, and the other slots are as
they were. -/
structure SlotsReleased (p : Slot → Bool) (l : List SlotId) (s t : State) : Prop where
  slots : ∀ k : SlotId, t.cache.slots[k] =
    if k ∈ l then s.cache.slots[k].bind fun y => if p y then y.released else some y else s.cache.slots[k]
  jobs : t.store.jobs = s.store.jobs ++
    l.filterMap fun k => s.cache.slots[k].bind fun y => if p y then y.releaseJob k else none

theorem releaseSlotWith_of_waiting (hy : s.cache.slots[k] = some y)
    (h : ∀ c, y.phase = .resident c → c.writeBack = true) : releaseSlotWith raise k s = s := by
  unfold releaseSlotWith
  rw [hy]
  dsimp only
  split
  · next c hp => exact if_pos (h c hp)
  · rfl

/-- The release of a RESIDENT slot without a write-back in flight. -/
theorem releaseSlotWith_of_resident (hy : s.cache.slots[k] = some y) (hp : y.phase = .resident c)
    (hw : c.writeBack = false) : releaseSlotWith raise k s =
      if c.dirty = 0 then freeSlot k s
      else if c.image.sound = true then issueWriteBack k y c s
      else dropUnsound k y.record (raise (writeBackParityFault y) s) := by
  have idle : ¬c.writeBack = true := by rw [hw]; simp
  unfold releaseSlotWith startWriteBackWith
  rw [hy]
  dsimp only
  rw [hp]
  dsimp only
  rw [if_neg idle]
  split
  · rfl
  · next hd => exact if_neg (not_or.2 ⟨hd, idle⟩)

theorem dropUnsound_of_resident (hy : s.cache.slots[k] = some y) (hp : y.phase = .resident c) :
    dropUnsound k y.record s = freeSlot k (unawait k s) := by
  unfold dropUnsound
  rw [hy]
  exact if_pos ⟨rfl, by simp [Slot.isResident, hp]⟩

/-- The release of one slot: what it keeps, what becomes of the slots, and the job. -/
theorem releaseSlotWith_spec (h : ReleaseKeeps raise I) (hs : I s) (hy : s.cache.slots[k] = some y) :
    I (releaseSlotWith raise k s) ∧
      (∀ j : SlotId, (releaseSlotWith raise k s).cache.slots[j] = if j = k then y.released else s.cache.slots[j]) ∧
      (releaseSlotWith raise k s).store.jobs = s.store.jobs ++ (y.releaseJob k).toList := by
  by_cases hwait : ∀ c, y.phase = .resident c → c.writeBack = true
  · rw [releaseSlotWith_of_waiting hy hwait, released_of_waiting hwait, releaseJob_eq_none fun c hp hw => by
      rw [hwait c hp] at hw; exact absurd hw (by simp)]
    refine ⟨hs, fun j => ?_, (List.append_nil _).symm⟩
    split
    · next e => rw [e, hy]
    · rfl
  · push Not at hwait
    obtain ⟨c, hp, hw⟩ := hwait
    have hw : c.writeBack = false := Bool.eq_false_iff.2 hw
    have only : ∀ {c'}, y.phase = .resident c' → c' = c := fun e => by rw [hp] at e; cases e; rfl
    rw [releaseSlotWith_of_resident hy hp hw, released_of_resident hp hw]
    by_cases hd : c.dirty = 0
    · rw [if_pos hd, if_pos hd, releaseJob_eq_none fun c' e _ hd' => absurd (only e ▸ hd) hd']
      exact ⟨h.freed k hs, fun j => freeSlot_slots k j s, (List.append_nil _).symm⟩
    · rw [if_neg hd, if_neg hd]
      by_cases hi : c.image.sound = true
      · rw [if_pos hi, if_pos hi, releaseJob_eq_some.2 ⟨c, hp, hw, hd, hi, rfl⟩]
        exact ⟨h.issued hs hy hp, fun j => issueWriteBack_slots k j y c s, rfl⟩
      · have hi' : c.image.sound = false := Bool.eq_false_iff.2 hi
        obtain ⟨hI, hc, hj⟩ := h.raised hs hy hp hw hd hi'
        rw [if_neg hi, if_neg hi, dropUnsound_of_resident (by rw [hc, hy]) hp,
          releaseJob_eq_none fun c' e _ _ => by rw [only e, hi']]
        refine ⟨h.freed k (h.unawaited k hI), fun j => ?_, ?_⟩
        · rw [freeSlot_slots, unawait_cache, hc]
        · show (unawait k _).store.jobs = _
          rw [unawait_store, hj]
          exact (List.append_nil _).symm

/-- The release of slots in turn (R101, R102). -/
theorem releaseSlots_foldl (h : ReleaseKeeps raise I) (p : Slot → Bool) (l : List SlotId) (hl : l.Nodup) (hs : I s) :
    let t := l.foldl (fun acc k => match acc.cache.slots[k] with
      | some x => if p x then releaseSlotWith raise k acc else acc
      | none => acc) s
    I t ∧ SlotsReleased p l s t := by
  induction l generalizing s with
  | nil => exact ⟨hs, ⟨fun k => by simp, by simp⟩⟩
  | cons k l ih =>
    obtain ⟨hk, hl⟩ := List.nodup_cons.1 hl
    have step : ∀ {u : State}, I u →
        (∀ j : SlotId, u.cache.slots[j] = if j = k then
          s.cache.slots[k].bind fun y => if p y then y.released else some y else s.cache.slots[j]) →
        u.store.jobs = s.store.jobs ++
          (s.cache.slots[k].bind fun y => if p y then y.releaseJob k else none).toList →
        ∀ {v : State}, I v ∧ SlotsReleased p l u v → I v ∧ SlotsReleased p (k :: l) s v := by
      rintro u hu slots jobs v ⟨hv, r⟩
      refine ⟨hv, ⟨fun j => ?_, ?_⟩⟩
      · rw [r.slots j, slots j]
        by_cases e : j = k
        · subst e; simp [hk]
        · simp [e]
      · rw [r.jobs, jobs, List.append_assoc, List.filterMap_cons]
        refine congrArg (s.store.jobs ++ ·) ?_
        have tail : l.filterMap (fun k => u.cache.slots[k].bind fun y => if p y then y.releaseJob k else none) =
            l.filterMap fun k => s.cache.slots[k].bind fun y => if p y then y.releaseJob k else none :=
          List.filterMap_congr fun j hj => by rw [slots j, if_neg fun e : j = k => hk (e ▸ hj)]
        rw [tail]
        cases s.cache.slots[k].bind fun y => if p y then y.releaseJob k else none <;> rfl
    rw [List.foldl_cons]
    have none_or_same : (s.cache.slots[k].bind fun y => if p y then y.released else some y) = s.cache.slots[k] →
        ∀ j : SlotId, s.cache.slots[j] = if j = k then
          s.cache.slots[k].bind fun y => if p y then y.released else some y else s.cache.slots[j] := fun e j => by
      split
      · next h => rw [e, h]
      · rfl
    cases hy : s.cache.slots[k] with
    | none => exact step hs (none_or_same (by rw [hy]; rfl)) (by rw [hy]; simp) (ih hl hs)
    | some y =>
      dsimp only
      by_cases hp : p y = true
      · obtain ⟨hI, slots, jobs⟩ := releaseSlotWith_spec h hs hy
        simp only [hp, if_true]
        exact step hI (by rw [hy]; simpa [hp] using slots) (by rw [hy]; simpa [hp] using jobs) (ih hl hI)
      · simp only [hp]
        exact step hs (none_or_same (by rw [hy]; simp [hp])) (by rw [hy]; simp [hp]) (ih hl hs)

/-- The release of every slot that `p` selects (R101, R102). -/
theorem releaseSlotsWith_spec (h : ReleaseKeeps raise I) (p : Slot → Bool) (hs : I s) :
    I (releaseSlotsWith raise p s) ∧ SlotsReleased p (List.finRange 64) s (releaseSlotsWith raise p s) :=
  releaseSlots_foldl h p _ (List.nodup_finRange 64) hs

/-- A slot that `p` selects is released. -/
theorem SlotsReleased.slotReleased {p : Slot → Bool} (h : SlotsReleased p (List.finRange 64) s t)
    (hy : s.cache.slots[k] = some y) (hp : p y = true) : SlotReleased k y t := by
  refine slotReleased_of ?_ fun j hj => ?_
  · rw [h.slots k, if_pos (List.mem_finRange k), hy]
    exact if_pos hp
  · rw [h.jobs]
    refine List.mem_append_right _ (List.mem_filterMap.2 ⟨k, List.mem_finRange k, ?_⟩)
    rw [hy]
    exact (if_pos hp).trans hj

/-- A slot that `p` does not select is as it was. -/
theorem SlotsReleased.slotKept {p : Slot → Bool} (h : SlotsReleased p (List.finRange 64) s t)
    (hy : s.cache.slots[k] = some y) (hp : ¬p y = true) : t.cache.slots[k] = some y := by
  rw [h.slots k, if_pos (List.mem_finRange k), hy]
  exact if_neg hp

/-! ## Sound images -/

/-- Every image that a release would write back is sound. -/
def DirtySound (s : State) : Prop :=
  ∀ (k : SlotId) (y : Slot) (c : Resident), s.cache.slots[k] = some y → y.phase = .resident c → c.writeBack = false →
    c.dirty ≠ 0 → c.image.parity = recordParity c.image.lanes

/-- Where the images are sound the release of slots raises no fault, and the fault unit stays as it is. -/
theorem dirtySound_releaseKeeps (raise : RaisedFault → State → State) (u : FaultUnit) :
    ReleaseKeeps raise fun s => DirtySound s ∧ s.faults = u where
  raised h hy hp hw hd hs := by
    have := (Image.sound_iff _).2 (h.1 _ _ _ hy hp hw hd)
    rw [hs] at this
    exact absurd this (by simp)
  unawaited k h := by
    refine ⟨?_, ?_⟩
    · unfold DirtySound; rw [unawait_cache]; exact h.1
    · rw [← h.2]
      unfold unawait setProgress
      split
      · split
        · split <;> rfl
        · rfl
      · rfl
  freed k h := ⟨fun j y c hy => by
    rw [freeSlot_slots] at hy
    split at hy
    · exact absurd hy (by simp)
    · exact h.1 j y c hy, h.2⟩
  issued h _ _ := ⟨fun j z c' hz hp hw => by
    rw [issueWriteBack_slots] at hz
    split at hz
    · rw [← Option.some.inj hz] at hp
      injection hp with hp
      rw [← hp] at hw
      exact absurd hw (by simp)
    · exact h.1 j z c' hz hp hw, h.2⟩

end Release

end Sys2Proof.Machine

/-! # The function reset -/

namespace Sys2Proof.Machine

section FunctionReset

variable {s t u : State}

/-! ## Blocks that have dropped their state -/

/-- The blocks hold nothing but slots that wait for the store controller (R78, R79, R102, R135, R149). -/
structure Dropped (s : State) : Prop where
  contexts : ∀ c : CtxId, s.contexts[c] = none
  slots : ∀ (k : SlotId) (y : Slot), s.cache.slots[k] = some y → y.claims = [] ∧ y.phase ≠ .awaitingStore
  requests : s.cache.requests = []
  workRings : ∀ r : RingId, s.rings.work[r] = none
  resultRings : ∀ r : RingId, s.rings.results[r] = none
  adminRings : s.admin.rings = none
  transfers : ∀ x ∈ s.link.transfers, x.heeded = false

/-- A state whose blocks have dropped their state goes on so, with the same slots, jobs and regions. -/
structure StaysDropped (s t : State) : Prop where
  dropped : Dropped t
  slots : t.cache.slots = s.cache.slots
  jobs : t.store.jobs = s.store.jobs
  regions : t.regions = s.regions

theorem StaysDropped.refl (h : Dropped s) : StaysDropped s s := ⟨h, rfl, rfl, rfl⟩

theorem StaysDropped.trans (h : StaysDropped s t) (h' : StaysDropped t u) : StaysDropped s u :=
  ⟨h'.dropped, h'.slots.trans h.slots, h'.jobs.trans h.jobs, h'.regions.trans h.regions⟩

theorem Dropped.setFaults (h : Dropped s) (x : FaultUnit) : StaysDropped s (s.setFaults x) :=
  ⟨⟨h.contexts, h.slots, h.requests, h.workRings, h.resultRings, h.adminRings, h.transfers⟩, rfl, rfl, rfl⟩

theorem Dropped.setNotices (h : Dropped s) (x : List PendingNotice) : StaysDropped s (s.setNotices x) :=
  ⟨⟨h.contexts, h.slots, h.requests, h.workRings, h.resultRings, h.adminRings, h.transfers⟩, rfl, rfl, rfl⟩

theorem Dropped.runningProgress (h : Dropped s) : runningProgress s = none := by
  rw [runningProgress_eq, h.adminRings]; rfl

/-- Without admin rings a notice joins the list (R160). -/
theorem Dropped.raiseNotice (h : Dropped s) (n : Notice) : StaysDropped s (raiseNotice n s) := by
  have room : adminRoom s = false := by unfold adminRoom; rw [h.adminRings]
  unfold Machine.raiseNotice
  rw [room]
  exact h.setNotices _

theorem abandonContexts_slots (s : State) (k : SlotId) :
    (abandonContexts s).cache.slots[k] = s.cache.slots[k].bind Slot.abandoned :=
  getElem_map_fin (fun x : Option Slot => x.bind Slot.abandoned) s.cache.slots k

theorem abandoned_eq_some {y y' : Slot} :
    y.abandoned = some y' ↔ y.phase ≠ .awaitingStore ∧ y' = { y with claims := [] } := by
  unfold Slot.abandoned
  cases y.phase <;> simp [eq_comm]

theorem abandoned_eq_self {y : Slot} (h : y.claims = [] ∧ y.phase ≠ .awaitingStore) : y.abandoned = some y :=
  abandoned_eq_some.2 ⟨h.2, by rw [← h.1]⟩

theorem Dropped.abandonContexts (h : Dropped s) : StaysDropped s (abandonContexts s) := by
  have slots : ∀ k : SlotId, (Machine.abandonContexts s).cache.slots[k] = s.cache.slots[k] := fun k => by
    rw [abandonContexts_slots]
    cases hy : s.cache.slots[k] with
    | none => rfl
    | some y => exact abandoned_eq_self (h.slots k y hy)
  refine ⟨⟨abandonContexts_contexts s, fun k y hy => h.slots k y ((slots k).symm.trans hy), rfl, h.workRings,
    h.resultRings, h.adminRings, fun x hx => ?_⟩, Vector.ext fun i hi => slots ⟨i, hi⟩, rfl, rfl⟩
  obtain ⟨y, hy, rfl⟩ := List.mem_map.1 hx
  split
  · rfl
  · exact h.transfers y hy

theorem Dropped.failDeleting (h : Dropped s) (r : RingId) : failDeleting s r = s := by
  unfold Machine.failDeleting
  rw [h.workRings r]

theorem Dropped.failAllDeleting (h : Dropped s) (l : List RingId) : l.foldl Machine.failDeleting s = s := by
  induction l with
  | nil => rfl
  | cons r l ih => rw [List.foldl_cons, h.failDeleting, ih]

theorem Dropped.stopTiming (h : Dropped s) : StaysDropped s (stopTiming s) := by
  refine ⟨⟨h.contexts, h.slots, h.requests, h.workRings, fun r => ?_, h.adminRings, h.transfers⟩, rfl, rfl, rfl⟩
  show (s.rings.results.map _)[r] = none
  rw [getElem_map_fin, h.resultRings r]
  rfl

theorem Dropped.retireCheckWith (h : Dropped s) (raise : RaisedFault → State → State) :
    retireCheckWith raise s = s := by
  unfold Machine.retireCheckWith
  rw [h.runningProgress]

theorem Dropped.enterFailed (h : Dropped s) : StaysDropped s (enterFailed s) := by
  have failed := h.setFaults { s.faults with failed := true }
  have abandoned := failed.trans failed.dropped.abandonContexts
  have stopped := abandoned.trans abandoned.dropped.stopTiming
  unfold Machine.enterFailed
  dsimp only
  rw [abandoned.dropped.failAllDeleting, stopped.dropped.retireCheckWith]
  exact stopped

theorem Dropped.captureFault (h : Dropped s) (f : RaisedFault) : StaysDropped s (captureFault f s) := by
  unfold Machine.captureFault
  split
  · exact .refl h
  · split
    · exact (h.setFaults _).trans ((h.setFaults _).dropped.raiseNotice _)
    · exact h.setFaults _

/-- A fault whose source is no ring raised in such a state leaves the slots, the jobs and the regions. -/
theorem Dropped.raiseFault (h : Dropped s) {f : RaisedFault} (hf : f.source = .none) :
    StaysDropped s (raiseFault f s) := by
  have noted : StaysDropped s (noteFault f s) := h.setFaults _
  have captured := noted.trans (noted.dropped.captureFault f)
  unfold Machine.raiseFault
  split
  · exact noted
  · unfold applySeverity
    rw [hf]
    split
    · exact captured
    · exact captured.trans captured.dropped.enterFailed
    · exact captured

/-- The release of slots keeps the blocks dropped and the regions. -/
theorem dropped_releaseKeeps (r : Vector Region 16) : ReleaseKeeps raiseFault fun s => Dropped s ∧ s.regions = r where
  raised {_ _ y _} h _ _ _ _ _ := by
    have stays := h.1.raiseFault (f := writeBackParityFault y) rfl
    exact ⟨⟨stays.dropped, stays.regions.trans h.2⟩, stays.slots, stays.jobs⟩
  unawaited k h := by
    unfold unawait
    rw [h.1.runningProgress]
    exact h
  freed k h := by
    refine ⟨{ h.1 with slots := fun j y hy => ?_ }, h.2⟩
    rw [freeSlot_slots] at hy
    split at hy
    · exact absurd hy (by simp)
    · exact h.1.slots j y hy
  issued h hy hp := by
    refine ⟨{ h.1 with slots := fun j z hz => ?_ }, h.2⟩
    rw [issueWriteBack_slots] at hz
    split at hz
    · rw [← Option.some.inj hz]
      exact ⟨(h.1.slots _ _ hy).1, by simp⟩
    · exact h.1.slots j z hz

/-! ## The request -/

theorem dropAtReset_slots (s : State) (k : SlotId) :
    (dropAtReset s).cache.slots[k] = s.cache.slots[k].bind Slot.abandoned := abandonContexts_slots s k

theorem dropped_dropAtReset (s : State) : Dropped (dropAtReset s) where
  contexts := abandonContexts_contexts s
  slots k y hy := by
    rw [dropAtReset_slots] at hy
    obtain ⟨x, -, hx⟩ := Option.bind_eq_some_iff.1 hy
    obtain ⟨hp, rfl⟩ := abandoned_eq_some.1 hx
    exact ⟨rfl, hp⟩
  requests := rfl
  workRings r := Vector.getElem_replicate _
  resultRings r := Vector.getElem_replicate _
  adminRings := rfl
  transfers _ := unheed_all_heeded (abandonContexts s)

theorem any_toList_iff {α : Type} {n : Nat} (v : Vector α n) (p : α → Bool) :
    v.toList.any p = true ↔ ∃ i : Fin n, p v[i] = true := by
  rw [List.any_eq_true]
  constructor
  · rintro ⟨x, hx, hp⟩
    obtain ⟨i, hi, rfl⟩ := Vector.mem_iff_getElem.1 (Vector.mem_toList_iff.1 hx)
    exact ⟨⟨i, hi⟩, hp⟩
  · rintro ⟨i, hp⟩
    exact ⟨v[i], Vector.mem_toList_iff.2 (Vector.getElem_mem i.isLt), hp⟩

theorem holdsRegion_iff (s : State) (n : RegionId) :
    holdsRegion s n = true ↔ ∃ (k : SlotId) (y : Slot), s.cache.slots[k] = some y ∧ y.region = n := by
  unfold holdsRegion
  rw [any_toList_iff]
  refine exists_congr fun k => ?_
  cases s.cache.slots[k] with
  | none => simp
  | some y => simp

theorem holdsRegion_eq_false (s : State) (n : RegionId) :
    holdsRegion s n = false ↔ ∀ (k : SlotId) (y : Slot), s.cache.slots[k] = some y → y.region ≠ n := by
  rw [← Bool.not_eq_true, holdsRegion_iff]
  push Not
  rfl

theorem drainingCheck_of_functionReset (h : s.resetPhase = .functionReset) : drainingCheck s = { s with
    regions := Vector.ofFn fun n : RegionId =>
      if s.regions[n].phase = .draining ∧ holdsRegion s n = false then Region.cleared else s.regions[n] } := if_pos h

/-- The DRAINING regions end at an event of a function reset (R18). -/
theorem regionsAtReset_drainingCheck (h : u.resetPhase = .functionReset) (hr : u.regions = s.regions) :
    RegionsAtReset s (drainingCheck u) := by
  rw [drainingCheck_of_functionReset h]
  intro n
  rw [getElem_ofFn_fin, hr]
  have held := holdsRegion_eq_false u n
  exact ⟨fun hn => if_pos ⟨hn.1, held.2 hn.2⟩, fun hn => if_neg fun h => hn ⟨h.1, held.1 h.2⟩⟩

theorem RegionsAtReset.congr (h : RegionsAtReset s t) (hr : u.regions = t.regions)
    (hc : u.cache.slots = t.cache.slots) : RegionsAtReset s u := by
  unfold RegionsAtReset
  rw [hr, hc]
  exact h

/-- A slot that a release leaves waits for the store controller. -/
theorem releasedSlot_of_released {y : Slot} (h : y.claims = [] ∧ y.phase ≠ .awaitingStore) :
    releasedSlot y.released = true := by
  obtain ⟨hc, hp⟩ := h
  unfold Slot.released
  cases e : y.phase with
  | filling => simp [releasedSlot, hc, e]
  | awaitingStore => exact absurd e hp
  | resident c =>
    dsimp only
    split
    · next hw => simp [releasedSlot, hc, e, hw]
    · split
      · rfl
      · split
        · simp [releasedSlot, hc]
        · rfl

theorem Dropped.releasedSlot (h : Dropped s) (hr : SlotsReleased (fun _ => true) (List.finRange 64) s t) (k : SlotId) :
    releasedSlot t.cache.slots[k] = true := by
  rw [hr.slots k, if_pos (List.mem_finRange k)]
  cases hy : s.cache.slots[k] with
  | none => rfl
  | some y => exact releasedSlot_of_released (h.slots k y hy)

/-- The cache and the jobs after the release that follows the blocks' drop (R102, R103, R118). -/
theorem cacheReleased_of {d : State} (hd : ∀ k : SlotId, d.cache.slots[k] = s.cache.slots[k].bind Slot.abandoned)
    (hj : d.store.jobs = s.store.jobs) (hr : SlotsReleased (fun _ => true) (List.finRange 64) d t) :
    CacheReleased s t := by
  have kept : ∀ {k : SlotId} {y : Slot}, s.cache.slots[k] = some y → y.phase ≠ .awaitingStore →
      d.cache.slots[k] = some { y with claims := [] } := fun hy hp => by
    rw [hd, hy]; exact abandoned_eq_some.2 ⟨hp, rfl⟩
  have absent : ∀ {k : SlotId}, d.cache.slots[k] = none → t.cache.slots[k] = none := fun {k} h => by
    rw [hr.slots k, if_pos (List.mem_finRange k), h]; rfl
  refine ⟨fun k h => absent (by rw [hd, h]; rfl), fun k y hy hp => absent ?_,
    fun k y hy hp => hr.slotReleased (kept hy hp) rfl, fun j => ?_⟩
  · rw [hd, hy]; show y.abandoned = none
    unfold Slot.abandoned; rw [hp]
  · rw [hr.jobs, List.mem_append, List.mem_filterMap, hj]
    refine or_congr_right ⟨fun ⟨k, _, h⟩ => ?_, fun ⟨k, y, c, hy, hp, hw, hc, hi, e⟩ => ⟨k, List.mem_finRange k, ?_⟩⟩
    · obtain ⟨z, hz, h⟩ := Option.bind_eq_some_iff.1 h
      obtain ⟨c, hp, hw, hc, hi, e⟩ := releaseJob_eq_some.1 h
      rw [hd] at hz
      obtain ⟨y, hy, hz⟩ := Option.bind_eq_some_iff.1 hz
      obtain ⟨-, rfl⟩ := abandoned_eq_some.1 hz
      exact ⟨k, y, c, hy, hp, hw, hc, (Image.sound_iff _).1 hi, e⟩
    · rw [kept hy (by rw [hp]; simp)]
      exact releaseJob_eq_some.2 ⟨c, hp, hw, hc, (Image.sound_iff _).2 hi, e⟩

theorem dirtySound_of_abandoned {d : State} (hd : ∀ k : SlotId, d.cache.slots[k] = s.cache.slots[k].bind Slot.abandoned)
    (h : ∀ k y c, s.cache.slots[(k : SlotId)] = some y → y.phase = .resident c → c.writeBack = false → c.dirty ≠ 0 →
      c.image.parity = recordParity c.image.lanes) : DirtySound d := fun k z c hz hp => by
  rw [hd] at hz
  obtain ⟨y, hy, hz⟩ := Option.bind_eq_some_iff.1 hz
  obtain ⟨-, rfl⟩ := abandoned_eq_some.1 hz
  exact h k y c hy hp

theorem drainingCheck_regions_only (u : State) : ∃ r, drainingCheck u = { u with regions := r } := by
  unfold drainingCheck
  split
  · exact ⟨_, rfl⟩
  · exact ⟨u.regions, rfl⟩

/-- What the request of a function reset does (R185). -/
theorem functionReset_spec (s : State) : BlocksDropped (functionReset s) ∧ StoreAndPoliciesKept s (functionReset s) ∧
    CacheReleased s (functionReset s) ∧ (functionReset s).regs = s.regs := by
  have dropped := dropped_dropAtReset (s.setResetPhase .functionReset)
  have slots := dropAtReset_slots (s.setResetPhase .functionReset)
  have reacted := reaction_releaseSlotsWith reaction_raiseFault (fun _ => true)
    (dropAtReset (s.setResetPhase .functionReset))
  obtain ⟨⟨final, regionsKept⟩, released⟩ :=
    releaseSlotsWith_spec (dropped_releaseKeeps _) (fun _ => true) ⟨dropped, rfl⟩
  have faults : (∀ k y c, s.cache.slots[(k : SlotId)] = some y → y.phase = .resident c → c.writeBack = false →
      c.dirty ≠ 0 → c.image.parity = recordParity c.image.lanes) →
      (releaseSlotsWith raiseFault (fun _ => true) (dropAtReset (s.setResetPhase .functionReset))).faults = s.faults :=
    fun h => (releaseSlotsWith_spec (dirtySound_releaseKeeps raiseFault s.faults) (fun _ => true)
      ⟨dirtySound_of_abandoned (s := s) slots h, rfl⟩).1.2
  unfold functionReset
  generalize releaseSlotsWith raiseFault (fun _ => true) (dropAtReset (s.setResetPhase .functionReset)) = u at *
  have kept := reacted.kept
  have regions : RegionsAtReset s (drainingCheck u) :=
    regionsAtReset_drainingCheck (congrArg Kept.resetPhase kept) regionsKept
  obtain ⟨r, e⟩ := drainingCheck_regions_only u
  rw [e] at regions ⊢
  refine ⟨?_, ?_, cacheReleased_of (s := s) slots rfl ⟨released.slots, released.jobs⟩, congrArg Kept.regs kept⟩
  · exact {
      phase := congrArg Kept.resetPhase kept
      contexts := final.contexts
      slots := dropped.releasedSlot ⟨released.slots, released.jobs⟩
      requests := final.requests
      ageLimit := congrArg Kept.ageLimit kept
      workRings := final.workRings
      resultRings := final.resultRings
      adminPhase := congrArg Kept.adminPhase kept
      adminRings := final.adminRings
      probes := fun p => (congrArg (fun x : Kept => x.probes[p]) kept).trans (Vector.getElem_replicate _)
      transfers := final.transfers }
  · exact {
      size := congrArg Kept.size kept
      dram := congrArg Kept.dram kept
      check := congrArg Kept.check kept
      errors := congrArg Kept.errors kept
      poison := congrArg Kept.poison kept
      policies := congrArg Kept.policies kept
      capture := reacted.capture
      faults := faults
      regions := regions }

/-! ## Events of a function reset -/

theorem stallCheckOne_frame (s : State) (rr : RingId) :
    (stallCheckOne s rr).cache = s.cache ∧ (stallCheckOne s rr).regions = s.regions := by
  unfold stallCheckOne
  split
  · exact ⟨rfl, rfl⟩
  · split
    · split <;> exact ⟨rfl, rfl⟩
    · split <;> exact ⟨rfl, rfl⟩
    · exact ⟨rfl, rfl⟩

theorem stallCheck_frame (s : State) : (stallCheck s).cache = s.cache ∧ (stallCheck s).regions = s.regions :=
  List.foldlRecOn _ stallCheckOne (motive := fun t => t.cache = s.cache ∧ t.regions = s.regions) ⟨rfl, rfl⟩
    fun _ h rr _ => ⟨(stallCheckOne_frame _ rr).1.trans h.1, (stallCheckOne_frame _ rr).2.trans h.2⟩

theorem adminMessage_frame (first : Nat) (s : State) :
    (adminMessage first s).cache = s.cache ∧ (adminMessage first s).regions = s.regions := by
  unfold adminMessage
  split <;> exact ⟨rfl, rfl⟩

theorem deleteCheckRunning_of_closed (h : s.admin.rings = none) : deleteCheckRunning s = s := by
  unfold deleteCheckRunning
  rw [runningProgress_eq, h]
  rfl

/-- The end of an event of a function reset whose effect keeps the regions. -/
theorem regionsAtReset_settle {first : Nat} (hp : u.resetPhase = .functionReset) (ha : u.admin.rings = none)
    (hr : u.regions = s.regions) : RegionsAtReset s (adminMessage first (settle u)) := by
  obtain ⟨closed, kept⟩ := (tame_settledToDraining u).closed ha
  have phase : (settledToDraining u).resetPhase = .functionReset :=
    (congrArg Kept.resetPhase (reaction_settledToDraining u).kept).trans hp
  obtain ⟨r, e⟩ := drainingCheck_regions_only (settledToDraining u)
  have drained : deleteCheckRunning (drainingCheck (settledToDraining u)) = drainingCheck (settledToDraining u) :=
    deleteCheckRunning_of_closed (by rw [e]; exact closed)
  obtain ⟨cache, regions⟩ := adminMessage_frame first (settle u)
  rw [settle_eq, drained] at cache regions ⊢
  obtain ⟨cache', regions'⟩ := stallCheck_frame (drainingCheck (settledToDraining u))
  exact (regionsAtReset_drainingCheck phase (kept.trans hr)).congr (regions.trans regions')
    (congrArg Cache.slots (cache.trans cache'))

variable {k : SlotId} {y : Slot} {n : Nat}

theorem exec_fillComplete {errors : Vector WordErrors 4} (hj : s.store.fillJob k = some n)
    (hb : fillBad s.store n errors = 0) : exec (.fillComplete k errors) s =
      if n < s.store.size then .next (event (completeFill k n errors) s) else .fault .outsideStore := by
  show execFillComplete k errors s = _
  unfold execFillComplete withinStore inStore
  rw [hj]
  simp only [if_pos hb, decide_eq_true_eq]

theorem residentFill_resetPhase (k : SlotId) (y : Slot) (image : Record) (corrected : Bool) (s : State) :
    (residentFill k y image corrected s).resetPhase = s.resetPhase := by
  unfold residentFill
  split <;> rfl

theorem tame_residentFill (k : SlotId) (y : Slot) (image : Record) (corrected : Bool) (s : State) :
    Tame s (residentFill k y image corrected s) :=
  tame_ite (tame_freeSlot k s) (.of_eq rfl rfl)

/-- The end of a fill during a function reset. -/
theorem regionsAtReset_fillComplete (hp : s.resetPhase = .functionReset) (ha : s.admin.rings = none)
    (hy : s.cache.slots[k] = some y) (errors : Vector WordErrors 4) :
    RegionsAtReset s (event (completeFill k n errors) s) := by
  unfold event completeFill
  dsimp only
  rw [hy]
  dsimp only
  generalize hs : s.setStore (s.store.endFill k n errors) = s1
  generalize fillLanes s.store n errors = image
  generalize (fillCorrected s.store n errors != 0) = corrected
  have start : s1.resetPhase = .functionReset ∧ s1.admin.rings = none ∧ s1.regions = s.regions := by
    rw [← hs]; exact ⟨hp, ha, rfl⟩
  obtain ⟨hp, ha, hr⟩ := start
  have phase := (residentFill_resetPhase k y image corrected s1).trans hp
  have tame := tame_residentFill k y image corrected s1
  split
  · obtain ⟨closed, kept⟩ := tame.closed ha
    exact regionsAtReset_settle phase closed (kept.trans hr)
  · obtain ⟨closed, kept⟩ := (tame.trans (tame_raiseFault _ _)).closed ha
    exact regionsAtReset_settle ((congrArg Kept.resetPhase (reaction_raiseFault _ _).kept).trans phase) closed
      (kept.trans hr)

theorem tame_awaitedEnd (k : SlotId) (s : State) : Tame s (awaitedEnd k s) := by
  unfold awaitedEnd
  split
  · split
    · exact tame_setProgress (by simp) s
    · exact .refl s
  · exact tame_unawait k s

theorem tame_afterWriteBack (k : SlotId) (y : Slot) (c : Resident) (s : State) : Tame s (afterWriteBack k y c s) := by
  have ended := tame_awaitedEnd k s
  unfold afterWriteBack
  exact tame_ite (tame_ite ((tame_freeSlot k _).after ended) ended)
    (tame_ite ((tame_startWriteBack k _).after ended) ended)

theorem afterWriteBack_resetPhase (k : SlotId) (y : Slot) (c : Resident) (s : State) :
    (afterWriteBack k y c s).resetPhase = s.resetPhase := by
  have ended : (awaitedEnd k s).resetPhase = s.resetPhase := congrArg Kept.resetPhase (reaction_awaitedEnd k s).kept
  unfold afterWriteBack
  split
  · split <;> exact ended
  · split
    · exact (congrArg Kept.resetPhase (reaction_startWriteBack k _).kept).trans ended
    · exact ended

/-- The end of a write-back during a function reset. -/
theorem regionsAtReset_writeBackComplete {c : Resident} (hp : s.resetPhase = .functionReset)
    (ha : s.admin.rings = none) (hy : s.cache.slots[k] = some y) (hc : y.phase = .resident c) (lanes : Record)
    (set : LaneSet) : RegionsAtReset s (event (completeWriteBack k n lanes set) s) := by
  unfold event
  rw [completeWriteBack_resident hy hc]
  obtain ⟨closed, kept⟩ := (tame_afterWriteBack k y c (writeBackEnded k n lanes set y c s)).closed ha
  exact regionsAtReset_settle ((afterWriteBack_resetPhase k y c _).trans hp) closed kept

theorem resetReported_iff (s : State) : resetReported s = true ↔
    s.resetPhase = .functionReset ∧ (∀ k : SlotId, s.cache.slots[k] = none) ∧ s.store.jobs = [] := by
  unfold resetReported
  rw [Bool.and_eq_true, Bool.and_eq_true, beq_iff_eq, List.isEmpty_iff, and_assoc]
  refine and_congr_right fun _ => and_congr_left fun _ => ?_
  rw [List.all_eq_true]
  constructor
  · exact fun h k => Option.isNone_iff_eq_none.1 (h _ (Vector.mem_toList_iff.2 (Vector.getElem_mem k.isLt)))
  · intro h x hx
    obtain ⟨k, hk, rfl⟩ := Vector.mem_iff_getElem.1 (Vector.mem_toList_iff.1 hx)
    exact Option.isNone_iff_eq_none.2 (h ⟨k, hk⟩)

/-- Settles O33: the request through what it drops and releases, the events of the reset through the check of the
DRAINING regions that ends them. -/
theorem functionResetRuns : Obligations.FunctionResetRuns := by
  refine ⟨fun en m s hp => ?_, fun s hp => ?_, fun s k y n hp ha hy hn => ⟨fun errors hj hb => ?_,
    fun lanes set c hj hc => ?_⟩, fun s first last next current pattern hp hj hn hl hs => ?_, fun s hp hk hj => ?_⟩
  · obtain ⟨blocks, kept, cache, regs⟩ := functionReset_spec (s.setRegs { s.regs with adminMsgEn := m })
    refine ⟨functionReset (s.setRegs { s.regs with adminMsgEn := m }), congrArg Host.Outcome.next (if_pos hp), blocks,
      ?_, ?_, regs⟩
    · exact ⟨kept.size, kept.dram, kept.check, kept.errors, kept.poison, kept.policies, kept.capture, kept.faults,
        kept.regions⟩
    · exact ⟨cache.free, cache.awaiting, cache.released, cache.jobs⟩
  · obtain ⟨blocks, kept, cache, regs⟩ := functionReset_spec s
    exact ⟨_, congrArg Host.Outcome.next (if_pos hp), blocks, kept, cache, regs⟩
  · exact ⟨_, (exec_fillComplete hj hb).trans (if_pos hn), regionsAtReset_fillComplete hp ha hy errors⟩
  · exact ⟨_, (exec_writeBackComplete hj).trans (if_pos hn), regionsAtReset_writeBackComplete hp ha hy hc lanes set⟩
  · refine ⟨_, (exec_regionFillStopped hj ⟨hp, hn, hl⟩).trans (if_pos hs), fun rg => ?_⟩
    have fate : (stopRegionFill pattern next current s).regions[rg] =
        if s.regions[rg].phase = .filling then Region.cleared else s.regions[rg] :=
      getElem_map_fin _ s.regions rg
    rw [fate]
    exact ⟨fun h => if_pos h, fun h => if_neg h⟩
  · exact congrArg Host.Outcome.next (if_pos ((resetReported_iff s).2 ⟨hp, hk, hj⟩))

end FunctionReset

end Sys2Proof.Machine

/-! # DEFINE_REGION and RETIRE_REGION -/

namespace Sys2Proof.Machine

section RegionCommands

variable {s t u v : State} {n : RegionId}

/-! ## The running command -/

/-- A running command waits for what it is made to wait for. -/
theorem runningProgress_setProgress {p : Progress} (h : runningProgress u = some p) (p' : Progress) :
    runningProgress (setProgress p' u) = some p' := by
  rw [runningProgress_eq] at h
  obtain ⟨a, ha, hp⟩ := Option.bind_eq_some_iff.1 h
  unfold setProgress
  rw [ha]
  dsimp only
  cases hc : a.command with
  | running e q => rfl
  | none => rw [hc] at hp; exact absurd hp (by simp [Command.progress])
  | reading => rw [hc] at hp; exact absurd hp (by simp [Command.progress])

/-- A command that arrives is the running command, and nothing but it and the link has changed (R153). -/
theorem commandTaken_of_arrives {xfer : Nat} (h : commandArrives s xfer = true) (e : Entry) :
    ∃ (a : AdminRings) (link : Link),
    commandTaken xfer e s =
      ({ s with link := link } : State).setAdminRings (some { a with command := Command.running e .taken }) := by
  unfold commandArrives at h
  unfold commandTaken beginCommand
  have rings : (dropTransfer xfer s).admin.rings = s.admin.rings := rfl
  rw [rings]
  cases ha : s.admin.rings with
  | none => rw [ha] at h; simp at h
  | some a => exact ⟨a, _, rfl⟩

/-- A command that arrives is taken by the row of its opcode. -/
theorem takeCommand_of_arrives {xfer : Nat} {e : Entry} {row : Nat → Bool} (run : Entry → State → State)
    (h : commandArrives s xfer = true) (hr : row (entryField e 0x00 1) = true) :
    takeCommand row run xfer e s = afterEvent s (run e (commandTaken xfer e s)) [] := by
  unfold commandArrives readAwaits awaits at h
  rw [Bool.and_eq_true, Bool.and_eq_true] at h
  obtain ⟨⟨awaited, inTime⟩, -⟩ := h
  unfold takeCommand event onReadComplete onReport
  cases hx : findTransfer xfer s with
  | none => rw [hx] at awaited; exact absurd awaited (by simp)
  | some x =>
    rw [hx] at awaited
    dsimp only at awaited
    rw [Bool.and_eq_true, beq_iff_eq] at awaited
    obtain ⟨kind, heeded⟩ := awaited
    simp only [AdminEntry.opcode, hr, inTime, if_true]
    rw [kind, heeded]
    rfl

/-! ## The phases of a retire -/

theorem regionNamed_iff (s : State) (n : RegionId) : regionNamed s n = true ↔
    ∃ (c : CtxId) (x : Context), s.contexts[c] = some x ∧ ∃ i ∈ x.records, i.region = n := by
  unfold regionNamed
  rw [any_toList_iff]
  refine exists_congr fun c => ?_
  cases s.contexts[c] with
  | none => simp
  | some x => simp [contextNames]

/-- Where no RETIRE_REGION waits for contexts, its check is the check of its end. -/
theorem retireCheck_of_not_waits (h : ¬RetireWaits s) : retireCheck s = retireFinish s := by
  unfold retireCheck retireCheckWith
  split
  · next rg probes e => exact absurd ⟨rg, probes, e⟩ h
  · rfl
  · next hn =>
    unfold retireFinish
    split
    · next rg probes e => exact absurd e (hn rg probes)
    · rfl

theorem retireCheck_of_waits {probes : Nat} (h : runningProgress u = some (.retireWait n probes)) :
    retireCheck u = if regionNamed u n = true then u else retireCheck
      (releaseSlotsWith raiseFault (fun y => y.region == n) (setProgress (.retireRelease n probes) u)) := by
  have released : ¬RetireWaits
      (releaseSlotsWith raiseFault (fun y => y.region == n) (setProgress (.retireRelease n probes) u)) := fun hw => by
    obtain ⟨rg, k, e⟩ := (tame_releaseSlotsWith tame_raiseFault _ _).waits hw
    rw [runningProgress_setProgress h] at e
    exact absurd e (by simp)
  rw [retireCheck_of_not_waits released]
  unfold retireCheck retireCheckWith
  rw [h]

theorem retireCheck_of_release {probes : Nat} (h : runningProgress u = some (.retireRelease n probes)) :
    retireCheck u = if holdsRegion u n = true then u
      else completeCommand .done (BitVec.ofNat 32 probes) (u.setRegion n Region.cleared) := by
  unfold retireCheck retireCheckWith retireFinish
  rw [h]

/-! ## Parameters -/

/-- The parameter value that stands for a lane, or for none (R191). -/
def laneField (l : Option LaneId) : Nat := l.elim 0xFFFFFFFF Fin.val

theorem laneOf_eq_some {w : Nat} {l : Option LaneId} : AdminEntry.laneOf w = some l ↔ laneField l = w := by
  unfold AdminEntry.laneOf AdminEntry.allOnes laneField
  cases l with
  | none =>
    split
    · next e => simp [e]
    · next e => split <;> simp [eq_comm, e]
  | some l =>
    split
    · next e => simp [e]; omega
    · next e =>
      split
      · simp [Fin.ext_iff, eq_comm]
      · next h => simp; omega

theorem laneField_isSome (l : Option LaneId) : l.isSome = true ↔ laneField l < 8 := by
  cases l with
  | none => simp [laneField]
  | some l => simp [laneField, l.isLt]

theorem laneField_isNone (l : Option LaneId) : l.isNone = true ↔ ¬laneField l < 8 := by
  rw [← laneField_isSome]
  cases l <;> simp

theorem sameLane_iff (a b : Option LaneId) : sameLane a b = true ↔ laneField a < 8 ∧ laneField a = laneField b := by
  cases a with
  | none => simp [sameLane, laneField]
  | some a =>
    cases b with
    | none => simpa [sameLane, laneField] using fun _ => by omega
    | some b => simp [sameLane, laneField, Fin.ext_iff, a.isLt]

theorem validRegion_iff (size : Nat) (rg : Region) : validRegion size rg = true ↔
    1 ≤ rg.count ∧ rg.base + rg.count ≤ size ∧
      (laneField rg.keyB < 8 → laneField rg.keyA < 8 ∧ laneField rg.keyB ≠ laneField rg.keyA) ∧
      (laneField rg.versionLane < 8 →
        laneField rg.versionLane ≠ laneField rg.keyA ∧ laneField rg.versionLane ≠ laneField rg.keyB) ∧
      (rg.autoVersion = true → laneField rg.versionLane < 8) := by
  unfold validRegion
  simp only [Bool.and_eq_true, Bool.or_eq_true, decide_eq_true_eq, Bool.not_eq_true', ← Bool.not_eq_true,
    laneField_isNone, laneField_isSome, sameLane_iff]
  by_cases h : rg.autoVersion = true
  · simp only [h, not_true, false_or, true_implies]; omega
  · simp only [h, Bool.false_eq_true, not_false_eq_true, true_or, false_implies, and_true]; omega

theorem regionOf_eq_some {w : Nat} : AdminEntry.regionOf w = some n ↔ n.val = w := by
  unfold AdminEntry.regionOf
  split
  · simp [Fin.ext_iff, eq_comm]
  · next h => simp; omega

/-- The descriptor that a DEFINE_REGION asks for, field by field. -/
theorem requestedRegion_eq_some {e : Entry} {phase : RegionPhase} {rg : Region} :
    requestedRegion e phase = some rg ↔ rg.phase = phase ∧ rg.base = (entryAddr e 0x08).toNat ∧
      rg.count = entryField e 0x10 4 ∧ laneField rg.keyA = entryField e 0x14 4 ∧
      laneField rg.keyB = entryField e 0x18 4 ∧ laneField rg.versionLane = entryField e 0x1C 4 ∧
      rg.autoVersion = (entryField e 0x20 4).testBit 0 := by
  simp only [← laneOf_eq_some]
  unfold requestedRegion AdminEntry.w2 AdminEntry.w3 AdminEntry.w4
  constructor
  · split
    · next a b v ha hb hv => rintro ⟨⟩; exact ⟨rfl, rfl, rfl, ha, hb, hv, rfl⟩
    · rintro ⟨⟩
  · obtain ⟨p, base, count, a, b, v, auto⟩ := rg
    intro ⟨phase, base, count, ha, hb, hv, auto⟩
    rw [ha, hb, hv]
    dsimp only at phase base count auto
    rw [phase, base, count, auto]
    rfl

/-- The parameter checks of DEFINE_REGION (R8). -/
def DefineValid (size : Nat) (e : Entry) : Prop :=
  let base := (entryAddr e 0x08).toNat
  let count := entryField e 0x10 4
  let lane := fun off => entryField e off 4
  let laneOk := fun off => lane off < 8 ∨ lane off = 0xFFFFFFFF
  let present := fun off => lane off < 8
  entryField e 0x04 4 < 16 ∧ laneOk 0x14 ∧ laneOk 0x18 ∧ laneOk 0x1C ∧ 1 ≤ count ∧ base + count ≤ size ∧
    (present 0x18 → present 0x14 ∧ lane 0x18 ≠ lane 0x14) ∧
    (present 0x1C → lane 0x1C ≠ lane 0x14 ∧ lane 0x1C ≠ lane 0x18) ∧
    ((entryField e 0x20 4).testBit 0 = true → present 0x1C)

theorem laneField_ok (l : Option LaneId) : laneField l < 8 ∨ laneField l = 0xFFFFFFFF := by
  cases l with
  | none => exact .inr rfl
  | some l => exact .inl l.isLt

theorem exists_laneField {w : Nat} (h : w < 8 ∨ w = 0xFFFFFFFF) : ∃ l, laneField l = w := by
  rcases h with h | rfl
  · exact ⟨some ⟨w, h⟩, rfl⟩
  · exact ⟨none, rfl⟩

/-- A descriptor that is asked for is valid where the parameters are. -/
theorem validRegion_of_requested {e : Entry} {rg : Region} {size : Nat} (h : requestedRegion e .active = some rg)
    (hn : n.val = entryField e 0x04 4) : validRegion size rg = true ↔ DefineValid size e := by
  obtain ⟨-, base, count, keyA, keyB, version, auto⟩ := requestedRegion_eq_some.1 h
  have okA := laneField_ok rg.keyA
  have okB := laneField_ok rg.keyB
  have okV := laneField_ok rg.versionLane
  rw [keyA] at okA
  rw [keyB] at okB
  rw [version] at okV
  rw [validRegion_iff, base, count, keyA, keyB, version, auto]
  exact ⟨fun h => ⟨hn ▸ n.isLt, okA, okB, okV, h⟩, fun ⟨_, _, _, _, h⟩ => h⟩

theorem defineRegion_of_invalid {e : Entry} (h : ¬DefineValid u.store.size e) :
    defineRegion e u = refuse .invalidParameter u := by
  unfold defineRegion
  split
  · next n rg hn hrg =>
    rw [if_pos]
    rw [Bool.not_eq_true', ← Bool.not_eq_true]
    exact mt (validRegion_of_requested hrg (regionOf_eq_some.1 hn)).1 h
  · rfl

/-- DEFINE_REGION with valid parameters (R8 to R10). -/
theorem defineRegion_of_valid {e : Entry} (h : DefineValid u.store.size e) (hn : n.val = entryField e 0x04 4) :
    ∃ rg, requestedRegion e .active = some rg ∧ defineRegion e u =
      if u.regions[n].phase ≠ .undefined then refuse .regionBusy u
      else if u.regions.toList.any (regionsOverlap rg) then refuse .regionOverlap u
      else defineAccepted e n rg u := by
  obtain ⟨-, okA, okB, okV, -⟩ := id h
  obtain ⟨a, ha⟩ := exists_laneField okA
  obtain ⟨b, hb⟩ := exists_laneField okB
  obtain ⟨v, hv⟩ := exists_laneField okV
  have requested : requestedRegion e .active = some ⟨.active, _, _, a, b, v, _⟩ :=
    requestedRegion_eq_some.2 ⟨rfl, rfl, rfl, ha, hb, hv, rfl⟩
  refine ⟨_, requested, ?_⟩
  have number : AdminEntry.regionOf (AdminEntry.w0 e) = some n := regionOf_eq_some.2 hn
  unfold defineRegion
  rw [number, requested]
  dsimp only
  rw [(validRegion_of_requested requested hn).2 h]
  rfl

theorem overlap_iff {rg : Region} (r : Vector Region 16) : r.toList.any (regionsOverlap rg) = true ↔
    ∃ m : RegionId, r[m].phase ≠ .undefined ∧ rg.base < r[m].base + r[m].count ∧
      r[m].base < rg.base + rg.count := by
  rw [any_toList_iff]
  simp only [regionsOverlap, Bool.and_eq_true, bne_iff_ne, decide_eq_true_eq, and_assoc]

theorem whileOperating_failed (h : u.faults.failed = true) (value : BitVec 32) (run : State → State) :
    whileOperating value run u = completeCommand .deviceFailed value u := if_pos h

theorem whileOperating_operating (h : u.faults.failed = false) (value : BitVec 32) (run : State → State) :
    whileOperating value run u = run u := if_neg (by rw [h]; simp)

theorem commandTaken_faults {xfer : Nat} (e : Entry) (h : commandArrives s xfer = true) :
    (commandTaken xfer e s).faults = s.faults := by
  obtain ⟨a, link, ht⟩ := commandTaken_of_arrives h e
  rw [ht]
  rfl

/-- A region command that arrives, by the state of the device (R154). -/
theorem takeCommand_region {xfer : Nat} {e : Entry} {row : Nat → Bool} (run : Entry → State → State)
    (h : commandArrives s xfer = true) (hr : row (entryField e 0x00 1) = true) :
    Host.Outcome.next (takeCommand row (fun e => whileOperating 0 (run e)) xfer e s) =
      if s.faults.failed = true then commandEnds s (commandTaken xfer e s) .deviceFailed 0
      else (.next (afterEvent s (run e (commandTaken xfer e s)) []) : Result) := by
  rw [takeCommand_of_arrives _ h hr]
  have faults := commandTaken_faults e h
  split
  · next hf => rw [whileOperating_failed (by rw [faults, hf])]; rfl
  · next hf => rw [whileOperating_operating (by rw [faults, Bool.eq_false_iff.2 hf])]

theorem exec_defineRegion {xfer : Nat} {e : Entry} (h : commandArrives s xfer = true)
    (ho : entryField e 0x00 1 = 0x08) : exec (.defineRegion xfer e) s =
      if s.faults.failed = true then commandEnds s (commandTaken xfer e s) .deviceFailed 0
      else .next (afterEvent s (defineRegion e (commandTaken xfer e s)) []) :=
  takeCommand_region defineRegion h (by rw [ho]; rfl)

theorem exec_retireRegion {xfer : Nat} {e : Entry} (h : commandArrives s xfer = true)
    (ho : entryField e 0x00 1 = 0x09) : exec (.retireRegion xfer e) s =
      if s.faults.failed = true then commandEnds s (commandTaken xfer e s) .deviceFailed 0
      else .next (afterEvent s (retireRegion e (commandTaken xfer e s)) []) :=
  takeCommand_region retireRegion h (by rw [ho]; rfl)

/-- What a RETIRE_REGION of a defined region has done when it begins to wait for contexts (R11, R171). -/
def retireBegun (n : RegionId) (u : State) : State :=
  setProgress (.retireWait n (u.probes.toList.countP (probeIn n)))
    ((u.setRegion n { u.regions[n] with phase := .draining }).setProbes
      (u.probes.map fun p => if probeIn n p then .disarmed else p))

theorem retireRegion_of_number {e : Entry} (hn : n.val = entryField e 0x04 4) : retireRegion e u =
    if u.regions[n].phase = .undefined then refuse .regionUndefined u else retireCheck (retireBegun n u) := by
  have number : AdminEntry.regionOf (AdminEntry.w0 e) = some n := regionOf_eq_some.2 hn
  unfold retireRegion
  rw [number]
  rfl

theorem retireRegion_of_invalid {e : Entry} (h : 16 ≤ entryField e 0x04 4) :
    retireRegion e u = refuse .invalidParameter u := by
  have number : AdminEntry.regionOf (AdminEntry.w0 e) = none := dif_neg (not_lt.2 h)
  unfold retireRegion
  rw [number]

/-- The taken command's state when RETIRE_REGION begins to wait, field by field. -/
theorem retireBegun_taken {xfer : Nat} (h : commandArrives s xfer = true) (e : Entry) (n : RegionId) :
    let u := retireBegun n (commandTaken xfer e s)
    u.regions = s.regions.set n { s.regions[n] with phase := .draining } ∧
      u.probes = s.probes.map (fun p => if probeIn n p then .disarmed else p) ∧
      runningProgress u = some (.retireWait n (s.probes.toList.countP (probeIn n))) ∧
      u.store = s.store ∧ u.cache = s.cache ∧ u.contexts = s.contexts ∧ u.rings = s.rings ∧ u.faults = s.faults ∧
      u.regs = s.regs := by
  obtain ⟨a, link, ht⟩ := commandTaken_of_arrives h e
  rw [ht]
  exact ⟨rfl, rfl, rfl, rfl, rfl, rfl, rfl, rfl, rfl⟩

/-- What a DEFINE_REGION of a valid descriptor ends in, by the checks that remain (R8 to R10). -/
theorem defineRegion_outcomes {e : Entry} {rg : Region} (xfer : Nat)
    (hr : requestedRegion e .active = some rg) (n : RegionId) :
    let t := commandTaken xfer e s
    let base := (entryAddr e 0x08).toNat
    let count := entryField e 0x10 4
    let outcome : Result := .next (afterEvent s
      (if s.regions[n].phase ≠ .undefined then refuse .regionBusy t
        else if s.regions.toList.any (regionsOverlap rg) = true then refuse .regionOverlap t
        else defineAccepted e n rg t) [])
    let overlap := ∃ m : RegionId, s.regions[m].phase ≠ .undefined ∧
      base < s.regions[m].base + s.regions[m].count ∧ s.regions[m].base < base + count
    (s.regions[n].phase ≠ .undefined → outcome = commandEnds s t .regionBusy 0) ∧
    (s.regions[n].phase = .undefined → overlap → outcome = commandEnds s t .regionOverlap 0) ∧
    (s.regions[n].phase = .undefined → ¬overlap → ∃ rg : Region, rg.phase = .active ∧ rg.base = base ∧
      rg.count = count ∧ laneField rg.keyA = entryField e 0x14 4 ∧ laneField rg.keyB = entryField e 0x18 4 ∧
      laneField rg.versionLane = entryField e 0x1C 4 ∧ rg.autoVersion = (entryField e 0x20 4).testBit 0 ∧
      ((entryField e 0x20 4).testBit 1 = false → outcome = commandEnds s (t.setRegion n rg) .done 0) ∧
      ((entryField e 0x20 4).testBit 1 = true → outcome = .next (afterEvent s
        (setProgress (.regionFill n) ((t.setRegion n { rg with phase := .filling }).setStore
          { s.store with jobs := s.store.jobs ++
            [.regionFill base (base + count - 1) (recordAt e.toList 0x40) base] })) []))) := by
  intro t base count outcome overlap
  obtain ⟨phase, hbase, hcount, keyA, keyB, version, auto⟩ := requestedRegion_eq_some.1 hr
  have shared := overlap_iff (rg := rg) s.regions
  rw [hbase, hcount] at shared
  refine ⟨fun hd => ?_, fun hd ho => ?_, fun hd ho =>
    ⟨rg, phase, hbase, hcount, keyA, keyB, version, auto, fun hfill => ?_, fun hfill => ?_⟩⟩
  all_goals unfold outcome
  · rw [if_pos hd]
    rfl
  · rw [if_neg (not_not.2 hd), if_pos (shared.2 ho)]
    rfl
  all_goals rw [if_neg (not_not.2 hd), if_neg (mt shared.1 ho)]
  · have active : defineAccepted e n rg t = done (t.setRegion n rg) :=
      if_neg (by rw [fillOption, AdminEntry.w5, hfill]; simp)
    rw [active]
    rfl
  · have fill : defineAccepted e n rg t =
        setProgress (.regionFill n) ((t.setRegion n { rg with phase := .filling }).setStore
          (t.store.issueJob (.regionFill rg.base (rg.base + rg.count - 1) (recordAt e.toList 0x40) rg.base))) :=
      if_pos hfill
    rw [fill, commandTaken_store, hbase, hcount]
    rfl

/-- Settles O43: the phases of a retire through its check, the two commands through the case of their checks that
applies to the state in which they are taken. -/
theorem regionsDefinedAndRetired : Obligations.RegionsDefinedAndRetired := by
  refine ⟨fun u n probes => ⟨fun hp => ⟨fun hn => ?_, fun hn => ?_⟩, fun hp => ⟨fun hh => ?_, fun hh => ?_⟩,
    fun hs k y hy => ?_⟩, fun s xfer e ha => ⟨fun hf => ⟨fun ho => ?_, fun ho => ?_⟩,
    fun hf ho => ⟨fun hv => ?_, fun hv n hn => ?_⟩,
    fun hf ho => ⟨fun hw => ?_, fun n hn => ⟨fun hd => ?_, fun hd => ?_⟩⟩⟩⟩
  · rw [retireCheck_of_waits hp, if_pos ((regionNamed_iff u n).2 hn)]
  · rw [retireCheck_of_waits hp, if_neg (mt (regionNamed_iff u n).1 hn)]
  · rw [retireCheck_of_release hp, if_pos ((holdsRegion_iff u n).2 hh)]
  · rw [retireCheck_of_release hp, if_neg (mt (holdsRegion_iff u n).1 hh)]
  · have sound : DirtySound u := fun k y c hy hc _ _ => hs k y c hy hc
    obtain ⟨-, released⟩ := releaseSlotsWith_spec (dirtySound_releaseKeeps raiseFault u.faults) (·.region == n)
      ⟨sound, rfl⟩
    refine ⟨fun hr _ => released.slotReleased hy (beq_iff_eq.2 hr), fun hr => ?_⟩
    dsimp only
    exact released.slotKept hy (mt beq_iff_eq.1 hr)
  · rw [exec_defineRegion ha ho, if_pos hf]
  · rw [exec_retireRegion ha ho, if_pos hf]
  all_goals have operating : ¬s.faults.failed = true := by rw [hf]; simp
  · rw [exec_defineRegion ha ho, if_neg operating, defineRegion_of_invalid (by rw [commandTaken_store]; exact hv)]
    rfl
  · obtain ⟨rg, requested, define⟩ :=
      defineRegion_of_valid (u := commandTaken xfer e s) (by rw [commandTaken_store]; exact hv) hn
    rw [exec_defineRegion ha ho, if_neg operating, define, commandTaken_regions]
    exact defineRegion_outcomes xfer requested n
  · rw [exec_retireRegion ha ho, if_neg operating, retireRegion_of_invalid hw]
    rfl
  all_goals rw [exec_retireRegion ha ho, if_neg operating, retireRegion_of_number hn, commandTaken_regions]
  · rw [if_pos hd]
    rfl
  · rw [if_neg hd]
    obtain ⟨regions, probes, progress, rest⟩ := retireBegun_taken ha e n
    refine ⟨_, rfl, ?_, fun m hm => ?_, fun p => ?_, progress, rest⟩
    · rw [regions, getElem_set_fin, if_pos rfl]
    · rw [regions, getElem_set_fin, if_neg hm]
    · rw [probes, getElem_map_fin]

end RegionCommands

end Sys2Proof.Machine

/-! # The take of a unit that is handed to a context -/

namespace Sys2Proof.Machine

section Takes

variable {s s1 : State} {r : RingId} {w : WorkRing} {ps : List Placed} {ms : List Member} {regions : Vector Region 16}

/-! ## Opcodes -/

/-- The code of an opcode (R189). -/
def Opcode.number : Opcode → Nat
  | .update => 1
  | .fetch => 2
  | .store => 3
  | .fence => 4
  | .nop => 5

theorem opcode_eq_some {e : Entry} {op : Opcode} :
    WorkEntry.opcode e = some op ↔ entryField e 0x00 1 = Opcode.number op := by
  unfold WorkEntry.opcode
  generalize entryField e 0x00 1 = n
  constructor
  · unfold opcodeOf
    split <;> rintro ⟨⟩ <;> rfl
  · rintro rfl
    cases op <;> rfl

theorem redirects_iff (e : Entry) : WorkEntry.redirects e = true ↔
    entryField e 0x00 1 = 1 ∧ (entryField e 0x01 1).testBit 1 = true ∧ entryField e 0x0C 4 ≠ entryField e 0x08 4 := by
  unfold WorkEntry.redirects
  rw [Bool.and_eq_true, Bool.and_eq_true, beq_iff_eq, bne_iff_ne, opcode_eq_some, and_assoc]
  rfl

/-! ## Members and their records -/

/-- The records of a member are different: a redirect names another record (R26). -/
theorem nodup_memberOf_records (regions : Vector Region 16) (slot : Nat) (e : Entry) :
    (memberOf regions slot e).records.Nodup := by
  unfold Member.records memberOf
  dsimp only
  split
  · next h =>
    obtain ⟨-, -, hd⟩ := (redirects_iff e).1 h
    have apart : WorkEntry.recordIndex e ≠ WorkEntry.destinationIndex e := Ne.symm hd
    simpa using apart
  · simp

theorem mem_records_iff (m : Member) (n : Nat) : n ∈ m.records ↔ m.source = n ∨ m.destination = some n := by
  unfold Member.records
  rw [List.mem_cons, Option.mem_toList, eq_comm]

theorem names_iff (m : Member) (n : Nat) : m.names n = true ↔ n ∈ m.records := by
  unfold Member.names
  rw [mem_records_iff, Bool.or_eq_true, beq_iff_eq, beq_iff_eq]

/-- Without conflicts no two members name one record (R35). -/
theorem pairwise_disjoint_of_conflicts (h : conflicts ms = []) :
    ms.Pairwise (Function.onFun List.Disjoint Member.records) := by
  induction ms with
  | nil => exact .nil
  | cons m rest ih =>
    obtain ⟨own, others⟩ := List.append_eq_nil_iff.1 h
    refine .cons (fun m' hm' n hn hn' => ?_) (ih others)
    exact List.filter_eq_nil_iff.1 own n hn (List.any_eq_true.2 ⟨m', hm', (names_iff m' n).2 hn'⟩)

/-- What the take of an accepted unit has found: its members, which share no record (R30, R35). -/
theorem judge_accepted {limit : Nat} (h : judge r regions limit ps = .accepted ms) :
    ms = ps.map (fun p => memberOf regions p.slot p.entry) ∧ conflicts ms = [] := by
  have bundle : ∀ {first : Placed} {ps : List Placed}, judgeBundle r regions first ps = .accepted ms →
      ms = ps.map (fun p => memberOf regions p.slot p.entry) ∧ conflicts ms = [] := fun {first ps} h => by
    unfold judgeBundle judgeMembers at h
    dsimp only at h
    split at h
    · split at h
      · cases h
      · next hl =>
        cases h
        refine ⟨rfl, ?_⟩
        cases hc : conflicts (ps.map fun p => memberOf regions p.slot p.entry) with
        | nil => rfl
        | cons n rest => rw [hc] at hl; cases hl
    · cases h
  unfold judge at h
  split at h
  · cases h
  · unfold judgeSingle at h
    split at h
    · cases h
    · split at h
      · cases h; exact ⟨rfl, by simp [conflicts]⟩
      · cases h
  · split at h
    · cases h
    · split at h
      · cases h
      · exact bundle h

/-! ## The record list -/

/-- The items that members give, before they are ordered (R61). -/
def namedItems (ms : List Member) : List RecordItem :=
  ms.flatMap fun m => m.records.map fun n => { record := n, region := WorkEntry.region m.entry, slot := none }

theorem insertItem_eq (i : RecordItem) (l : List RecordItem) :
    insertItem i l = l.orderedInsert (fun i j : RecordItem => i.record ≤ j.record) i := by
  induction l with
  | nil => rfl
  | cons j rest ih => unfold insertItem; rw [ih]; rfl

/-- A record list is what the members give, sorted by insertion. -/
theorem recordList_eq (ms : List Member) :
    recordList ms = (namedItems ms).insertionSort fun i j : RecordItem => i.record ≤ j.record := by
  have insert : insertItem = List.orderedInsert fun i j : RecordItem => i.record ≤ j.record :=
    funext fun i => funext fun l => insertItem_eq i l
  unfold recordList
  rw [insert]
  rfl

theorem recordList_perm (ms : List Member) : (recordList ms).Perm (namedItems ms) := by
  rw [recordList_eq]
  exact List.perm_insertionSort _ _

theorem recordList_ascending (ms : List Member) : (recordList ms).Pairwise fun i j => i.record ≤ j.record := by
  have total : Std.Total fun i j : RecordItem => i.record ≤ j.record := ⟨fun i j => Nat.le_total i.record j.record⟩
  have trans : IsTrans RecordItem fun i j => i.record ≤ j.record := ⟨fun _ _ _ => Nat.le_trans⟩
  rw [recordList_eq]
  exact List.pairwise_insertionSort _ _

theorem mem_namedItems (i : RecordItem) : i ∈ namedItems ms ↔
    i.slot = none ∧ ∃ m ∈ ms, i.region = WorkEntry.region m.entry ∧
      (m.source = i.record ∨ m.destination = some i.record) := by
  unfold namedItems
  simp only [List.mem_flatMap, List.mem_map, ← mem_records_iff]
  constructor
  · rintro ⟨m, hm, n, hn, rfl⟩; exact ⟨rfl, m, hm, rfl, hn⟩
  · obtain ⟨n, rg, k⟩ := i
    rintro ⟨rfl, m, hm, rfl, hn⟩; exact ⟨m, hm, n, hn, rfl⟩

theorem namedItems_records (ms : List Member) : (namedItems ms).map RecordItem.record = ms.flatMap Member.records := by
  unfold namedItems
  rw [List.map_flatMap]
  exact List.flatMap_congr fun m _ => by rw [List.map_map]; exact List.map_id _

theorem mem_recordList_records (ms : List Member) (n : Nat) : n ∈ (recordList ms).map RecordItem.record ↔
    ∃ m ∈ ms, m.source = n ∨ m.destination = some n := by
  rw [((recordList_perm ms).map _).mem_iff, namedItems_records, List.mem_flatMap]
  simp only [mem_records_iff]

/-- Where every member names different records and no two name the same, a record list ascends strictly. -/
theorem recordList_strict (own : ∀ m ∈ ms, m.records.Nodup) (h : conflicts ms = []) :
    ((recordList ms).map RecordItem.record).Pairwise (· < ·) := by
  have nodup : ((recordList ms).map RecordItem.record).Nodup := by
    rw [((recordList_perm ms).map _).nodup_iff, namedItems_records]
    exact List.nodup_flatMap.2 ⟨own, pairwise_disjoint_of_conflicts h⟩
  have ascending := List.pairwise_map.2 (recordList_ascending ms)
  exact (ascending.and nodup).imp fun ⟨le, ne⟩ => Nat.lt_of_le_of_ne le ne

/-! ## The arbiter's choice -/

theorem eligible_of_firstWithCredit (h : firstWithCredit s = some r) : eligible s r = true := by
  have chosen : (eligible s r && hasArbiterCredit s r) = true := List.find?_some (p := fun r => eligible s r && _) h
  exact (Bool.and_eq_true_iff.1 chosen).1

/-- The ring that the arbiter chooses is eligible in the state that it leaves (R126, R127). -/
theorem eligible_of_arbitrate (h : arbitrate s = some (r, s1)) : eligible s1 r = true := by
  unfold arbitrate at h
  split at h
  · next hf => cases h; exact eligible_of_firstWithCredit hf
  · split at h
    · obtain ⟨_, hf, e⟩ := Option.map_eq_some_iff.1 h
      cases e
      exact eligible_of_firstWithCredit hf
    · cases h

/-- What an eligible ring with an accepted unit has (R126). -/
theorem eligible_accepted (h : eligible s r = true) (hw : s.rings.work[r] = some w) (hu : w.unit = some ps)
    (hj : judge r s.regions w.inFlightLimit ps = .accepted ms) :
    (∃ q, s.rings.results[w.boundTo] = some q) ∧ ∃ c : CtxId, s.contexts[c] = none := by
  unfold eligible at h
  rw [hw] at h
  dsimp only at h
  rw [hu] at h
  cases hq : s.rings.results[w.boundTo] with
  | none => rw [hq] at h; simp at h
  | some q =>
    rw [hq] at h
    dsimp only at h
    rw [hj] at h
    simp only [unitMayGo, Bool.and_eq_true] at h
    obtain ⟨-, -, -, -, free⟩ := h
    obtain ⟨c, hc⟩ := (any_toList_iff _ _).1 free
    exact ⟨⟨q, rfl⟩, c, Option.isNone_iff_eq_none.1 hc⟩

/-- The lowest-numbered FREE context (R60). -/
theorem lowestFree_of_free (h : ∃ c : CtxId, s.contexts[c] = none) :
    ∃ c, lowestFree s = some c ∧ s.contexts[c] = none ∧ ∀ d : CtxId, d < c → s.contexts[d] ≠ none := by
  obtain ⟨c, hc⟩ := h
  have found : (lowestFree s).isSome = true :=
    List.find?_isSome.2 ⟨c, List.mem_finRange c, Option.isNone_iff_eq_none.2 hc⟩
  obtain ⟨c, hc⟩ := Option.isSome_iff_exists.1 found
  obtain ⟨free, i, hi, e, below⟩ := List.find?_eq_some_iff_getElem.1 hc
  refine ⟨c, hc, Option.isNone_iff_eq_none.1 free, fun d hd hn => ?_⟩
  have index : i = c.val := by rw [← e, List.getElem_finRange]; rfl
  have taken := below d.val (by rw [index]; exact hd)
  rw [List.getElem_finRange] at taken
  have taken : (!s.contexts[d].isNone) = true := taken
  rw [hn] at taken
  exact absurd taken (by simp)

/-! ## The context -/

theorem unitKind_single (p : Placed) {op : Opcode} (h : entryField p.entry 0x00 1 = op.number) :
    unitKind [p] = .single (some op) := congrArg UnitKind.single (opcode_eq_some.2 h)

theorem unitKind_bundle (h : 2 ≤ ps.length) : unitKind ps = .bundle := by
  match ps, h with
  | _ :: _ :: _, _ => rfl

theorem nextKind_reloadCredits (s : State) (r : RingId) : nextKind (reloadCredits s) r = nextKind s r := by
  have ring : (reloadCredits s).rings.work[r] = s.rings.work[r].map WorkRing.reloaded := getElem_map_fin _ _ _
  unfold nextKind
  rw [ring]
  cases s.rings.work[r] <;> rfl

/-- The take of an accepted unit, as the row of its kind. -/
theorem takeUnit_accepted (ha : arbitrate s = some (r, s1)) (hw : s1.rings.work[r] = some w) (hu : w.unit = some ps)
    (hj : judge r s1.regions w.inFlightLimit ps = .accepted ms) : takeUnit (unitKind ps) s =
      afterEvent s1 (handToContext r ms (unitTaken r w ps.length s1)) [] := by
  have kind : nextKind s r = some (unitKind ps) := by
    have here : nextKind s1 r = some (unitKind ps) := by unfold nextKind; rw [hw]; dsimp only; rw [hu]; rfl
    rcases arbitrate_state ha with rfl | rfl
    · exact here
    · rw [← nextKind_reloadCredits]; exact here
  have taken : takeFrom r s1 = settle (handToContext r ms (unitTaken r w ps.length s1)) := by
    unfold takeFrom
    rw [hw]
    dsimp only
    rw [hu]
    dsimp only
    rw [hj]
    rfl
  unfold takeUnit
  rw [ha]
  dsimp only
  rw [if_pos kind]
  unfold event
  rw [taken]
  rfl

/-- The state in which context `c` has an accepted unit and no host read has begun (R60, R128). -/
def contextGiven (r : RingId) (w : WorkRing) (q : ResultRing) (c : CtxId) (ms : List Member) (n : Nat) (s : State) :
    State :=
  { s with
    contexts := s.contexts.set c (some (newContext r ms))
    cache := { s.cache with requests := s.cache.requests ++ [c] }
    rings := { s.rings with
      work := s.rings.work.set r (some { w.taken n with outstanding := w.outstanding ++ ms.map Member.ringSlot })
      results := s.rings.results.set w.boundTo (some { q with reserved := q.reserved + n })
      lastServed := r } }

theorem unitTaken_eq {q : ResultRing} (hq : s.rings.results[w.boundTo] = some q) (n : Nat) :
    unitTaken r w n s = { s with
      rings := { s.rings with
        work := s.rings.work.set r (some (w.taken n))
        results := s.rings.results.set w.boundTo (some { q with reserved := q.reserved + n })
        lastServed := r } } := by
  unfold unitTaken reserve
  rw [show ((s.setWork r (some (w.taken n))).setLastServed r).rings.results[w.boundTo] = some q from hq]
  rfl

theorem handToContext_taken {q : ResultRing} {c : CtxId} (hq : s.rings.results[w.boundTo] = some q)
    (hc : lowestFree s = some c) (n : Nat) : handToContext r ms (unitTaken r w n s) =
      beginStoreRead c ms (contextGiven r w q c ms n s) := by
  have work : (s.rings.work.set r (some (w.taken n)))[r] = some (w.taken n) := by
    rw [getElem_set_fin, if_pos rfl]
  have free : lowestFree (unitTaken r w n s) = some c := by rw [unitTaken_eq hq]; exact hc
  unfold handToContext
  rw [free, unitTaken_eq hq]
  dsimp only
  rw [work]
  refine congrArg (beginStoreRead c ms) ?_
  unfold contextGiven State.setWork State.setContext State.setRequests
  simp only [Vector.set_set]
  rfl

/-- A host read begins for a STORE alone (R23). -/
theorem beginStoreRead_of_store {c : CtxId} {m : Member} (h : entryField m.entry 0x00 1 = 3) (s : State) :
    beginStoreRead c [m] s = issueRead (.storeRead c) (entryAddr m.entry 0x20) 32 s :=
  if_pos (opcode_eq_some.2 h)

theorem beginStoreRead_of_not_store {c : CtxId} (h : ∀ m, ms = [m] → entryField m.entry 0x00 1 ≠ 3) (s : State) :
    beginStoreRead c ms s = s := by
  unfold beginStoreRead
  split
  · next m => exact if_neg (mt opcode_eq_some.1 (h m rfl))
  · rfl

/-- What the begin of a host read keeps. -/
structure LinkOnly (s t : State) : Prop where
  regs : t.regs = s.regs
  regions : t.regions = s.regions
  contexts : t.contexts = s.contexts
  cache : t.cache = s.cache
  store : t.store = s.store
  rings : t.rings = s.rings
  admin : t.admin = s.admin
  probes : t.probes = s.probes
  faults : t.faults = s.faults

theorem beginStoreRead_linkOnly (c : CtxId) (ms : List Member) (s : State) : LinkOnly s (beginStoreRead c ms s) := by
  unfold beginStoreRead
  split
  · split <;> exact ⟨rfl, rfl, rfl, rfl, rfl, rfl, rfl, rfl, rfl⟩
  · exact ⟨rfl, rfl, rfl, rfl, rfl, rfl, rfl, rfl, rfl⟩

theorem storeRead_iff (r : RingId) (ms : List Member) :
    (newContext r ms).storeRead = true ↔ ∃ m, ms = [m] ∧ entryField m.entry 0x00 1 = 3 := by
  show Context.isStore _ = true ↔ _
  unfold Context.isStore
  dsimp only [newContext]
  split
  · next m => rw [beq_iff_eq, opcode_eq_some]; simp [Opcode.number]
  · next h => exact ⟨fun h' => absurd h' (by simp), fun ⟨m, e, _⟩ => absurd e (h m)⟩

/-- What the arbiter keeps. -/
structure WorkOnly (s t : State) : Prop where
  link : t.link = s.link
  regs : t.regs = s.regs
  regions : t.regions = s.regions
  contexts : t.contexts = s.contexts
  cache : t.cache = s.cache
  store : t.store = s.store
  results : t.rings.results = s.rings.results
  admin : t.admin = s.admin
  probes : t.probes = s.probes
  faults : t.faults = s.faults
  now : t.now = s.now

/-- The arbiter changes nothing but the credits of work rings (R127). -/
theorem arbitrate_workOnly (h : arbitrate s = some (r, s1)) : WorkOnly s s1 := by
  rcases arbitrate_state h with rfl | rfl <;> exact ⟨rfl, rfl, rfl, rfl, rfl, rfl, rfl, rfl, rfl, rfl, rfl⟩

/-- The member of an entry, from the bytes of the entry (R5, R26). -/
theorem memberOf_eq (regions : Vector Region 16) (slot : Nat) (e : Entry) : memberOf regions slot e =
    let base := regions[WorkEntry.region e].base
    let source := entryField e 0x08 4
    let dest := entryField e 0x0C 4
    { ringSlot := slot
      entry := e
      source := base + source
      destination := if entryField e 0x00 1 = 1 ∧ (entryField e 0x01 1).testBit 1 = true ∧ dest ≠ source
        then some (base + dest) else none
      outcome := none
      image := none } := by
  unfold memberOf
  simp only [redirects_iff]
  rfl

/-- A unit with one member is one with one entry. -/
theorem single_member_iff (hm : ms = ps.map fun p => memberOf regions p.slot p.entry) (n : Nat) :
    (∃ m, ms = [m] ∧ entryField m.entry 0x00 1 = n) ↔ ∃ p, ps = [p] ∧ entryField p.entry 0x00 1 = n := by
  rw [hm]
  simp only [List.map_eq_singleton_iff]
  constructor
  · rintro ⟨_, ⟨p, e, rfl⟩, h⟩; exact ⟨p, e, h⟩
  · rintro ⟨p, e, h⟩; exact ⟨_, ⟨p, e, rfl⟩, h⟩

/-- Settles O49: the arbiter's choice is eligible, so a context is FREE and the take hands the unit to it. -/
theorem takesHandedToContext : Obligations.TakesHandedToContext := by
  intro s s1 r w ps ms ha hw hu hj
  have kept := arbitrate_workOnly ha
  obtain ⟨members, apart⟩ := judge_accepted hj
  have own : ∀ m ∈ ms, m.records.Nodup := fun m hm => by
    rw [members] at hm
    obtain ⟨p, -, rfl⟩ := List.mem_map.1 hm
    exact nodup_memberOf_records _ _ _
  have judged : judge r s1.regions w.inFlightLimit ps = .accepted ms := by rw [kept.regions]; exact hj
  obtain ⟨⟨q, hq⟩, free⟩ := eligible_accepted (eligible_of_arbitrate ha) hw hu judged
  obtain ⟨c, hc, given, below⟩ := lowestFree_of_free free
  have taken := takeUnit_accepted ha hw hu judged
  rw [handToContext_taken hq hc] at taken
  have final := beginStoreRead_linkOnly c ms (contextGiven r w q c ms ps.length s1)
  have row : ∀ {k}, unitKind ps = k → takeUnit k s =
      afterEvent s (beginStoreRead c ms (contextGiven r w q c ms ps.length s1)) [] := fun e => by
    rw [← e, taken]
    unfold afterEvent
    rw [kept.link]
  refine ⟨members.trans (List.map_congr_left fun p _ => memberOf_eq _ _ _), c,
    beginStoreRead c ms (contextGiven r w q c ms ps.length s1), newContext r ms, by rw [← kept.contexts]; exact given,
    by rw [← kept.contexts]; exact below, fun p e h => ?_, fun p e h => ?_, fun p e h => ?_, fun h => ?_, ?_, rfl, rfl,
    (storeRead_iff r ms).trans (single_member_iff members 3), recordList_strict own apart, mem_recordList_records ms,
    fun i hi => (mem_namedItems i).1 ((recordList_perm ms).mem_iff.1 hi), fun d hd => ?_, ?_, ?_, fun n hn => ?_, ?_,
    fun q' hq' => ?_, fun n hn => ?_, fun p e h => ?_, fun h => ?_, ?_, ?_, ?_, ?_, ?_, ?_⟩
  · exact congrArg Host.Outcome.next (row (e ▸ unitKind_single p h))
  · exact congrArg Host.Outcome.next (row (e ▸ unitKind_single p h))
  · exact congrArg Host.Outcome.next (row (e ▸ unitKind_single p h))
  · exact congrArg Host.Outcome.next (row (unitKind_bundle h))
  · rw [final.contexts]
    exact (getElem_set_fin _ _ _ _).trans (if_pos rfl)
  · rw [final.contexts, ← kept.contexts]
    exact (getElem_set_fin _ _ _ _).trans (if_neg hd)
  · rw [final.cache, ← kept.cache]
    rfl
  · rw [final.rings]
    exact (getElem_set_fin _ _ _ _).trans (if_pos rfl)
  · rw [final.rings]
    exact (getElem_set_fin _ _ _ _).trans (if_neg hn)
  · rw [final.rings]
    rfl
  · rw [← kept.results, hq] at hq'
    cases hq'
    rw [final.rings]
    exact (getElem_set_fin _ _ _ _).trans (if_pos rfl)
  · rw [final.rings, ← kept.results]
    exact (getElem_set_fin _ _ _ _).trans (if_neg hn)
  · have one : ms = [memberOf s.regions p.slot p.entry] := by rw [members, e]; rfl
    have begun := beginStoreRead_of_store (c := c) (m := memberOf s.regions p.slot p.entry) h
      (contextGiven r w q c ms ps.length s1)
    rw [← one] at begun
    rw [begun, ← kept.link, ← kept.now]
    rfl
  · have notStore : ∀ m, ms = [m] → entryField m.entry 0x00 1 ≠ 3 := fun m hm h3 => by
      obtain ⟨p, e, hp⟩ := (single_member_iff members 3).1 ⟨m, hm, h3⟩
      exact h p e hp
    rw [beginStoreRead_of_not_store notStore, ← kept.link]
    rfl
  · exact final.regs.trans kept.regs
  · exact final.regions.trans kept.regions
  · exact final.store.trans kept.store
  · exact final.admin.trans kept.admin
  · exact final.probes.trans kept.probes
  · exact final.faults.trans kept.faults

end Takes

end Sys2Proof.Machine

/-! # The validation of an entry (R29) -/

namespace Sys2Proof.Machine

section EntryChecks

variable {regions : Vector Region 16} {rg : Region} {e : Entry}

/-! ## Codes of the entry (R189) -/

theorem opcode_eq_none : WorkEntry.opcode e = none ↔ entryField e 0x00 1 = 0 ∨ 5 < entryField e 0x00 1 := by
  unfold WorkEntry.opcode opcodeOf
  generalize entryField e 0x00 1 = n
  split
  case h_6 => grind
  all_goals decide

/-- An opcode that reads a region and a record index (R20). -/
theorem namesRecord_iff : WorkEntry.namesRecord e = true ↔ 1 ≤ entryField e 0x00 1 ∧ entryField e 0x00 1 ≤ 3 := by
  unfold WorkEntry.namesRecord
  cases h : WorkEntry.opcode e with
  | none => have := opcode_eq_none.1 h; simp; omega
  | some op => rw [opcode_eq_some.1 h]; cases op <;> decide

theorem opcode_eq_some_of_named (h : 1 ≤ entryField e 0x00 1) (h' : entryField e 0x00 1 ≤ 3) :
    ∃ op : Opcode, WorkEntry.opcode e = some op ∧ op.number ≤ 3 := by
  obtain ⟨op, hop⟩ : ∃ op, WorkEntry.opcode e = some op := by
    refine Option.ne_none_iff_exists'.1 fun none => ?_
    have := opcode_eq_none.1 none
    omega
  exact ⟨op, hop, opcode_eq_some.1 hop ▸ h'⟩

theorem matchFunctionOf_isSome (n : Nat) : (matchFunctionOf n).isSome = true ↔ n ≤ 3 := by
  unfold matchFunctionOf
  split
  case h_5 => grind
  all_goals decide

theorem magnitudeFunctionOf_isSome (n : Nat) : (magnitudeFunctionOf n).isSome = true ↔ n ≤ 7 := by
  unfold magnitudeFunctionOf
  split
  case h_9 => grind
  all_goals decide

theorem laneOpOf_isSome (n : Nat) : (laneOpOf n).isSome = true ↔ n ≤ 13 := by
  unfold laneOpOf
  split
  case h_15 => grind
  all_goals decide

/-- A code that stands for no lane operation counts as KEEP. -/
theorem laneOpOf_eq_copyLane (n : Nat) : (laneOpOf n).getD .keep = .copyLane ↔ n = 13 := by
  unfold laneOpOf
  split
  case h_15 => grind
  all_goals decide

theorem laneOpOf_eq_keep {n : Nat} (h : n ≤ 13) : (laneOpOf n).getD .keep = .keep ↔ n = 0 := by
  unfold laneOpOf
  split
  case h_15 => grind
  all_goals decide

theorem leNat_lt (bytes : List Byte) : leNat bytes < 256 ^ bytes.length := by
  induction bytes with
  | nil => decide
  | cons b rest ih =>
    have := b.isLt
    unfold leNat
    rw [List.length_cons, Nat.pow_succ]
    omega

theorem entryField_lt (e : Entry) (off n : Nat) : entryField e off n < 256 ^ n := by
  have := leNat_lt (bytesAt e.toList off n)
  rwa [show (bytesAt e.toList off n).length = n by simp [bytesAt]] at this

theorem entryWord_toNat (e : Entry) (off : Nat) : (entryWord e off).toNat = entryField e off 4 :=
  Nat.mod_eq_of_lt (entryField_lt e off 4)

/-! ## The conditions of R29, orders 3 to 7 -/

theorem outOfRange_iff : (!indexesInRange rg e) = true ↔ rg.count ≤ entryField e 0x08 4 ∨
    (entryField e 0x00 1 = 1 ∧ WorkEntry.redirect e = true ∧ rg.count ≤ entryField e 0x0C 4) := by
  have update : WorkEntry.opcode e = some .update ↔ entryField e 0x00 1 = 1 := opcode_eq_some
  simp only [indexesInRange, Bool.not_eq_true', Bool.and_eq_false_iff, Bool.or_eq_false_iff, Bool.not_eq_false',
    Bool.and_eq_true, decide_eq_false_iff_not, beq_iff_eq, Nat.not_lt, update, and_assoc]
  rfl

theorem badFunction_iff : (!functionsValid e) = true ↔
    ((entryField e 0x00 1 = 1 ∨ entryField e 0x00 1 = 2) ∧ 3 < entryField e 0x05 1) ∨
      (entryField e 0x00 1 = 1 ∧ 7 < entryField e 0x06 1) := by
  have match_iff : (WorkEntry.matchFunction e).isSome = true ↔ _ := matchFunctionOf_isSome _
  have magnitude_iff : (WorkEntry.magnitudeFunction e).isSome = true ↔ _ := magnitudeFunctionOf_isSome _
  rw [Bool.not_eq_true', Bool.eq_false_iff, ne_eq]
  unfold functionsValid
  cases h : WorkEntry.opcode e with
  | none => have := opcode_eq_none.1 h; simp; omega
  | some op =>
    rw [opcode_eq_some.1 h]
    cases op
    case update => simp [match_iff, magnitude_iff, Opcode.number]; omega
    case fetch => simp [match_iff, Opcode.number]
    case store | fence | nop => simp [Opcode.number]

theorem everyLane_iff (p : ArmChoice → LaneId → Bool) : everyLane e p = true ↔
    ∀ arm i, arm = .pass ∨ WorkEntry.elseArm e = true → p arm i = true := by
  have read : ∀ arm, arm ∈ readArms e ↔ arm = .pass ∨ WorkEntry.elseArm e = true := fun arm => by
    unfold readArms
    cases arm <;> cases WorkEntry.elseArm e <;> decide
  simp only [everyLane, List.all_eq_true, read, List.mem_finRange, true_imp_iff]
  exact forall_congr' fun _ => forall_comm

/-- A lane condition fails on some lane of an arm that is read. -/
theorem not_everyLane_iff (p : ArmChoice → LaneId → Bool) : (!everyLane e p) = true ↔
    ∃ arm i, (arm = .pass ∨ WorkEntry.elseArm e = true) ∧ p arm i = false := by
  rw [Bool.not_eq_true', Bool.eq_false_iff, ne_eq, everyLane_iff]
  simp only [not_forall, exists_prop, Bool.not_eq_true]

theorem armOp_eq (arm : ArmChoice) (i : LaneId) : armOp e arm i = (laneOpOf (armCode e arm i)).getD .keep := by
  cases arm <;> rfl

theorem badLaneOp_iff : (!laneOpsValid e) = true ↔
    ∃ arm i, (arm = .pass ∨ WorkEntry.elseArm e = true) ∧ 13 < armCode e arm i := by
  simp only [laneOpsValid, not_everyLane_iff, Bool.eq_false_iff, ne_eq, laneOpOf_isSome, Nat.not_le]

theorem badCopy_iff : (!copyLanesValid e) = true ↔
    ∃ arm i, (arm = .pass ∨ WorkEntry.elseArm e = true) ∧ armCode e arm i = 13 ∧
      7 < entryField e (0x38 + 4 * i.val) 4 := by
  simp only [copyLanesValid, not_everyLane_iff, Bool.or_eq_false_iff, bne_eq_false_iff_eq, decide_eq_false_iff_not,
    armOp_eq, laneOpOf_eq_copyLane, WorkEntry.operandA, entryWord_toNat, Nat.not_lt, Nat.succ_le_iff]

theorem advancedLane_eq_some (i : LaneId) :
    rg.advancedLane = some i ↔ rg.autoVersion = true ∧ rg.versionLane = some i := by
  unfold Region.advancedLane
  cases rg.autoVersion <;> simp

/-- Order 7, where order 5 has passed: a code other than 0 is no KEEP. -/
theorem versionWritten_iff (h : ¬(!laneOpsValid e) = true) : (!versionLaneKept rg e) = true ↔
    ∃ arm i, (arm = .pass ∨ WorkEntry.elseArm e = true) ∧ rg.autoVersion = true ∧ rg.versionLane = some i ∧
      armCode e arm i ≠ 0 := by
  have keeps : ∀ arm i, arm = .pass ∨ WorkEntry.elseArm e = true → (armOp e arm i = .keep ↔ armCode e arm i = 0) :=
    fun arm i read => by
      rw [armOp_eq]
      exact laneOpOf_eq_keep (Nat.le_of_not_lt fun bad => h (badLaneOp_iff.2 ⟨arm, i, read, bad⟩))
  rw [versionLaneKept, not_everyLane_iff]
  refine exists_congr fun arm => exists_congr fun i => and_congr_right fun read => ?_
  rw [Bool.or_eq_false_iff, bne_eq_false_iff_eq, advancedLane_eq_some, beq_eq_false_iff_ne, ne_eq, keeps arm i read,
    and_assoc]

/-! ## The order of the conditions -/

theorem checkEntry_of_unknown (h : entryField e 0x00 1 = 0 ∨ 5 < entryField e 0x00 1) :
    checkEntry regions e = some (.malformed .badOpcode) := by
  unfold checkEntry
  rw [opcode_eq_none.2 h]

/-- FENCE and NOP read nothing that could fail (R20). -/
theorem checkEntry_of_nameless (h : entryField e 0x00 1 = 4 ∨ entryField e 0x00 1 = 5) :
    checkEntry regions e = none := by
  unfold checkEntry
  rcases h with h | h
  · rw [opcode_eq_some (op := .fence).2 h]
  · rw [opcode_eq_some (op := .nop).2 h]

theorem checkEntry_of_named (h : 1 ≤ entryField e 0x00 1) (h' : entryField e 0x00 1 ≤ 3) : checkEntry regions e =
    if regions[WorkEntry.region e].phase ≠ .active then some .regionInactive
    else if !indexesInRange regions[WorkEntry.region e] e then some .outOfRange
    else if !functionsValid e then some (.malformed .badFunction)
    else if entryField e 0x00 1 = 1 then checkArms regions[WorkEntry.region e] e
    else none := by
  obtain ⟨op, hop, low⟩ := opcode_eq_some_of_named h h'
  unfold checkEntry
  rw [hop, opcode_eq_some.1 hop]
  cases op
  case update | fetch | store => rfl
  case fence | nop => exact absurd low (by decide)

/-- Settles O23: each order of R29 is one test of `checkEntry` and one lemma above, on the bytes of the entry. -/
theorem entryChecksInOrder : Obligations.EntryChecksInOrder := by
  intro regions e
  dsimp only
  refine ⟨checkEntry_of_unknown, checkEntry_of_nameless, fun named => ?_⟩
  rw [checkEntry_of_named (by omega) (by omega), ← outOfRange_iff, ← badFunction_iff,
    ← badLaneOp_iff, ← badCopy_iff]
  refine ⟨fun inactive => ?_, fun active outside => ?_, fun active inside bad => ?_, fun active inside good other => ?_,
    fun active inside good update => ?_⟩
  · rw [if_pos inactive]
  · rw [if_neg active, if_pos outside]
  · rw [if_neg active, if_neg inside, if_pos bad]
  · rw [if_neg active, if_neg inside, if_neg good, if_neg other]
  · rw [if_neg active, if_neg inside, if_neg good, if_pos update]
    unfold checkArms
    refine ⟨fun op => ?_, fun op copy => ?_, fun op copy version => ?_, fun op copy version => ?_⟩
    · rw [if_pos op]
    · rw [if_neg op, if_pos copy]
    · rw [if_neg op, if_neg copy, if_pos ((versionWritten_iff op).2 version)]
    · rw [if_neg op, if_neg copy, if_neg (mt (versionWritten_iff op).1 version)]

end EntryChecks

end Sys2Proof.Machine

/-! # The judgement of a unit (R28 to R36) -/

namespace Sys2Proof.Machine

section Judgements

variable {r : RingId} {regions : Vector Region 16} {limit : Nat} {first second p : Placed} {rest ps : List Placed}
  {ms : List Member}

/-! ## Conflicts (R35) -/

theorem mem_conflicts_iff (n : Nat) : n ∈ conflicts ms ↔ ∃ i j : Nat, i < j ∧ ∃ a b, ms[i]? = some a ∧
    ms[j]? = some b ∧ n ∈ a.records ∧ n ∈ b.records := by
  have apart : n ∉ conflicts ms ↔ ms.Pairwise fun a b => ¬(n ∈ a.records ∧ n ∈ b.records) := by
    induction ms with
    | nil => simp [conflicts]
    | cons m rest ih =>
      rw [List.pairwise_cons, ← ih]
      simp only [conflicts, List.mem_append, List.mem_filter, List.any_eq_true, names_iff]
      grind
  rw [← not_iff_not, apart, List.pairwise_iff_getElem]
  simp only [List.getElem?_eq_some_iff]
  grind

theorem lowest_eq_min? (l : List Nat) : lowest l = l.min? := by cases l <;> rfl

theorem lowest_eq_none {l : List Nat} : lowest l = none ↔ ∀ n, n ∉ l := by
  rw [lowest_eq_min?, List.min?_eq_none_iff, List.eq_nil_iff_forall_not_mem]

theorem lowest_eq_some {l : List Nat} {n : Nat} : lowest l = some n ↔ n ∈ l ∧ ∀ m ∈ l, n ≤ m := by
  rw [lowest_eq_min?, List.min?_eq_some_iff]

/-! ## Bundles -/

theorem judge_bundle (r : RingId) (regions : Vector Region 16) (limit : Nat) (first second : Placed)
    (rest : List Placed) :
    let ps := first :: second :: rest
    judge r regions limit ps =
      if ps.length = 4 ∧ ∃ q, ps.getLast? = some q ∧ WorkEntry.bundleNext q.entry = true then
        .answered (ps.map (answer .malformed)) [unitFault r first .bundleTooLong none none]
      else if limit < ps.length then
        .answered (ps.map (answer .malformed)) [unitFault r first .bundleOverLimit none none]
      else judgeBundle r regions first ps := by
  simp only [← Option.any_eq_true]
  rfl

/-- A bundle with a failing member: every failing member is answered with the status of its own condition and raises its
own fault, and the others are abandoned (R34). -/
theorem judgeBundle_failing (h : ∃ p ∈ ps, checkMember regions p.entry ≠ none) : judgeBundle r regions first ps =
    .answered (ps.map fun p => answer ((checkMember regions p.entry).elim .bundleAbandoned Rejection.status) p)
      (ps.filterMap fun p => (checkMember regions p.entry).map (rejectionFault r regions p)) := by
  unfold judgeBundle
  dsimp only
  rw [if_neg]
  · congr 1
    · refine List.map_congr_left fun p _ => ?_
      cases checkMember regions p.entry <;> rfl
    · rw [List.map_filterMap]
      exact congrArg (List.filterMap · ps) (funext fun p => Option.map_map ..)
  · rw [List.isEmpty_iff, List.filterMap_eq_nil_iff]
    simpa using h

theorem judgeBundle_passing (h : ∀ p ∈ ps, checkMember regions p.entry = none) :
    judgeBundle r regions first ps = judgeMembers r regions first ps := by
  unfold judgeBundle
  dsimp only
  rw [if_pos]
  rw [List.isEmpty_iff, List.filterMap_eq_nil_iff]
  simpa using h

theorem judgeMembers_conflict (hm : ms = ps.map fun p => memberOf regions p.slot p.entry)
    (h : ∃ n, n ∈ conflicts ms) : ∃ n, n ∈ conflicts ms ∧ (∀ m ∈ conflicts ms, n ≤ m) ∧
      judgeMembers r regions first ps = .answered (ps.map (answer .bundleConflict))
        [unitFault r first .bundleConflict (some (WorkEntry.region first.entry)) (some n)] := by
  obtain ⟨n, hn⟩ : ∃ n, lowest (conflicts ms) = some n := by
    refine Option.ne_none_iff_exists'.1 fun none => ?_
    obtain ⟨n, hn⟩ := h
    exact lowest_eq_none.1 none n hn
  obtain ⟨mem, least⟩ := lowest_eq_some.1 hn
  refine ⟨n, mem, least, ?_⟩
  unfold judgeMembers
  dsimp only
  rw [← hm, hn]

theorem judgeMembers_apart (hm : ms = ps.map fun p => memberOf regions p.slot p.entry)
    (h : ∀ n, n ∉ conflicts ms) : judgeMembers r regions first ps = .accepted ms := by
  unfold judgeMembers
  dsimp only
  rw [← hm, lowest_eq_none.2 h]

/-- The member condition of R34 on the bytes of the entry: an UPDATE without ELSE_ARM. -/
theorem checkMember_eq (regions : Vector Region 16) (e : Entry) : checkMember regions e =
    match checkEntry regions e with
    | some x => some x
    | none =>
      if entryField e 0x00 1 = 1 ∧ (entryField e 0x01 1).testBit 2 = false then none
      else some (.malformed .bundleMember) := by
  have update : WorkEntry.opcode e = some .update ↔ entryField e 0x00 1 = 1 := opcode_eq_some
  unfold checkMember
  simp only [update]
  rfl

/-! ## Faults (R30) -/

theorem rejectionFault_eq (r : RingId) (regions : Vector Region 16) (p : Placed) (x : Rejection) :
    let rg := regions[WorkEntry.region p.entry]
    let index := entryField p.entry 0x08 4
    let op := entryField p.entry 0x00 1
    rejectionFault r regions p x =
      { cls := match x with
          | .malformed _ => .entryMalformed
          | .regionInactive => .regionInactive
          | .outOfRange => .indexRange
        source := .workRing r
        slotIndex := some p.slot
        tag := some (BitVec.ofNat 16 (entryField p.entry 0x02 2))
        region := if 1 ≤ op ∧ op ≤ 3 then some (WorkEntry.region p.entry) else none
        record := if 1 ≤ op ∧ op ≤ 3 ∧ rg.phase = .active ∧ index < rg.count then some (rg.base + index) else none
        image := some (imageHead p.entry)
        code := match x with
          | .malformed c => some c.code
          | _ => none } := by
  unfold rejectionFault passedRecord
  simp only [namesRecord_iff, and_assoc]
  cases x <;> rfl

/-! ## Single entries -/

theorem judgeSingle_of_rejected {x : Rejection} (h : checkEntry regions p.entry = some x) :
    judge r regions limit [p] = .answered [answer x.status p] [rejectionFault r regions p x] := by
  show judgeSingle r regions p = _
  unfold judgeSingle
  rw [h]

theorem judgeSingle_of_named (h : checkEntry regions p.entry = none) (hn : WorkEntry.namesRecord p.entry = true) :
    judge r regions limit [p] = .accepted [memberOf regions p.slot p.entry] := by
  show judgeSingle r regions p = _
  unfold judgeSingle
  rw [h]
  exact if_pos hn

/-- FENCE and NOP answer SUCCESS (R24, R25). -/
theorem judgeSingle_of_nameless (h : entryField p.entry 0x00 1 = 4 ∨ entryField p.entry 0x00 1 = 5) :
    judge r regions limit [p] = .answered [answer .success p] [] := by
  show judgeSingle r regions p = _
  unfold judgeSingle
  rw [checkEntry_of_nameless h]
  exact if_neg (mt namesRecord_iff.1 (by omega))

/-- Settles O24: a bundle's judgement is four tests in a row, and a lemma above says what each outcome holds. -/
theorem bundleJudgedInOrder : Obligations.BundleJudgedInOrder := by
  refine ⟨fun r regions limit first second rest => ?_, checkMember_eq, rejectionFault_eq, fun r regions limit p => ?_⟩
  · intro ps members tooLong failing shared
    have fails : ∀ p, failing p ↔ checkMember regions p.entry ≠ none := fun p => Option.ne_none_iff_exists'.symm
    have share : ∀ n, shared n ↔ n ∈ conflicts members := fun n => (mem_conflicts_iff n).symm
    have judged := judge_bundle r regions limit first second rest
    refine ⟨fun long => ?_, fun short full => ?_, fun short within some => ?_, fun short within pass conflict => ?_,
      fun short within pass apart => ?_⟩
    · exact judged.trans (if_pos long)
    · exact judged.trans ((if_neg short).trans (if_pos full))
    all_goals have bundle := judged.trans ((if_neg short).trans (if_neg (Nat.not_lt.2 within)))
    · simp only [fails] at some
      exact ⟨_, _, bundle.trans (judgeBundle_failing some), rfl, rfl⟩
    all_goals
      simp only [fails, not_not] at pass
      have passed := bundle.trans (judgeBundle_passing pass)
    · simp only [share] at conflict ⊢
      rw [passed]
      exact judgeMembers_conflict rfl conflict
    · simp only [share] at apart
      exact passed.trans (judgeMembers_apart rfl apart)
  · refine ⟨fun x hx => ⟨x.status, ?_, judgeSingle_of_rejected hx⟩, fun valid named => ?_, judgeSingle_of_nameless⟩
    · cases x <;> rfl
    · exact judgeSingle_of_named valid (namesRecord_iff.2 (by omega))

end Judgements

end Sys2Proof.Machine

/-! # Units, eligibility and the take arbiter (R31, R126, R127) -/

namespace Sys2Proof.Machine

section Arbiter

variable {s s1 : State} {r : RingId} {w : WorkRing} {ps : List Placed}

/-! ## The next unit (R31) -/

/-- The place of an entry in the unit at the front of a list: each entry but the last has BUNDLE_NEXT set, and the last
has it clear unless it is the last that the unit may have. -/
def LinkedIn (room n i : Nat) (e : Entry) : Prop :=
  (i + 1 < n → WorkEntry.bundleNext e = true) ∧ (i + 1 = n → n = room ∨ WorkEntry.bundleNext e = false)

theorem linkedIn_succ (room n i : Nat) (e : Entry) : LinkedIn (room + 1) (n + 1) (i + 1) e ↔ LinkedIn room n i e := by
  unfold LinkedIn
  rw [Nat.add_lt_add_iff_right, Nat.add_right_cancel_iff, Nat.add_right_cancel_iff]

theorem unitLength_eq_some {room : Nat} {buffer : List Entry} {n : Nat} : unitLength room buffer = some n ↔
    1 ≤ n ∧ n ≤ room ∧ n ≤ buffer.length ∧ ∀ i e, i < n → buffer[i]? = some e → LinkedIn room n i e := by
  induction room, buffer using unitLength.induct generalizing n with
  | case1 buffer => simp [unitLength]; omega
  | case2 room => simp [unitLength]; omega
  | case3 e rest => simp [unitLength, LinkedIn]; grind
  | case4 room e rest next ih =>
    rw [unitLength, if_pos next, ← Nat.and_forall_add_one]
    cases n with
    | zero => simp
    | succ n =>
      have head : LinkedIn (room + 2) (n + 1) 0 e ↔ 1 ≤ n := by simp [LinkedIn, next]; omega
      simp only [ih, Option.map_eq_some_iff, Nat.add_right_cancel_iff, exists_eq_right, List.length_cons,
        List.getElem?_cons_zero, List.getElem?_cons_succ, linkedIn_succ, Option.some.injEq]
      grind
  | case5 room e rest last =>
    rw [unitLength, if_neg last, ← Nat.and_forall_add_one]
    have head : LinkedIn (room + 2) n 0 e ↔ n ≤ 1 := by simp [LinkedIn, last]
    simp only [Option.some.injEq, List.length_cons, List.getElem?_cons_zero, List.getElem?_cons_succ]
    grind

theorem placeUnit_getElem? {size slot : Nat} (h : slot < size) (es : List Entry) (i : Nat) :
    (placeUnit size slot es)[i]? = es[i]?.map fun e => { slot := (slot + i) % size, entry := e } := by
  induction es generalizing slot i with
  | nil => rfl
  | cons e rest ih =>
    cases i with
    | zero => simp [placeUnit, Nat.mod_eq_of_lt h]
    | succ i =>
      have round : (ringNext size slot + i) % size = (slot + (i + 1)) % size := by
        rw [ringNext, Nat.mod_add_mod, Nat.add_assoc, Nat.add_comm 1]
      rw [← round]
      exact ih (Nat.mod_lt _ (Nat.zero_lt_of_lt h)) i

theorem placeUnit_length (size slot : Nat) (es : List Entry) : (placeUnit size slot es).length = es.length := by
  induction es generalizing slot with
  | nil => rfl
  | cons e rest ih => exact congrArg (· + 1) (ih _)

theorem unit_eq_some (h : w.take < w.size) : w.unit = some ps ↔
    unitLength 4 w.prefetch = some ps.length ∧ ∀ (i : Nat) (p : Placed), ps[i]? = some p →
      p.slot = (w.take + i) % w.size ∧ w.prefetch[i]? = some p.entry := by
  have place (n i : Nat) (p : Placed) :
      (placeUnit w.size w.take (w.prefetch.take n))[i]? = some p ↔
        i < n ∧ p.slot = (w.take + i) % w.size ∧ w.prefetch[i]? = some p.entry := by
    obtain ⟨slot, entry⟩ := p
    rw [placeUnit_getElem? h, List.getElem?_take]
    split
    · next hi => simp [hi]; grind
    · next hi => simp [hi]
  unfold WorkRing.unit nextUnit
  simp only [Option.map_map, Option.map_eq_some_iff, Function.comp]
  constructor
  · rintro ⟨n, hn, rfl⟩
    obtain ⟨-, -, within, -⟩ := unitLength_eq_some.1 hn
    rw [placeUnit_length, List.length_take, Nat.min_eq_left within]
    exact ⟨hn, fun i p hp => ((place n i p).1 hp).2⟩
  · rintro ⟨hn, placed⟩
    obtain ⟨-, -, within, -⟩ := unitLength_eq_some.1 hn
    refine ⟨ps.length, hn, List.ext_getElem? fun i => Option.ext fun p => ?_⟩
    rw [place]
    constructor
    · rintro ⟨hi, slot, entry⟩
      obtain ⟨p', hp⟩ : ∃ p', ps[i]? = some p' := ⟨_, List.getElem?_eq_getElem hi⟩
      obtain ⟨slot', entry'⟩ := placed i p' hp
      have same : p' = p := by
        cases p
        cases p'
        simp_all
      rw [hp, same]
    · intro hp
      exact ⟨(List.getElem?_eq_some_iff.1 hp).1, placed i p hp⟩

/-- A complete unit, entry by entry. -/
theorem unit_iff (h : w.take < w.size) : w.unit = some ps ↔ 1 ≤ ps.length ∧ ps.length ≤ 4 ∧
    ∀ (i : Nat) (p : Placed), ps[i]? = some p →
      p.slot = (w.take + i) % w.size ∧ w.prefetch[i]? = some p.entry ∧ LinkedIn 4 ps.length i p.entry := by
  rw [unit_eq_some h, unitLength_eq_some]
  constructor
  · rintro ⟨⟨one, four, -, linked⟩, placed⟩
    refine ⟨one, four, fun i p hp => ?_⟩
    obtain ⟨slot, entry⟩ := placed i p hp
    exact ⟨slot, entry, linked i p.entry (List.getElem?_eq_some_iff.1 hp).1 entry⟩
  · rintro ⟨one, four, placed⟩
    have there : ∀ i, i < ps.length → ∃ p, ps[i]? = some p := fun i hi => ⟨_, List.getElem?_eq_getElem hi⟩
    refine ⟨⟨one, four, ?_, fun i e hi he => ?_⟩, fun i p hp => ?_⟩
    · obtain ⟨p, hp⟩ := there (ps.length - 1) (by omega)
      obtain ⟨-, entry, -⟩ := placed _ p hp
      have := (List.getElem?_eq_some_iff.1 entry).1
      omega
    · obtain ⟨p, hp⟩ := there i hi
      obtain ⟨-, entry, linked⟩ := placed i p hp
      rw [he] at entry
      cases entry
      exact linked
    · obtain ⟨slot, entry, -⟩ := placed i p hp
      exact ⟨slot, entry⟩

/-! ## Eligibility (R126) -/

theorem runs_iff (ph : RingPhase) : ph.runs = true ↔ ph = .active ∨ ph = .deleting .drain := by
  match ph with
  | .active | .paused | .halted | .deleting .drain | .deleting .discard => simp [RingPhase.runs]

theorem isFence_iff (ps : List Placed) : isFence ps = true ↔ ∃ p, ps = [p] ∧ entryField p.entry 0x00 1 = 4 := by
  unfold isFence
  split
  · next p => rw [beq_iff_eq, opcode_eq_some]; simp [Opcode.number]
  · next h => exact ⟨fun h' => absurd h' (by simp), fun ⟨p, e, _⟩ => absurd e (h p)⟩

theorem contextFree_iff (s : State) : contextFree s = true ↔ ∃ c : CtxId, s.contexts[c] = none := by
  unfold contextFree
  rw [any_toList_iff]
  simp only [Option.isNone_iff_eq_none]

theorem unitMayGo_iff (s : State) (w : WorkRing) (ps : List Placed) (j : Judgement) : unitMayGo s w ps j = true ↔
    match j with
    | .accepted _ => w.outstanding.length + ps.length ≤ w.inFlightLimit ∧ ∃ c : CtxId, s.contexts[c] = none
    | .answered _ _ => (∃ p, ps = [p] ∧ entryField p.entry 0x00 1 = 4) → w.outstanding = [] := by
  unfold unitMayGo
  cases j with
  | accepted ms =>
    dsimp only
    rw [Bool.and_eq_true, decide_eq_true_iff, contextFree_iff]
  | answered posts faults =>
    dsimp only
    rw [← isFence_iff, Bool.or_eq_true, Bool.not_eq_true', List.isEmpty_iff, ← Bool.not_eq_true,
      Decidable.imp_iff_not_or]

theorem eligible_iff (s : State) (r : RingId) : eligible s r = true ↔
    s.faults.failed = false ∧ s.resetPhase = .operating ∧ ∃ w q ps,
      s.rings.work[r] = some w ∧ (w.phase = .active ∨ w.phase = .deleting .drain) ∧ w.unit = some ps ∧
      s.rings.results[w.boundTo] = some q ∧ ps.length ≤ q.credit ∧
      unitMayGo s w ps (judge r s.regions w.inFlightLimit ps) = true := by
  unfold eligible
  rw [Bool.and_eq_true, Bool.and_eq_true, Bool.not_eq_true', beq_iff_eq, and_assoc]
  refine and_congr_right fun _ => and_congr_right fun _ => ?_
  constructor
  · intro h
    split at h
    · cases h
    · next w hw =>
      obtain ⟨runs, h⟩ := Bool.and_eq_true_iff.1 h
      split at h
      · next ps q hu hq =>
        obtain ⟨credit, room⟩ := Bool.and_eq_true_iff.1 h
        exact ⟨w, q, ps, hw, (runs_iff _).1 runs, hu, hq, of_decide_eq_true credit, room⟩
      · cases h
  · rintro ⟨w, q, ps, hw, runs, hu, hq, credit, room⟩
    rw [hw]
    dsimp only
    rw [hu, hq]
    exact Bool.and_eq_true_iff.2 ⟨(runs_iff _).2 runs, Bool.and_eq_true_iff.2 ⟨decide_eq_true credit, room⟩⟩

/-! ## The arbiter's choice (R127) -/

theorem reloadCredits_work (s : State) (r : RingId) :
    (reloadCredits s).rings.work[r] = s.rings.work[r].map WorkRing.reloaded := getElem_map_fin _ _ _

theorem eligible_reloadCredits (s : State) (r : RingId) : eligible (reloadCredits s) r = eligible s r := by
  unfold eligible
  rw [reloadCredits_work]
  cases s.rings.work[r] <;> rfl

/-- Every ring stands in the order in which the arbiter looks at the rings. -/
theorem exists_place (last r : RingId) : ∃ i : Fin 15, r = last + 1 + i :=
  ⟨r - (last + 1), (add_sub_cancel _ _).symm⟩

theorem firstWithCredit_eq_none : firstWithCredit s = none ↔
    ∀ r, eligible s r = true → hasArbiterCredit s r = false := by
  unfold firstWithCredit arbiterOrder
  rw [List.find?_eq_none]
  constructor
  · intro h r he
    obtain ⟨i, rfl⟩ := exists_place s.rings.lastServed r
    have skipped := h _ (List.mem_map_of_mem (List.mem_finRange i))
    rwa [he, Bool.true_and, Bool.not_eq_true] at skipped
  · intro h r _ both
    obtain ⟨he, hc⟩ := Bool.and_eq_true_iff.1 both
    rw [h r he] at hc
    cases hc

theorem firstWithCredit_eq_some (h : firstWithCredit s = some r) : eligible s r = true ∧ hasArbiterCredit s r = true ∧
    ∃ i : Fin 15, r = s.rings.lastServed + 1 + i ∧ ∀ j : Fin 15, j < i →
      ¬(eligible s (s.rings.lastServed + 1 + j) = true ∧ hasArbiterCredit s (s.rings.lastServed + 1 + j) = true) := by
  unfold firstWithCredit arbiterOrder at h
  obtain ⟨both, i, hi, here, before⟩ := List.find?_eq_some_iff_getElem.1 h
  obtain ⟨he, hc⟩ := Bool.and_eq_true_iff.1 both
  have hi' : i < 15 := by simpa using hi
  refine ⟨he, hc, ⟨i, hi'⟩, ?_, fun j hj => ?_⟩
  · simpa using here.symm
  · have skipped := before j hj
    rw [List.getElem_map, List.getElem_finRange] at skipped
    have skipped : (!(eligible s (s.rings.lastServed + 1 + j) && hasArbiterCredit s (s.rings.lastServed + 1 + j))) =
        true := skipped
    exact fun both => by rw [Bool.and_eq_true_iff.2 both] at skipped; cases skipped

/-- The credits are reloaded only where no eligible ring has credit. -/
theorem arbitrate_eq_some (h : arbitrate s = some (r, s1)) : firstWithCredit s1 = some r ∧
    (s1 = s ∨ (s1 = reloadCredits s ∧ firstWithCredit s = none)) := by
  unfold arbitrate at h
  split at h
  · next found => cases h; exact ⟨found, .inl rfl⟩
  · next none =>
    split at h
    · obtain ⟨_, found, e⟩ := Option.map_eq_some_iff.1 h
      cases e
      exact ⟨found, .inr ⟨rfl, none⟩⟩
    · cases h

theorem arbitrate_eq_none (h : arbitrate s = none) (he : eligible s r = true) :
    firstWithCredit (reloadCredits s) = none := by
  unfold arbitrate at h
  split at h
  · cases h
  · rw [if_pos (List.any_eq_true.2 ⟨r, List.mem_finRange r, he⟩)] at h
    exact Option.map_eq_none_iff.1 h

/-- Settles O25: the unit by the length that `unitLength` finds, eligibility condition by condition, and the choice as
the first ring with both in the arbiter's order, before or after the reload. -/
theorem arbiterChoosesInOrder : Obligations.ArbiterChoosesInOrder := by
  refine ⟨fun w ps h => unit_iff h, fun s r => ?_, fun s => ⟨fun r s1 h => ?_, fun h r he => ?_⟩⟩
  · rw [eligible_iff]
    simp only [unitMayGo_iff]
    rfl
  · obtain ⟨found, state⟩ := arbitrate_eq_some h
    obtain ⟨he, hc, first⟩ := firstWithCredit_eq_some found
    rcases state with rfl | ⟨rfl, none⟩
    · exact ⟨he, hc, first, .inl rfl⟩
    · exact ⟨eligible_reloadCredits s r ▸ he, hc, first, .inr ⟨rfl, firstWithCredit_eq_none.1 none⟩⟩
  · exact firstWithCredit_eq_none.1 (arbitrate_eq_none h he) r ((eligible_reloadCredits s r).trans he)

end Arbiter

end Sys2Proof.Machine

/-! # The take of a unit that is answered (R28, R128, R139) -/

namespace Sys2Proof.Machine

section TakesAnswered

variable {s s1 : State} {r : RingId} {w : WorkRing} {ps : List Placed} {p : Placed}

/-- The row of a unit's kind makes the take. -/
theorem exec_takeRow (k : UnitKind) (s : State) : exec (takeRow k) s = .next (takeUnit k s) := by
  match k with
  | .single (some .update) | .single (some .fetch) | .single (some .store) | .single (some .fence)
  | .single (some .nop) | .single none | .bundle => rfl

/-- The take of the arbiter's choice, as the row of its kind: what follows its judgement is carried out (R127, R128). -/
theorem takeUnit_chosen (ha : arbitrate s = some (r, s1)) (hw : s1.rings.work[r] = some w) (hu : w.unit = some ps) :
    takeUnit (unitKind ps) s = adminMessage s.link.next
      (settle (carryOut r (judge r s.regions w.inFlightLimit ps) (unitTaken r w ps.length s1))) := by
  have kept := arbitrate_workOnly ha
  have kind : nextKind s r = some (unitKind ps) := by
    have here : nextKind s1 r = some (unitKind ps) := by unfold nextKind; rw [hw]; dsimp only; rw [hu]; rfl
    rcases arbitrate_state ha with rfl | rfl
    · exact here
    · rw [← nextKind_reloadCredits]; exact here
  unfold takeUnit
  rw [ha]
  dsimp only
  rw [if_pos kind]
  unfold event takeFrom
  rw [hw]
  dsimp only
  rw [hu, kept.link, kept.regions]
  rfl

theorem exec_answered (ha : arbitrate s = some (r, s1)) (hw : s1.rings.work[r] = some w) (hu : w.unit = some ps)
    {posts : List Posting} {faults : List RaisedFault}
    (hj : judge r s.regions w.inFlightLimit ps = .answered posts faults) :
    exec (takeRow (unitKind ps)) s = .next (afterEvent s (postUnit r posts (unitTaken r w ps.length s1)) faults) := by
  rw [exec_takeRow, takeUnit_chosen ha hw hu, hj]
  rfl

/-- An unknown opcode is refused, and its fault names neither a region nor a record (R29, R30). -/
theorem judge_of_unknown {limit : Nat} {regions : Vector Region 16}
    (h : entryField p.entry 0x00 1 = 0 ∨ 5 < entryField p.entry 0x00 1) :
    judge r regions limit [p] = .answered [answer .malformed p]
      [{ cls := .entryMalformed, source := .workRing r, slotIndex := some p.slot,
         tag := some (WorkEntry.tag p.entry), image := some (imageHead p.entry), code := some 1 }] := by
  have nameless : WorkEntry.namesRecord p.entry ≠ true := mt namesRecord_iff.1 (by omega)
  rw [judgeSingle_of_rejected (checkEntry_of_unknown h)]
  unfold rejectionFault passedRecord
  rw [if_neg nameless, if_neg fun h => nameless h.1]
  rfl

/-- Settles O48: the take of the arbiter's choice carries its judgement out, and each of the three rows is the one of
its opcode byte. -/
theorem takesAnswered : Obligations.TakesAnswered := by
  intro s s1 r w ps ha hw hu
  refine ⟨fun posts faults hj => exec_answered ha hw hu hj, ?_⟩
  rintro p rfl
  have row : ∀ {k st faults}, UnitKind.single (WorkEntry.opcode p.entry) = k →
      judge r s.regions w.inFlightLimit [p] = .answered [answer st p] faults →
      exec (takeRow k) s = .next (afterEvent s (postUnit r [answer st p] (unitTaken r w 1 s1)) faults) :=
    fun kind hj => kind ▸ exec_answered ha hw hu hj
  refine ⟨fun fence => ?_, fun nop => ?_, fun unknown => ?_⟩
  · exact row (unitKind_single (op := .fence) p fence) (judgeSingle_of_nameless (.inl fence))
  · exact row (unitKind_single (op := .nop) p nop) (judgeSingle_of_nameless (.inr nop))
  · exact row (congrArg UnitKind.single (opcode_eq_none.2 unknown)) (judge_of_unknown unknown)

end TakesAnswered

end Sys2Proof.Machine

/-! # The commits of a FETCH and of a STORE (R70) -/

namespace Sys2Proof.Machine

section FetchAndStoreCommits

variable {s : State} {c : CtxId} {x : Context} {m : Member} {record : Nat} {k : SlotId} {y : Slot}

/-! ## The slot that a context holds for a record -/

theorem heldSlot_spec (h : heldSlot s x record = some (k, y)) : s.cache.slots[k] = some y ∧ y.record = record := by
  obtain ⟨i, hi, hk⟩ := Option.bind_eq_some_iff.1 h
  obtain ⟨k', -, hy⟩ := Option.bind_eq_some_iff.1 hk
  obtain ⟨y', slot, hr⟩ := Option.bind_eq_some_iff.1 hy
  split at hr
  · next same =>
    cases hr
    exact ⟨slot, same.trans (beq_iff_eq.1 (List.find?_some (p := fun i : RecordItem => i.record == record) hi))⟩
  · cases hr

theorem content_eq_some {content : Resident} : y.content = some content ↔ y.phase = .resident content := by
  unfold Slot.content
  split
  · next h => rw [h]; simp
  · next h => simpa using h content

theorem evaluateMember_spec {v : Evaluated} (h : evaluateMember s x m = some v) :
    (∃ k y content, heldSlot s x m.source = some (k, y) ∧ s.cache.slots[k] = some y ∧ y.record = m.source ∧
      y.phase = .resident content ∧ v.pre = content.image.lanes) ∧
    v = { member := m, region := s.regions[WorkEntry.region m.entry], pre := v.pre,
          verdict := entryVerdict s.regions[WorkEntry.region m.entry] m.entry v.pre } := by
  obtain ⟨pre, hp, rfl⟩ := Option.map_eq_some_iff.1 h
  obtain ⟨⟨k, y⟩, hk, hc⟩ := Option.bind_eq_some_iff.1 hp
  obtain ⟨content, resident, rfl⟩ := Option.map_eq_some_iff.1 hc
  obtain ⟨slot, named⟩ := heldSlot_spec hk
  exact ⟨⟨k, y, content, hk, slot, named, content_eq_some.1 resident, rfl⟩, rfl⟩

theorem evaluateMembers_single (h : x.members = [m]) {v : Evaluated} (hv : evaluateMember s x m = some v) :
    evaluateMembers s x = some [v] := by
  unfold evaluateMembers
  rw [h, List.mapM_cons, hv]
  rfl

/-! ## Commits of a single member -/

theorem context_single_iff (h : x.members = [m]) (op : Opcode) :
    x.single op = true ↔ WorkEntry.opcode m.entry = some op := by
  unfold Context.single
  rw [h]
  exact beq_iff_eq

/-- A commit of its kind, taken from READY with sound images, has its effect (R69). -/
theorem commitOn_sound {kind : Context → Bool} (effect : CtxId → Context → State → State) (hc : s.contexts[c] = some x)
    (hp : x.phase = .ready) (hk : kind x = true) (hs : unsoundSlot s x = none) :
    commitOn kind effect c s = adminMessage s.link.next (effect c x s) := by
  unfold commitOn event
  rw [hc]
  dsimp only
  rw [if_pos ⟨hp, hk⟩, hs]

/-- What follows step 7 for a single member: its results are handed over, or its host write is issued (R72, R73). -/
theorem finishCommit_single (c : CtxId) (x : Context) (m : Member) (s : State) : finishCommit c x [m] s =
    settle (if m.image = none then endContext c (leaveQueues c (s.setContext c (some (x.committed [m]))))
      else issueImages c 0 [m] (leaveQueues c (s.setContext c (some (x.committed [m]))))) := by
  have writes : (x.committed [m]).hostWrites = 0 ↔ m.image = none := by
    unfold Context.committed
    cases h : m.image <;> simp [h]
  unfold finishCommit
  simp only [writes]

/-! ## FETCH -/

theorem decided_of_fetch {v : Evaluated} (h : WorkEntry.opcode v.member.entry = some .fetch) :
    v.decided = { v.member with
      outcome := some { MemberOutcome.untested .success with
        verdict := v.verdict, versionWord := versionWordOf v.region v.pre }
      image := if v.verdict = .pass then some v.pre else none } := by
  have noArm : v.arm = none := by unfold Evaluated.arm; rw [h]; rfl
  unfold Evaluated.decided Evaluated.outcome Evaluated.copy
  rw [noArm, h]
  rfl

/-! ## STORE -/

/-- The slot of a STORE takes its data, and no other slot changes (R70, R97). -/
theorem storeImage_awaiting (data : Record) (h : heldSlot s x record = some (k, y)) (hy : y.phase = .awaitingStore) :
    storeImage x record data s = mostRecent k (s.setSlot k (some { y with
      phase := .resident
        (Resident.mk { lanes := data, parity := recordParity data } allLanes (some s.now) false) })) := by
  unfold storeImage
  rw [h]
  dsimp only
  rw [hy]
  rfl

theorem storeImage_resident (data : Record) {content : Resident} (h : heldSlot s x record = some (k, y))
    (hy : y.phase = .resident content) :
    storeImage x record data s = s.setSlot k (some { y with
      phase := .resident (Resident.mk { lanes := data, parity := recordParity data } (content.dirty ||| allLanes)
        (if content.dirty = 0 then some s.now else content.dirtySince) content.writeBack) }) := by
  have written : content.dirty = 0 ∧ allLanes ≠ 0 ↔ content.dirty = 0 := and_iff_left (by decide)
  unfold storeImage writeImage
  rw [h]
  dsimp only
  rw [hy]
  unfold Resident.addDirty
  simp only [written]
  rfl

/-- No slot changes but the one that the context holds for the record. -/
theorem storeImage_other (data : Record) (h : heldSlot s x record = some (k, y)) {j : SlotId} (hj : j ≠ k) :
    (storeImage x record data s).cache.slots[j] = s.cache.slots[j] := by
  cases hy : y.phase with
  | awaitingStore => rw [storeImage_awaiting data h hy]; exact (getElem_set_fin _ _ _ _).trans (if_neg hj)
  | resident content => rw [storeImage_resident data h hy]; exact (getElem_set_fin _ _ _ _).trans (if_neg hj)
  | filling =>
    unfold storeImage writeImage
    rw [h]
    dsimp only
    rw [hy]

/-- A STORE's image goes into the cache and nowhere else. -/
theorem storeImage_cache (x : Context) (record : Nat) (data : Record) (s : State) :
    ∃ cache, storeImage x record data s = s.setCache cache := by
  unfold storeImage writeImage
  split
  · exact ⟨s.cache, rfl⟩
  · split
    · exact ⟨_, rfl⟩
    · split
      · exact ⟨s.cache, rfl⟩
      · split <;> exact ⟨_, rfl⟩

/-- A FETCH is evaluated and its image copied; no slot is written (R22, R70). -/
theorem exec_fetchCommit (hc : s.contexts[c] = some x) (hp : x.phase = .ready) (hs : unsoundSlot s x = none)
    (hm : x.members = [m]) (op : WorkEntry.opcode m.entry = some .fetch) {v : Evaluated}
    (hv : evaluateMember s x m = some v) :
    exec (.fetchCommit c) s = .next (adminMessage s.link.next (finishCommit c x [v.decided] s)) := by
  show Host.Outcome.next (commitOn (Context.single .fetch) commitFetch c s) = _
  rw [commitOn_sound commitFetch hc hp ((context_single_iff hm .fetch).2 op) hs]
  unfold commitFetch
  rw [evaluateMembers_single hm hv]
  rfl

/-- A STORE writes its whole record, which leaves the poison list (R23, R70, R112). -/
theorem exec_storeCommit (hc : s.contexts[c] = some x) (hp : x.phase = .ready) (hs : unsoundSlot s x = none)
    (hm : x.members = [m]) (op : WorkEntry.opcode m.entry = some .store) {data : Record}
    (hd : x.storeData = some data) :
    exec (.storeCommit c) s = .next (adminMessage s.link.next
      (finishCommit c x [m.storedAs s.regions[WorkEntry.region m.entry] data]
        ((storeImage x m.source data s).setStore (s.store.removePoison m.source)))) := by
  show Host.Outcome.next (commitOn (Context.single .store) commitStore c s) = _
  rw [commitOn_sound commitStore hc hp ((context_single_iff hm .store).2 op) hs]
  unfold commitStore
  rw [hm, hd]
  dsimp only
  rw [storeImage_store]

/-- Settles O54: the event of each commit is its own effect, then step 7; the slot that the context holds is the only
one that a STORE's image changes. -/
theorem fetchesAndStoresCommit : Obligations.FetchesAndStoresCommit := by
  intro s c x m hc hp hs hm
  refine ⟨fun v op hv => ?_, fun data op hd => ?_⟩
  · obtain ⟨held, evaluated⟩ := evaluateMember_spec hv
    have member : v.member = m := congrArg Evaluated.member evaluated
    have region : v.region = s.regions[WorkEntry.region m.entry] := congrArg Evaluated.region evaluated
    have verdict : v.verdict = fetchVerdict v.region m.entry v.pre := by
      rw [region]
      exact (congrArg Evaluated.verdict evaluated).trans (if_pos op)
    have decided := decided_of_fetch (v := v) (by rw [member]; exact op)
    rw [member] at decided
    refine ⟨held, region, fun pass => ?_, fun fail => ?_, v.decided, ?_, ?_, ?_, fun pass => ?_, fun fail => ?_⟩
    · rw [verdict, fetchVerdict, if_pos pass]
    · rw [verdict, fetchVerdict, if_neg (by rw [fail]; exact Bool.false_ne_true)]
    · rw [exec_fetchCommit hc hp hs hm op hv, finishCommit_single]
      rfl
    · rw [decided]
    · rw [decided]
    · rw [decided]; exact if_pos pass
    · rw [decided]; exact if_neg fail
  · obtain ⟨cache, image⟩ := storeImage_cache x m.source data s
    refine ⟨m.storedAs s.regions[WorkEntry.region m.entry] data,
      (storeImage x m.source data s).setStore (s.store.removePoison m.source), ?_, rfl,
      rfl, by rw [image]; rfl, fun k y hk => ⟨fun j hj => ?_, fun awaiting => ?_, fun content resident => ?_⟩⟩
    · rw [exec_storeCommit hc hp hs hm op hd, finishCommit_single]
      rfl
    · exact storeImage_other data hk hj
    · rw [storeImage_awaiting data hk awaiting]
      exact ⟨rfl, (getElem_set_fin _ _ _ _).trans (if_pos rfl)⟩
    · rw [storeImage_resident data hk resident]
      exact ⟨rfl, (getElem_set_fin _ _ _ _).trans (if_pos rfl)⟩

end FetchAndStoreCommits

end Sys2Proof.Machine

/-! # The tests, the verdict and the lane operations (R37 to R50) -/

namespace Sys2Proof.Machine

section Tests

variable {rg : Region} {e : Entry} {pre : Record}

/-! ## The match test (R38, R39) -/

@[simp] theorem keyMatches_absent (operand : Lane) (pre : Record) : keyMatches none operand pre = true := rfl

@[simp] theorem keyMatches_present (k : LaneId) (operand : Lane) (pre : Record) :
    keyMatches (some k) operand pre = (pre[k] == operand) := rfl

theorem matchTest_of_always (h : WorkEntry.matchFunction e = some .always) : matchTest rg e pre = true := by
  unfold matchTest
  rw [h]

theorem matchTest_of_never (h : WorkEntry.matchFunction e = some .never) : matchTest rg e pre = false := by
  unfold matchTest
  rw [h]

theorem matchTest_of_equal (h : WorkEntry.matchFunction e = some .equal) : matchTest rg e pre =
    (keyMatches rg.keyA (WorkEntry.keyOperandA e) pre && keyMatches rg.keyB (WorkEntry.keyOperandB e) pre) := by
  unfold matchTest
  rw [h]

/-- NOT_EQUAL passes where EQUAL would not (R39). -/
theorem matchTest_of_notEqual (h : WorkEntry.matchFunction e = some .notEqual) : matchTest rg e pre =
    !(keyMatches rg.keyA (WorkEntry.keyOperandA e) pre && keyMatches rg.keyB (WorkEntry.keyOperandB e) pre) := by
  unfold matchTest
  rw [h]

/-- Settles O17: each arrangement of key lanes leaves the operands of the present ones in the test. -/
theorem matchOutcomes : Obligations.MatchOutcomes := by
  intro rg e pre
  refine ⟨fun equal => ?_, fun notEqual => ?_, matchTest_of_always, matchTest_of_never⟩
  · rw [matchTest_of_equal equal]
    refine ⟨fun ha hb => ?_, fun a ha hb => ?_, fun a b ha hb => ?_⟩ <;> simp [ha, hb]
  · rw [matchTest_of_notEqual notEqual]
    refine ⟨fun ha hb => ?_, fun a ha hb => ?_, fun a b ha hb => ?_⟩ <;> simp [ha, hb]

/-! ## The magnitude test (R40, R41) -/

theorem magnitudeTest_of_function {f : MagnitudeFunction} (h : WorkEntry.magnitudeFunction e = some f) :
    magnitudeTest e pre = f.passes (pre[WorkEntry.magnitudeLane e] &&& WorkEntry.magnitudeMask e)
      (WorkEntry.magnitudeOperand e &&& WorkEntry.magnitudeMask e) := by
  unfold magnitudeTest
  rw [h]

theorem updateVerdict_pass (hm : matchTest rg e pre = true) (hg : magnitudeTest e pre = true) :
    updateVerdict rg e pre = .pass := by
  rw [updateVerdict, if_pos hm, if_pos hg]

theorem updateVerdict_magnitudeFail (hm : matchTest rg e pre = true) (hg : magnitudeTest e pre = false) :
    updateVerdict rg e pre = .magnitudeFail := by
  rw [updateVerdict, if_pos hm, if_neg (Bool.eq_false_iff.1 hg)]

theorem updateVerdict_matchFail (hm : matchTest rg e pre = false) : updateVerdict rg e pre = .matchFail := by
  rw [updateVerdict, if_neg (Bool.eq_false_iff.1 hm)]

/-- Settles O18: each function compares the two masked sides as numbers. -/
theorem magnitudeCompares : Obligations.MagnitudeCompares := by
  refine ⟨fun rg e pre f h => ⟨?_, updateVerdict_pass, updateVerdict_magnitudeFail, updateVerdict_matchFail⟩,
    fun f lane x y mask same => congrArg (f.passes _) same⟩
  rw [magnitudeTest_of_function h]
  cases f with
  | always => exact iff_of_true rfl trivial
  | never => exact iff_of_false Bool.false_ne_true id
  | eq => exact beq_iff_eq.trans BitVec.toNat_inj.symm
  | ne => exact bne_iff_ne.trans BitVec.toNat_inj.symm.not
  | lt | le | gt | ge => exact decide_eq_true_iff

/-! ## The arm that the verdict chooses (R43, R50, R56) -/

variable {v : Evaluated}

theorem Evaluated.arm_of_update (h : WorkEntry.opcode v.member.entry = some .update) :
    v.arm = chosenArm v.member.entry v.verdict := if_pos h

theorem Evaluated.outcome_of_arm {arm : ArmChoice} (h : v.arm = some arm) :
    v.outcome = MemberOutcome.applied v.region v.member.entry v.verdict arm v.pre := by
  unfold Evaluated.outcome
  rw [h]

theorem Evaluated.outcome_of_noArm (h : v.arm = none) :
    v.outcome = MemberOutcome.unwritten v.region v.verdict v.pre := by
  unfold Evaluated.outcome
  rw [h]

theorem armFloor_iff (e : Entry) (arm : ArmChoice) (pre : Record) :
    armFloor e arm pre = true ↔ ∃ i : LaneId, (armResult e arm pre i).floor = true := by
  simp [armFloor]

theorem armCeiling_iff (e : Entry) (arm : ArmChoice) (pre : Record) :
    armCeiling e arm pre = true ↔ ∃ i : LaneId, (armResult e arm pre i).ceiling = true := by
  simp [armCeiling]

/-- Settles O19: by the arm that the verdict chooses; the outcome has the same status and verdict with an arm and
without one. -/
theorem verdictChoosesArm : Obligations.VerdictChoosesArm := by
  intro v update
  have chosen := v.arm_of_update update
  have shared : v.outcome.status = .success ∧ v.outcome.verdict = v.verdict ∧ v.outcome.withheld = false ∧
      v.outcome.imageReturned = false := by
    cases h : v.arm with
    | none => rw [v.outcome_of_noArm h]; exact ⟨rfl, rfl, rfl, rfl⟩
    | some arm => rw [v.outcome_of_arm h]; exact ⟨rfl, rfl, rfl, rfl⟩
  refine ⟨fun pass => ?_, fun fail els => ?_, fun fail noElse => ?_, fun fail => ?_, fun none => ?_, fun arm h => ?_,
    shared⟩
  · rw [chosen, pass]; rfl
  · rw [chosen, fail]; exact if_pos els
  · rw [chosen, fail]; exact if_neg (Bool.eq_false_iff.1 noElse)
  · rw [chosen, fail]; rfl
  · rw [v.outcome_of_noArm none]
    exact ⟨rfl, rfl, rfl, rfl, rfl, rfl⟩
  · rw [v.outcome_of_arm h]
    exact ⟨rfl, beq_iff_eq, armFloor_iff _ _ _, armCeiling_iff _ _ _, rfl⟩

end Tests

section LaneUnit

/-! ## The operations that set no flag (R45, R46, R49) -/

theorem fin_ofNat_toNat {j : LaneId} {a : Lane} (h : a.toNat = j.val) : (Fin.ofNat 8 a.toNat : LaneId) = j :=
  Fin.ext (by rw [Fin.val_ofNat, h, Nat.mod_eq_of_lt j.isLt])

/-- Settles O20: eight of the operations by definition, the other four as numbers or bit by bit. -/
theorem laneOperations : Obligations.LaneOperations := by
  refine ⟨fun pre i a b => ⟨rfl, rfl, rfl, rfl, rfl, rfl, ⟨_, rfl, fun n hn => ?_⟩, ⟨_, rfl, fun n hn => ?_⟩,
    ⟨_, rfl, BitVec.toNat_add _ _⟩, ⟨_, rfl, ?_⟩, ⟨_, rfl, ?_⟩, fun j hj => ?_⟩, fun rg e arm i direct still => ?_⟩
  · simp [hn]
  · simp [hn]
  · split
    · next le => exact (Nat.min_eq_left le).symm
    · next gt => exact (Nat.min_eq_right (Nat.le_of_not_le gt)).symm
  · split
    · next le => exact (Nat.max_eq_right le).symm
    · next gt => exact (Nat.max_eq_left (Nat.le_of_not_le gt)).symm
  · exact congrArg (fun k : LaneId => LaneResult.plain pre[k]) (fin_ofNat_toNat hj)
  · rw [armWritten_lane rg e arm i direct, or_iff_left still]

/-! ## ADD_SAT and SUB_FLOOR (R47, R48) -/

variable {old a b : Lane}

theorem addSat_within (h : old.toNat + a.toNat ≤ b.toNat) : addSat old a b = .plain (old + a) := if_pos h

theorem addSat_held (past : b.toNat < old.toNat + a.toNat) (h : old.toNat ≤ b.toNat) :
    addSat old a b = { value := b, floor := false, ceiling := true } :=
  (if_neg (Nat.not_le.2 past)).trans (if_pos h)

/-- A lane above its ceiling keeps its value. -/
theorem addSat_above (h : b.toNat < old.toNat) :
    addSat old a b = { value := old, floor := false, ceiling := a != 0 } :=
  (if_neg (Nat.not_le.2 (Nat.lt_add_right _ h))).trans (if_neg (Nat.not_le.2 h))

theorem subFloor_within (h : b.toNat + a.toNat ≤ old.toNat) : subFloor old a b = .plain (old - a) :=
  if_pos (by omega)

theorem subFloor_held (under : old.toNat < b.toNat + a.toNat) (h : b.toNat ≤ old.toNat) :
    subFloor old a b = { value := b, floor := true, ceiling := false } :=
  (if_neg (by omega)).trans (if_pos h)

/-- A lane below its floor keeps its value. -/
theorem subFloor_below (h : old.toNat < b.toNat) :
    subFloor old a b = { value := old, floor := a != 0, ceiling := false } :=
  (if_neg (by omega)).trans (if_neg (Nat.not_le.2 h))

theorem toNat_add_within (h : old.toNat + a.toNat ≤ b.toNat) : (old + a).toNat = old.toNat + a.toNat := by
  bv_omega

theorem toNat_sub_within (h : b.toNat + a.toNat ≤ old.toNat) : (old - a).toNat = old.toNat - a.toNat := by
  bv_omega

theorem bne_zero_iff_toNat : (a != 0) = true ↔ a.toNat ≠ 0 := by
  rw [bne_iff_ne, ne_eq, ← BitVec.toNat_inj]
  rfl

/-- CEILING says that the result is not the sum, and ADD_SAT never sets FLOOR (R47). -/
theorem addSat_flags (old a b : Lane) : ((addSat old a b).ceiling = true ↔
    (addSat old a b).value.toNat ≠ old.toNat + a.toNat) ∧ (addSat old a b).floor = false := by
  rcases Nat.lt_or_ge b.toNat (old.toNat + a.toNat) with past | within
  · rcases Nat.lt_or_ge b.toNat old.toNat with above | below
    · rw [addSat_above above]
      exact ⟨bne_zero_iff_toNat.trans (by dsimp only; omega), rfl⟩
    · rw [addSat_held past below]
      exact ⟨iff_of_true rfl past.ne, rfl⟩
  · rw [addSat_within within]
    exact ⟨iff_of_false Bool.false_ne_true (not_not.2 (toNat_add_within within)), rfl⟩

/-- FLOOR says that the result is not the difference, and SUB_FLOOR never sets CEILING (R48). -/
theorem subFloor_flags (old a b : Lane) : ((subFloor old a b).floor = true ↔
    ((subFloor old a b).value.toNat : Int) ≠ (old.toNat : Int) - (a.toNat : Int)) ∧
    (subFloor old a b).ceiling = false := by
  rcases Nat.lt_or_ge old.toNat (b.toNat + a.toNat) with under | within
  · rcases Nat.lt_or_ge old.toNat b.toNat with below | above
    · rw [subFloor_below below]
      exact ⟨bne_zero_iff_toNat.trans (by dsimp only; omega), rfl⟩
    · rw [subFloor_held under above]
      exact ⟨iff_of_true rfl (by dsimp only; omega), rfl⟩
  · rw [subFloor_within within]
    refine ⟨iff_of_false Bool.false_ne_true (not_not.2 ?_), rfl⟩
    have value := toNat_sub_within within
    dsimp only [LaneResult.plain]
    omega

/-- Settles O21: the three cases of each operation, and what its flag says. -/
theorem saturatingOperations : Obligations.SaturatingOperations := by
  intro pre i a b
  obtain ⟨ceiling, noFloor⟩ := addSat_flags pre[i] a b
  obtain ⟨floor, noCeiling⟩ := subFloor_flags pre[i] a b
  refine ⟨fun within => ?_, fun past below => ?_, fun _ above => ?_, ceiling, noFloor,
    fun within => ?_, fun under above => ?_, fun _ below => ?_, floor, noCeiling⟩
  · exact (congrArg (·.value.toNat) (addSat_within within)).trans (toNat_add_within within)
  · exact congrArg (·.value) (addSat_held past below)
  · exact congrArg (·.value) (addSat_above above)
  · exact (congrArg (·.value.toNat) (subFloor_within within)).trans (toNat_sub_within within)
  · exact congrArg (·.value) (subFloor_held under above)
  · exact congrArg (·.value) (subFloor_below below)

end LaneUnit

end Sys2Proof.Machine

/-! # The commits of UPDATEs and of bundles (R69, R71) -/

namespace Sys2Proof.Machine

section UpdateAndBundleCommits

variable {s : State} {c : CtxId} {x : Context} {vs : List Evaluated} {v : Evaluated}

/-! ## Evaluation -/

/-- The held slot is the one that an item of the record list refers to (R58). -/
theorem heldSlot_item {record : Nat} {k : SlotId} {y : Slot} (h : heldSlot s x record = some (k, y)) :
    ∃ i ∈ x.records, i.record = record ∧ i.slot = some k := by
  obtain ⟨i, found, item⟩ := Option.bind_eq_some_iff.1 h
  obtain ⟨k', slot, held⟩ := Option.bind_eq_some_iff.1 item
  obtain ⟨y', -, named⟩ := Option.bind_eq_some_iff.1 held
  have same : k' = k := by
    split at named
    · exact congrArg Prod.fst (Option.some.inj named)
    · cases named
  exact ⟨i, List.mem_of_find?_eq_some found,
    beq_iff_eq.1 (List.find?_some (p := fun i : RecordItem => i.record == record) found), same ▸ slot⟩

/-- Every member is evaluated, in member order, and nothing else is. -/
theorem mapM_evaluateMember {ms : List Member} (h : ms.mapM (evaluateMember s x) = some vs) :
    vs.map Evaluated.member = ms ∧ ∀ v ∈ vs, evaluateMember s x v.member = some v := by
  induction ms generalizing vs with
  | nil =>
    cases h
    exact ⟨rfl, fun _ hv => absurd hv List.not_mem_nil⟩
  | cons m ms ih =>
    rw [List.mapM_cons] at h
    obtain ⟨v, hv, h⟩ := Option.bind_eq_some_iff.1 h
    obtain ⟨rest, hrest, h⟩ := Option.bind_eq_some_iff.1 h
    cases h
    obtain ⟨members, evaluated⟩ := ih hrest
    have member : v.member = m := congrArg Evaluated.member (evaluateMember_spec hv).2
    exact ⟨congrArg₂ List.cons member members, List.forall_mem_cons.2 ⟨member.symm ▸ hv, evaluated⟩⟩

/-! ## Arms (R52, R53, R69, R85) -/

theorem applyMember_of_arm {u : State} {arm : ArmChoice} {k : SlotId} {y : Slot} {content : Resident}
    (ha : v.arm = some arm) (h : heldSlot u x v.member.written = some (k, y)) (hy : y.phase = .resident content) :
    applyMember x u v = u.setSlot k (some { y with phase := .resident { content with
      image := { lanes := v.image arm, parity := recordParity (v.image arm) }
      dirty := content.dirty ||| armWritten v.region v.member.entry arm
      dirtySince := if content.dirty = 0 ∧ armWritten v.region v.member.entry arm ≠ 0 then some u.now
        else content.dirtySince } }) := by
  unfold applyMember writeImage
  rw [ha]
  dsimp only
  rw [h]
  dsimp only
  rw [hy]
  rfl

theorem applyMember_of_noArm {u : State} (h : v.arm = none) : applyMember x u v = u := by
  unfold applyMember
  rw [h]

theorem Member.written_eq (m : Member) : m.written = match m.destination with
    | some n => n
    | none => m.source := by
  unfold Member.written
  cases m.destination <;> rfl

/-! ## What a member is left with (R50, R55, R71) -/

theorem Evaluated.decided_of_update (h : WorkEntry.opcode v.member.entry = some .update) :
    v.decided = { v.member with
      outcome := some v.outcome
      image := if WorkEntry.returnImage v.member.entry then some (v.arm.elim v.pre v.image) else none } := by
  unfold Evaluated.decided Evaluated.copy
  rw [h]
  cases v.arm <;> rfl

theorem versionWordOf_eq_elim (rg : Region) (image : Record) :
    versionWordOf rg image = rg.versionLane.elim 0 (image[·]) := by
  unfold versionWordOf
  cases rg.versionLane <;> rfl

theorem Evaluated.withheld_eq (v : Evaluated) : v.withheld = { v.member with
    outcome := some
      { status := .success, verdict := v.verdict, committed := false, elseApplied := false, floor := false,
        ceiling := false, withheld := true, imageReturned := false,
        versionWord := v.region.versionLane.elim 0 (v.pre[·]), written := 0 }
    image := if WorkEntry.returnImage v.member.entry then some v.pre else none } := by
  rw [← versionWordOf_eq_elim]
  rfl

/-! ## Probes (R167 to R169) -/

theorem Member.writtenIndex_eq (m : Member) : m.writtenIndex =
    if m.destination = none then entryField m.entry 0x08 4 else entryField m.entry 0x0C 4 := by
  unfold Member.writtenIndex
  cases m.destination <;> rfl

theorem Evaluated.hits_iff (v : Evaluated) (rg : RegionId) (first last : Nat) : v.hits rg first last = true ↔
    v.arm = some .pass ∧ WorkEntry.region v.member.entry = rg ∧
      first ≤ (if v.member.destination = none then entryField v.member.entry 0x08 4
        else entryField v.member.entry 0x0C 4) ∧
      (if v.member.destination = none then entryField v.member.entry 0x08 4
        else entryField v.member.entry 0x0C 4) ≤ last := by
  rw [← v.member.writtenIndex_eq]
  simp [Evaluated.hits, and_assoc]

/-- What a probe becomes when it examines a commit (R168). -/
def Probe.examined (r : RingId) (vs : List Evaluated) (q : Probe) : Probe :=
  match q with
  | .armed rg first last =>
    match vs.find? fun v => v.hits rg first last with
    | some v => .hit rg first last (captureOf r v)
    | none => q
  | _ => q

variable {r : RingId}

theorem Probe.examined_of_noHit {rg : RegionId} {first last : Nat} (h : ∀ v ∈ vs, ¬v.hits rg first last = true) :
    (Probe.armed rg first last).examined r vs = .armed rg first last := by
  unfold Probe.examined
  dsimp only
  rw [List.find?_eq_none.2 h]

theorem Probe.examined_of_firstHit {rg : RegionId} {first last : Nat} {before rest : List Evaluated}
    (h : v.hits rg first last = true) (earlier : ∀ w ∈ before, ¬w.hits rg first last = true) :
    (Probe.armed rg first last).examined r (before ++ v :: rest) = .hit rg first last (captureOf r v) := by
  have found : (before ++ v :: rest).find? (fun v => v.hits rg first last) = some v := by
    rw [List.find?_append, List.find?_eq_none.2 earlier, Option.none_or]
    exact List.find?_cons_of_pos h
  unfold Probe.examined
  dsimp only
  rw [found]

theorem Probe.examined_of_notArmed {q : Probe} (h : ∀ rg first last, q ≠ .armed rg first last) :
    q.examined r vs = q := by
  cases q with
  | armed rg first last => exact absurd rfl (h rg first last)
  | _ => rfl

/-- A probe that examines a commit without a hit leaves the state alone. -/
theorem examineProbe_unchanged {p : ProbeId} (h : (s.probes[p]).examined r vs = s.probes[p]) :
    examineProbe r vs s p = s := by
  unfold examineProbe
  unfold Probe.examined at h
  split
  · next armed =>
    rw [armed] at h
    split
    · next hit => simp only [hit] at h; cases h
    · rfl
  · rfl

/-- A probe that hits takes its new value and raises its notice. -/
theorem examineProbe_changed {p : ProbeId} (h : (s.probes[p]).examined r vs ≠ s.probes[p]) :
    examineProbe r vs s p = raiseNotice (.probeHit p) (s.setProbe p ((s.probes[p]).examined r vs)) := by
  unfold examineProbe
  unfold Probe.examined at h ⊢
  split
  · next armed =>
    rw [armed] at h
    split
    · next hit => simp only [armed, hit]
    · next noHit => exact absurd (by simp only [noHit]) h
  · next other => exact absurd (Probe.examined_of_notArmed (r := r) (vs := vs) other) h

theorem raiseNotice_probes (n : Notice) (s : State) : (raiseNotice n s).probes = s.probes :=
  congrArg Kept.probes (reaction_raiseNotice n s).kept

theorem postAdmin_setProbes (body : List Byte) (kind : Byte) (s : State) (q : Vector Probe 4) :
    (postAdmin body kind s).setProbes q = postAdmin body kind (s.setProbes q) := by
  unfold postAdmin
  rw [State.setProbes_admin]
  cases s.admin.rings <;> rfl

theorem raiseNotice_setProbes (n : Notice) (s : State) (q : Vector Probe 4) :
    (raiseNotice n s).setProbes q = raiseNotice n (s.setProbes q) := by
  unfold raiseNotice
  rw [apply_ite (State.setProbes · q), postAdmin_setProbes]
  rfl

theorem foldl_raiseNotice_probes (ps : List ProbeId) (s : State) :
    (ps.foldl (fun u p => raiseNotice (.probeHit p) u) s).probes = s.probes :=
  List.foldlRecOn (motive := fun u => u.probes = s.probes) ps _ rfl fun u hu _ _ => (raiseNotice_probes _ u).trans hu

/-- The probes of a list examine a commit one after another: each as it was before any of them, and those that change
raise their notices in the order of the list. -/
theorem foldl_examineProbe (vs : List Evaluated) {ps : List ProbeId} (distinct : ps.Nodup) (u : State) :
    ∃ q : Vector Probe 4,
      (∀ p, q[p] = if p ∈ ps then (u.probes[p]).examined r vs else u.probes[p]) ∧
      ps.foldl (examineProbe r vs) u =
        (ps.filter fun p => decide ((u.probes[p]).examined r vs ≠ u.probes[p])).foldl
          (fun v p => raiseNotice (.probeHit p) v) (u.setProbes q) := by
  induction ps generalizing u with
  | nil => exact ⟨u.probes, fun p => rfl, rfl⟩
  | cons p ps ih =>
    obtain ⟨notIn, distinct⟩ := List.nodup_cons.1 distinct
    by_cases same : (u.probes[p]).examined r vs = u.probes[p]
    · obtain ⟨q, hq, folded⟩ := ih distinct u
      refine ⟨q, fun j => ?_, ?_⟩
      · rw [hq]
        by_cases here : j = p
        · subst here
          rw [if_neg notIn, if_pos List.mem_cons_self, same]
        · simp only [List.mem_cons, here, false_or]
      · rw [List.foldl_cons, examineProbe_unchanged same, folded, List.filter_cons_of_neg (by simpa using same)]
    · have changed := examineProbe_changed same
      have probes : (examineProbe r vs u p).probes = u.probes.set p ((u.probes[p]).examined r vs) := by
        rw [changed, raiseNotice_probes, State.setProbe_probes]
      have others : ∀ j ∈ ps, (examineProbe r vs u p).probes[j] = u.probes[j] := fun j hj => by
        rw [probes, getElem_set_fin, if_neg (ne_of_mem_of_not_mem hj notIn)]
      obtain ⟨q, hq, folded⟩ := ih distinct (examineProbe r vs u p)
      refine ⟨q, fun j => ?_, ?_⟩
      · rw [hq]
        by_cases hj : j ∈ ps
        · rw [if_pos hj, if_pos (List.mem_cons_of_mem _ hj), others j hj]
        · rw [if_neg hj, probes, getElem_set_fin]
          by_cases here : j = p
          · subst here
            rw [if_pos rfl, if_pos List.mem_cons_self]
          · rw [if_neg here, if_neg (by simp [here, hj])]
      · rw [List.foldl_cons, folded, List.filter_cons_of_pos (by simpa using same), List.foldl_cons,
          List.filter_congr fun j hj => by rw [others j hj], changed, raiseNotice_setProbes]
        rfl

/-- The probes after a commit, and the notices in ascending probe number (R169). -/
theorem consultProbes_spec (r : RingId) (vs : List Evaluated) (u : State) :
    (∀ p : ProbeId, (consultProbes r vs u).probes[p] = (u.probes[p]).examined r vs) ∧
    consultProbes r vs u =
      ((List.finRange 4).filter fun p => decide ((consultProbes r vs u).probes[p] ≠ u.probes[p])).foldl
        (fun v p => raiseNotice (.probeHit p) v) (u.setProbes (consultProbes r vs u).probes) := by
  obtain ⟨q, hq, folded⟩ := foldl_examineProbe (r := r) vs (List.nodup_finRange 4) u
  change consultProbes r vs u = _ at folded
  have probes : (consultProbes r vs u).probes = q := by
    rw [folded, foldl_raiseNotice_probes, State.setProbes_probes]
  have examined : ∀ p : ProbeId, q[p] = (u.probes[p]).examined r vs := fun p => by
    rw [hq, if_pos (List.mem_finRange p)]
  rw [probes]
  refine ⟨examined, folded.trans ?_⟩
  simp only [examined]

/-! ## Image copies (R73) -/

theorem issueImages_mem (c : CtxId) (j : Nat) (ms : List Member) {u : State} {y : Transfer}
    (h : y ∈ u.link.transfers) : y ∈ (issueImages c j ms u).link.transfers := by
  induction ms generalizing j u with
  | nil => exact h
  | cons m ms ih =>
    refine ih (j + 1) ?_
    cases m.image with
    | none => exact h
    | some image => exact List.mem_append_left _ h

theorem issueWrite_mem (kind : TransferKind) (addr : HostAddr) (body : List Byte) (u : State) :
    ∃ y ∈ (issueWrite kind addr body u).link.transfers, y.kind = kind ∧ y.addr = addr ∧ y.body = body :=
  ⟨_, List.mem_append_right _ (List.mem_singleton_self _), rfl, rfl, rfl⟩

/-- Every image copy has its host write, which names its member. -/
theorem issueImages_issues (c : CtxId) (start : Nat) {ms : List Member} {j : Nat} {m : Member} {image : Record}
    (u : State) (hm : ms[j]? = some m) (hi : m.image = some image) :
    ∃ y ∈ (issueImages c start ms u).link.transfers, y.kind = .buffer c (start + j) ∧
      y.addr = WorkEntry.hostBuffer m.entry ∧ y.body = recordBytes image := by
  induction ms generalizing start j u with
  | nil => cases hm
  | cons m' ms ih =>
    rw [issueImages]
    cases j with
    | zero =>
      cases hm
      obtain ⟨y, hy, issued⟩ := issueWrite_mem (.buffer c start) (WorkEntry.hostBuffer m.entry) (recordBytes image) u
      exact ⟨y, issueImages_mem c (start + 1) ms (by rw [hi]; exact hy), issued⟩
    | succ j =>
      obtain ⟨y, hy, kind, rest⟩ := ih (start + 1) _ hm
      exact ⟨y, hy, kind.trans (by rw [Nat.add_right_comm, Nat.add_assoc]), rest⟩

/-! ## The commits -/

/-- What follows step 7: the results are handed over where no member has an image copy, and the host writes are issued
otherwise (R72, R73). -/
theorem finishCommit_eq (c : CtxId) (x : Context) (ms : List Member) (s : State) : finishCommit c x ms s =
    settle (if ∀ m ∈ ms, m.image = none then endContext c (leaveQueues c (s.setContext c (some (x.committed ms))))
      else issueImages c 0 ms (leaveQueues c (s.setContext c (some (x.committed ms))))) := by
  have writes : (x.committed ms).hostWrites = 0 ↔ ∀ m ∈ ms, m.image = none := by
    simp [Context.committed, List.countP_eq_zero]
  unfold finishCommit
  simp only [writes]

theorem exec_updateCommit {m : Member} (hc : s.contexts[c] = some x) (hp : x.phase = .ready)
    (hs : unsoundSlot s x = none) (hm : x.members = [m]) (op : WorkEntry.opcode m.entry = some .update)
    (hv : evaluateMembers s x = some vs) :
    exec (.updateCommit c) s = .next (adminMessage s.link.next (applyAll c x vs s)) := by
  show Host.Outcome.next (commitOn (Context.single .update) commitUpdate c s) = _
  rw [commitOn_sound commitUpdate hc hp ((context_single_iff hm .update).2 op) hs]
  unfold commitUpdate
  rw [hv]

/-- A bundle applies every pass arm, or none (R71). -/
theorem exec_bundleCommit (hc : s.contexts[c] = some x) (hp : x.phase = .ready) (hs : unsoundSlot s x = none)
    (hm : 2 ≤ x.members.length) (hv : evaluateMembers s x = some vs) :
    exec (.bundleCommit c) s = .next (adminMessage s.link.next
      (if ∀ v ∈ vs, v.verdict = .pass then applyAll c x vs s
        else finishCommit c x (vs.map Evaluated.withheld) s)) := by
  have passes : (vs.all fun v => v.verdict == .pass) = true ↔ ∀ v ∈ vs, v.verdict = .pass := by
    simp
  show Host.Outcome.next (commitOn Context.bundle commitBundle c s) = _
  rw [commitOn_sound commitBundle hc hp (decide_eq_true hm) hs]
  unfold commitBundle
  rw [hv]
  simp only [passes]

/-- Settles O53: evaluation, arms, probes, image copies and what follows step 7, each by its own rule. -/
theorem updatesAndBundlesCommit : Obligations.UpdatesAndBundlesCommit := by
  intro s c x vs hc hp hs hv
  obtain ⟨members, evaluated⟩ := mapM_evaluateMember hv
  refine ⟨⟨members, fun v hvs => ?_⟩, fun u v arm k y content ha held resident => ?_,
    fun u v => applyMember_of_noArm, fun v => v.member.written_eq,
    fun v op => ⟨v.decided_of_update op, v.withheld_eq⟩,
    fun u => ⟨fun p rg first last armed => ⟨fun noHit => ?_, fun before v rest split hit earlier => ?_⟩,
      fun p notArmed => ?_, (consultProbes_spec x.ring vs u).2⟩,
    fun u ms j m image hm hi => ?_, fun m hm op => ?_, fun bundle passes => ?_, fun bundle fails => ?_⟩
  · obtain ⟨⟨k, y, content, held, slot, named, resident, pre⟩, spec⟩ := evaluateMember_spec (evaluated v hvs)
    obtain ⟨i, hi, record, ref⟩ := heldSlot_item held
    have region : v.region = s.regions[WorkEntry.region v.member.entry] := congrArg Evaluated.region spec
    exact ⟨i, k, y, content, hi, record, ref, slot, held, named, resident, pre, region, fun op => by
      rw [region]
      exact (congrArg Evaluated.verdict spec).trans (if_neg op)⟩
  · exact ⟨_, applyMember_of_arm ha held resident, fun clean written => if_pos ⟨clean, written⟩,
      fun dirty => if_neg fun clean => dirty clean.1⟩
  · rw [(consultProbes_spec x.ring vs u).1, armed]
    exact Probe.examined_of_noHit fun v hv hits => noHit v hv ((v.hits_iff _ _ _).1 hits)
  · rw [(consultProbes_spec x.ring vs u).1, armed, split,
      Probe.examined_of_firstHit ((v.hits_iff _ _ _).2 hit) fun w hw hits => earlier w hw ((w.hits_iff _ _ _).1 hits)]
    unfold captureOf
    rw [v.member.writtenIndex_eq]
    rfl
  · rw [(consultProbes_spec x.ring vs u).1, Probe.examined_of_notArmed (notArmed · · ·)]
  · obtain ⟨y, hy, issued⟩ := issueImages_issues c 0 u hm hi
    rw [Nat.zero_add] at issued
    exact ⟨y, hy, issued⟩
  · rw [exec_updateCommit hc hp hs hm op hv, applyAll, finishCommit_eq]
    rfl
  · rw [exec_bundleCommit hc hp hs bundle hv, if_pos passes, applyAll, finishCommit_eq]
    rfl
  · rw [exec_bundleCommit hc hp hs bundle hv, if_neg (by simpa using fails), finishCommit_eq]
    rfl

end UpdateAndBundleCommits

end Sys2Proof.Machine

/-! # A FAILED device stays quiet (R80, R90, R135, R146, R176) -/

namespace Sys2Proof.Machine

section StaysQuiet

variable {s : State}

/-! ## Reports, events and commands -/

/-- A device that is not FAILED has nothing to be quiet about. -/
theorem quiet_of_operating (h : s.faults.failed = false) : FailedQuiet s := fun hf => by rw [h] at hf; cases hf

theorem quiet_ite {c : Prop} [Decidable c] {u v : State} (hu : FailedQuiet u) (hv : FailedQuiet v) :
    FailedQuiet (if c then u else v) := by
  split
  · exact hu
  · exact hv

theorem quiet_event {f : State → State} (h : FailedQuiet s → FailedQuiet (f s)) (q : FailedQuiet s) :
    FailedQuiet (event f s) := (reaction_adminMessage _ _).quiet (h q)

theorem quiet_onReport {α : Type} {kind : TransferKind → Option α} {handle : α → State → State}
    (h : ∀ a s, FailedQuiet s → FailedQuiet (handle a s)) (xfer : Nat) (q : FailedQuiet s) :
    FailedQuiet (onReport kind handle xfer s) := by
  have dropped : FailedQuiet (dropTransfer xfer s) := q
  unfold onReport
  split
  · exact q
  · split
    · exact q
    · split
      · exact h _ _ dropped
      · exact dropped

theorem quiet_onReadComplete {α : Type} {kind : TransferKind → Option α} {handle : α → State → State}
    (h : ∀ a s, FailedQuiet s → FailedQuiet (handle a s)) (xfer : Nat) (q : FailedQuiet s) :
    FailedQuiet (onReadComplete kind handle xfer s) := by
  unfold onReadComplete
  split
  · exact quiet_onReport h xfer q
  · exact q

theorem reaction_beginCommand (e : Entry) (s : State) : Reaction s (beginCommand e s) := by
  unfold beginCommand
  split
  · exact reaction_setAdminRings _
  · exact .refl s

theorem quiet_takeCommand {row : Nat → Bool} {run : Entry → State → State}
    (h : ∀ e s, FailedQuiet s → FailedQuiet (run e s)) (xfer : Nat) (e : Entry) (q : FailedQuiet s) :
    FailedQuiet (takeCommand row run xfer e s) := by
  unfold takeCommand
  split
  · exact quiet_event (quiet_onReadComplete (fun _ t ht =>
      (reaction_settle _).quiet (h e _ ((reaction_beginCommand e t).quiet ht))) xfer) q
  · exact q

/-- A command that FAILED refuses, carried out while the device is not FAILED. -/
theorem quiet_whileOperating {run : State → State}
    (h : ∀ s, s.faults.failed = false → FailedQuiet s → FailedQuiet (run s)) (value : BitVec 32) (q : FailedQuiet s) :
    FailedQuiet (whileOperating value run s) := by
  unfold whileOperating
  split
  · exact (reaction_completeCommand _ _ s).quiet q
  · next operating => exact h s (Bool.eq_false_iff.2 operating) q

/-- A fault raised as the whole of an event. -/
theorem reaction_raiseSettled (f : RaisedFault) (s : State) : Reaction s (settle (raiseFault f s)) :=
  (reaction_raiseFault f s).trans (reaction_settle _)

/-! ## Resets and registers -/

theorem quiet_functionReset (s : State) : FailedQuiet (functionReset s) := by
  have dropped := dropped_dropAtReset (s.setResetPhase .functionReset)
  have start : FailedQuiet (dropAtReset (s.setResetPhase .functionReset)) := fun _ =>
    ⟨dropped.contexts, dropped.requests, fun r => by rw [dropped.workRings r]; rfl,
      fun r => by rw [dropped.resultRings r]; rfl⟩
  exact ((reaction_releaseSlotsWith reaction_raiseFault _ _).trans (reaction_drainingCheck _)).quiet start

theorem quiet_requestReset (q : FailedQuiet s) : FailedQuiet (requestReset s) := by
  unfold requestReset
  split
  · exact quiet_functionReset s
  · exact q

theorem quiet_registerWrite {f : State → State} (h : FailedQuiet s → FailedQuiet (f s)) (q : FailedQuiet s) :
    FailedQuiet (registerWrite f s) := by
  unfold registerWrite
  split
  · exact quiet_event h q
  · exact q

theorem quiet_openAdmin (q : FailedQuiet s) : FailedQuiet (openAdmin s) := by
  have opened : FailedQuiet (((s.setAdminPhase .opened).setAdminRings (some (openedRings s.regs))).setStatus 0 .idle) := q
  unfold openAdmin
  split
  · exact ((reaction_postPending _).trans (reaction_considerAdminRead _)).quiet opened
  · exact q

theorem quiet_writeDevControl (enable msgEn : Bool) (q : FailedQuiet s) : FailedQuiet (writeDevControl enable msgEn s) := by
  unfold writeDevControl
  dsimp only
  split
  · exact quiet_openAdmin (s := (s.setRegs { s.regs with adminMsgEn := msgEn }).setRegs _) q
  · exact q

theorem quiet_writeConfig (offset : Nat) (width : AccessWidth) (v : BitVec 64) (q : FailedQuiet s) :
    FailedQuiet (writeConfig offset width v s) := by
  unfold writeConfig
  split <;> exact q

theorem posted_frame (w : WorkRing) (p : Nat) :
    (w.posted p).phase = w.phase ∧ (w.posted p).inFlightLimit = w.inFlightLimit ∧
      (w.posted p).outstanding = w.outstanding := by
  unfold WorkRing.posted
  split <;> exact ⟨rfl, rfl, rfl⟩

theorem reaction_writePost (r : RingId) (v : BitVec 32) (s : State) : Reaction s (writePost r v s) := by
  unfold writePost
  split
  · exact .refl s
  · next w hw =>
    obtain ⟨phase, limit, outstanding⟩ := posted_frame w v.toNat
    split
    · exact .refl s
    · split
      · exact (reaction_setWorkSame r hw phase limit (by rw [outstanding])).trans (reaction_stallCheck _)
      · exact reaction_raiseSettled _ s

theorem notTiming_released (q : ResultRing) (v : Nat) (h : notTiming (some q) = true) :
    notTiming (some (q.released v)) = true := by
  unfold ResultRing.released
  cases hs : q.stall with
  | timing start => simp [notTiming, hs] at h
  | idle => simp [notTiming]
  | expired =>
    unfold notTiming
    dsimp only
    split
    · next e => split at e <;> cases e
    · rfl

theorem reaction_writeRelease (rr : RingId) (v : BitVec 32) (s : State) : Reaction s (writeRelease rr v s) := by
  unfold writeRelease
  split
  · exact .refl s
  · next q hq =>
    split
    · exact (reaction_setResult rr fun _ h => notTiming_released q _ (hq ▸ h)).trans (reaction_stallCheck _)
    · exact reaction_raiseSettled _ s

theorem reaction_writeAdminPost (v : BitVec 32) (s : State) : Reaction s (writeAdminPost v s) := by
  unfold writeAdminPost
  split
  · exact .refl s
  · split
    · exact (reaction_setAdminRings _).trans (reaction_considerAdminRead _)
    · exact reaction_raiseSettled _ s

theorem reaction_writeAdminRelease (v : BitVec 32) (s : State) : Reaction s (writeAdminRelease v s) := by
  unfold writeAdminRelease
  split
  · exact .refl s
  · split
    · exact ((reaction_setAdminRings _).trans (reaction_postPending _)).trans (reaction_considerAdminRead _)
    · exact reaction_raiseSettled _ s

/-! ## Fetches and takes -/

theorem reaction_issueFetch (r : RingId) (s : State) : Reaction s (issueFetch r s) := by
  unfold issueFetch
  split
  · exact .refl s
  · next w hw =>
    split
    · exact (reaction_issueRead _ _ _ s).trans (reaction_setWorkSame r (w := w) hw rfl rfl le_rfl)
    · exact .refl s

theorem reaction_completeFetch (entries : List Entry) (r : RingId) (s : State) :
    Reaction s (completeFetch entries r s) := by
  unfold completeFetch
  split
  · exact .refl s
  · next w hw =>
    split
    · exact .refl s
    · refine Reaction.trans ?_ ((reaction_issueFetch r _).trans (reaction_settle _))
      split <;> exact reaction_setWorkSame r hw rfl rfl le_rfl

theorem reaction_drainToDiscard (r : RingId) (s : State) : Reaction s (drainToDiscard r s) := by
  unfold drainToDiscard
  split
  · exact .refl s
  · next w hw =>
    split
    · next drains =>
      exact reaction_setWork r (fun _ h => by rw [hw] at h; simp [notDeleting, drains] at h)
        fun h => by rw [hw] at h; exact h
    · exact .refl s

theorem reaction_failFetch (r : RingId) (s : State) : Reaction s (failFetch r s) := by
  unfold failFetch
  split
  · exact .refl s
  · next w hw =>
    have ended : Reaction s (s.setWork r (some w.endFetch)) := reaction_setWorkSame r hw rfl rfl le_rfl
    split
    · exact .refl s
    · split
      · exact (ended.trans (reaction_issueFetch r _)).trans (reaction_settle _)
      · split
        · exact ended.trans (reaction_settle _)
        · exact (((reaction_setWorkSame r (w' := { w.endFetch with fetchHeld := true }) hw rfl rfl le_rfl).trans
            (reaction_raiseFault _ _)).trans (reaction_drainToDiscard r _)).trans (reaction_settle _)

theorem handToContext_faults (r : RingId) (ms : List Member) (s : State) : (handToContext r ms s).faults = s.faults := by
  unfold handToContext
  split
  · exact (beginStoreRead_linkOnly _ ms _).faults
  · rfl

theorem unitTaken_faults (r : RingId) (w : WorkRing) (n : Nat) (s : State) : (unitTaken r w n s).faults = s.faults := by
  unfold unitTaken reserve
  split <;> rfl

/-- A take is made while the device is not FAILED (R126), and only what it raises can change that. -/
theorem quiet_takeFrom (r : RingId) (h : s.faults.failed = false) : FailedQuiet (takeFrom r s) := by
  unfold takeFrom
  split
  · exact quiet_of_operating h
  · next w hw =>
    split
    · exact quiet_of_operating h
    · next ps hu =>
      have operating : (unitTaken r w ps.length s).faults.failed = false := by rw [unitTaken_faults]; exact h
      refine (reaction_settle _).quiet ?_
      unfold carryOut
      split
      · exact ((reaction_postUnit _ _ _).trans (reaction_raiseFaults _ _)).quiet (quiet_of_operating operating)
      · exact quiet_of_operating (by rw [handToContext_faults]; exact operating)

theorem quiet_takeUnit (k : UnitKind) (q : FailedQuiet s) : FailedQuiet (takeUnit k s) := by
  unfold takeUnit
  split
  · next r s1 h =>
    have operating := ((eligible_iff s1 r).1 (eligible_of_arbitrate h)).1
    split
    · exact quiet_event (fun _ => quiet_takeFrom r operating) (quiet_of_operating operating)
    · exact q
  · exact q

/-! ## Contexts -/

theorem reaction_grantHead (s : State) : Reaction s (grantHead s) := by
  unfold grantHead
  split
  · exact .refl s
  · split
    · exact .refl s
    · split
      · exact ((reaction_grant _ s).trans (reaction_settle _)).trans (reaction_adminMessage _ _)
      · exact .refl s

theorem reaction_acceptStoreData (data : Vector Byte 32) (c : CtxId) (s : State) :
    Reaction s (acceptStoreData data c s) := by
  unfold acceptStoreData
  split
  · exact .refl s
  · next hc => exact (reaction_setContextSome c _ hc).trans (reaction_settle _)

theorem quiet_freeSlot (k : SlotId) (q : FailedQuiet s) : FailedQuiet (freeSlot k s) := q

theorem reaction_failContexts (records : List Nat) (st : Status) (cs : List CtxId) (s : State) :
    Reaction s (cs.foldl (fun acc c => failContext records st c acc) s) :=
  .foldl (fun s c => reaction_failContext records st c s) cs s

theorem quiet_failStoreRead (c : CtxId) (q : FailedQuiet s) : FailedQuiet (failStoreRead c s) := by
  unfold failStoreRead
  split
  · exact q
  · next x hc =>
    have ended := (reaction_setContextSome c (some x.hostFaulted) hc).trans (reaction_endContext c _)
    refine (reaction_settle _).quiet ?_
    split
    · exact (ended.trans (reaction_raiseFaults _ _)).quiet q
    · exact (reaction_raiseFaults _ _).quiet
        (quiet_freeSlot _ ((ended.trans (reaction_failContexts _ _ _ _)).quiet q))

theorem reaction_endBuffer (finish : MemberOutcome → MemberOutcome) (c : CtxId) (j : Nat) (s : State) :
    Reaction s (endBuffer finish c j s) := by
  unfold endBuffer
  split
  · exact .refl s
  · next x hc =>
    have set := reaction_setContextSome c (some (x.endWrite j finish)) hc
    dsimp only
    split
    · exact set.trans (reaction_endContext c _)
    · exact set

theorem reaction_completeBuffer (cm : CtxId × Nat) (s : State) : Reaction s (completeBuffer cm s) :=
  (reaction_endBuffer _ _ _ s).trans (reaction_settle _)

theorem reaction_failBuffer (cm : CtxId × Nat) (s : State) : Reaction s (failBuffer cm s) :=
  ((reaction_endBuffer _ _ _ s).trans (reaction_raiseFaults _ _)).trans (reaction_settle _)

theorem reaction_statusWritten (e : Fin 16) (s : State) : Reaction s (settle (endStatusWrite e s)) :=
  (reaction_endStatusWrite e s).trans (reaction_settle _)

theorem reaction_statusFailed (e : Fin 16) (f : RaisedFault) (s : State) :
    Reaction s (settle (raiseFault f (endStatusWrite e s))) :=
  (reaction_endStatusWrite e s).trans (reaction_raiseSettled f _)

/-! ## Commits -/

/-- A context in use shows that a quiet device is not FAILED. -/
theorem FailedQuiet.operating {c : CtxId} {x : Context} (q : FailedQuiet s) (hc : s.contexts[c] = some x) :
    s.faults.failed = false := Bool.eq_false_iff.2 fun hf => by rw [(q hf).1 c] at hc; cases hc

theorem postAdmin_faults (body : List Byte) (kind : Byte) (s : State) : (postAdmin body kind s).faults = s.faults := by
  unfold postAdmin
  split <;> rfl

theorem raiseNotice_faults (n : Notice) (s : State) : (raiseNotice n s).faults = s.faults := by
  unfold raiseNotice
  split
  · exact postAdmin_faults _ _ s
  · rfl

theorem consultProbes_faults (r : RingId) (vs : List Evaluated) (s : State) :
    (consultProbes r vs s).faults = s.faults := by
  rw [(consultProbes_spec r vs s).2]
  exact List.foldlRecOn (motive := fun t : State => t.faults = s.faults) _ _ rfl
    fun _ h _ _ => (raiseNotice_faults _ _).trans h

theorem applyMember_faults (x : Context) (s : State) (v : Evaluated) : (applyMember x s v).faults = s.faults := by
  unfold applyMember writeImage
  split
  · split
    · rfl
    · split <;> rfl
  · rfl

theorem applyMembers_faults (x : Context) (vs : List Evaluated) (s : State) :
    (vs.foldl (applyMember x) s).faults = s.faults :=
  List.foldlRecOn (motive := fun t : State => t.faults = s.faults) vs _ rfl fun _ h v _ => (applyMember_faults x _ v).trans h

theorem reaction_issueImages (c : CtxId) (j : Nat) (ms : List Member) (s : State) :
    Reaction s (issueImages c j ms s) := by
  induction ms generalizing j s with
  | nil => exact .refl s
  | cons m rest ih =>
    refine Reaction.trans ?_ (ih (j + 1) _)
    split
    · exact reaction_issueWrite _ _ _ s
    · exact .refl s

theorem quiet_finishCommit (c : CtxId) (x : Context) (ms : List Member) (h : s.faults.failed = false) :
    FailedQuiet (finishCommit c x ms s) := by
  have left : FailedQuiet (leaveQueues c (s.setContext c (some (x.committed ms)))) := quiet_of_operating h
  unfold finishCommit
  dsimp only
  refine (reaction_settle _).quiet ?_
  split
  · exact (reaction_endContext c _).quiet left
  · exact (reaction_issueImages c 0 ms _).quiet left

theorem quiet_applyAll (c : CtxId) (x : Context) (vs : List Evaluated) (h : s.faults.failed = false) :
    FailedQuiet (applyAll c x vs s) :=
  quiet_finishCommit c x _ (by rw [consultProbes_faults, applyMembers_faults]; exact h)

theorem quiet_commitUpdate (c : CtxId) (x : Context) (s : State) (h : s.faults.failed = false) :
    FailedQuiet (commitUpdate c x s) := by
  unfold commitUpdate
  split
  · exact quiet_applyAll c x _ h
  · exact quiet_of_operating h

theorem quiet_commitFetch (c : CtxId) (x : Context) (s : State) (h : s.faults.failed = false) :
    FailedQuiet (commitFetch c x s) := by
  unfold commitFetch
  split
  · exact quiet_finishCommit c x _ h
  · exact quiet_of_operating h

theorem quiet_commitBundle (c : CtxId) (x : Context) (s : State) (h : s.faults.failed = false) :
    FailedQuiet (commitBundle c x s) := by
  unfold commitBundle
  split
  · split
    · exact quiet_applyAll c x _ h
    · exact quiet_finishCommit c x _ h
  · exact quiet_of_operating h

theorem quiet_commitStore (c : CtxId) (x : Context) (s : State) (h : s.faults.failed = false) :
    FailedQuiet (commitStore c x s) := by
  unfold commitStore
  split
  · next m data _ _ =>
    obtain ⟨cache, image⟩ := storeImage_cache x m.source data s
    exact quiet_finishCommit c x _ (by rw [image]; exact h)
  · exact quiet_of_operating h

theorem quiet_commitOn {kind : Context → Bool} {effect : CtxId → Context → State → State}
    (h : ∀ c x s, s.faults.failed = false → FailedQuiet (effect c x s)) (c : CtxId) (q : FailedQuiet s) :
    FailedQuiet (commitOn kind effect c s) := by
  unfold commitOn
  split
  · exact q
  · next x hc =>
    split
    · refine quiet_event (fun _ => ?_) q
      split
      · exact (reaction_raiseSettled _ s).quiet q
      · exact h c x s (q.operating hc)
    · exact q

/-! ## Expiries -/

theorem reaction_expireCoalescing (rr : RingId) (s : State) : Reaction s (expireCoalescing rr s) := by
  unfold expireCoalescing
  split
  · exact .refl s
  · next q hq =>
    split
    · exact reaction_causeMessage rr q s hq
    · exact .refl s

theorem reaction_expireStall (rr : RingId) (s : State) : Reaction s (expireStall rr s) := by
  unfold expireStall
  split
  · exact .refl s
  · split
    · exact (((reaction_setResult rr fun _ _ => rfl).trans (reaction_raiseFault _ _)).trans
        (reaction_raiseNotice _ _)).trans (reaction_settle _)
    · exact .refl s

/-! ## The ends of jobs -/

theorem quiet_withinStore {n : Nat} {u t : State} (q : FailedQuiet u) (h : withinStore s n u = .next t) :
    FailedQuiet t := (withinStore_next h).2 ▸ q

theorem quiet_completeFill (k : SlotId) (n : Nat) (errors : Vector WordErrors 4) (q : FailedQuiet s) :
    FailedQuiet (completeFill k n errors s) := by
  unfold completeFill
  dsimp only
  split
  · exact q
  · next y _ =>
    have resident : FailedQuiet (residentFill k y (fillLanes s.store n errors) (fillCorrected s.store n errors != 0)
        (s.setStore (s.store.endFill k n errors))) := by
      unfold residentFill
      split <;> exact q
    refine (reaction_settle _).quiet ?_
    split
    · exact resident
    · exact (reaction_raiseFault _ _).quiet resident

theorem quiet_failFill (k : SlotId) (n : Nat) (errors : Vector WordErrors 4) (q : FailedQuiet s) :
    FailedQuiet (failFill k n errors s) := by
  unfold failFill
  dsimp only
  split
  · exact q
  · exact (((reaction_failContexts _ _ _ _).trans (reaction_raiseFaults _ _)).trans (reaction_settle _)).quiet
      (quiet_freeSlot k (s := s.setStore _) q)

theorem quiet_afterWriteBack (k : SlotId) (y : Slot) (c : Resident) (q : FailedQuiet s) :
    FailedQuiet (afterWriteBack k y c s) := by
  have ended := (reaction_awaitedEnd k s).quiet q
  unfold afterWriteBack
  split
  · split
    · exact quiet_freeSlot k ended
    · exact ended
  · split
    · exact (reaction_startWriteBack k _).quiet ended
    · exact ended

theorem quiet_completeWriteBack (k : SlotId) (n : Nat) (lanes : Record) (set : LaneSet) (q : FailedQuiet s) :
    FailedQuiet (completeWriteBack k n lanes set s) := by
  unfold completeWriteBack
  dsimp only
  split
  · exact q
  · split
    · exact (reaction_settle _).quiet (quiet_afterWriteBack k _ _ (s := (s.setStore _).setSlot k _) q)
    · exact q

theorem quiet_completeRegionFill (first last : Nat) (pattern : Record) (next : Nat) (q : FailedQuiet s) :
    FailedQuiet (completeRegionFill first last pattern next s) := by
  unfold completeRegionFill finishDefine
  refine (reaction_settle _).quiet ?_
  split
  · exact (reaction_completeCommand _ _ _).quiet (s := (s.setStore _).setRegion _ _) q
  · exact q

/-! ## Admin commands -/

theorem quiet_haltAdmin (q : FailedQuiet s) : FailedQuiet (haltAdmin s) := by
  unfold haltAdmin
  split <;> exact q

theorem quiet_failAdminRead (a : Unit) (s : State) (q : FailedQuiet s) : FailedQuiet (failAdminRead a s) :=
  (((reaction_postPending _).trans (reaction_raiseFault _ _)).trans (reaction_settle _)).quiet (quiet_haltAdmin q)

theorem reaction_writeAdminBuffer (e : Entry) (body : List Byte) (value : BitVec 32) (s : State) :
    Reaction s (writeAdminBuffer e body value s) := (reaction_issueWrite _ _ _ s).trans (reaction_setProgress _ _)

theorem reaction_bufferWritten (value : BitVec 32) (s : State) :
    Reaction s (settle (completeCommand .done value s)) :=
  (reaction_completeCommand _ _ s).trans (reaction_settle _)

theorem reaction_bufferFailed (f : RaisedFault) (value : BitVec 32) (s : State) :
    Reaction s (settle (raiseFault f (completeCommand .hostFault value s))) :=
  (reaction_completeCommand _ _ s).trans (reaction_raiseSettled f _)

theorem reaction_refuse (st : AdminStatus) (s : State) : Reaction s (refuse st s) := reaction_completeCommand st 0 s

theorem reaction_done (s : State) : Reaction s (done s) := reaction_completeCommand .done 0 s

theorem reaction_createResult (e : Entry) (s : State) : Reaction s (createResult e s) := by
  unfold createResult
  split
  · exact reaction_refuse _ s
  · split
    · exact reaction_refuse _ s
    · split
      · exact reaction_refuse _ s
      · exact (reaction_setResult _ fun _ _ => rfl).trans (reaction_done _)

theorem reaction_createWork (e : Entry) (s : State) : Reaction s (createWork e s) := by
  unfold createWork
  split
  · split
    · exact reaction_refuse _ s
    · split
      · exact reaction_refuse _ s
      · split
        · exact reaction_refuse _ s
        · exact ((reaction_setWork _ (fun _ _ => rfl) fun _ => by simp [withinLimit, createdWork]).trans
            (reaction_setStatus _ _)).trans (reaction_done _)
  · exact reaction_refuse _ s

theorem quiet_deleteWork (e : Entry) (s : State) (h : s.faults.failed = false) : FailedQuiet (deleteWork e s) := by
  have refused : ∀ st, FailedQuiet (refuse st s) := fun st => (reaction_refuse st s).quiet (quiet_of_operating h)
  unfold deleteWork
  split
  · split
    · exact refused _
    · exact ((reaction_setProgress _ _).trans (reaction_deleteCheck _ _)).quiet (quiet_of_operating h)
  · exact refused _

theorem reaction_deleteResult (e : Entry) (s : State) : Reaction s (deleteResult e s) := by
  unfold deleteResult
  split
  · exact reaction_refuse _ s
  · split
    · exact reaction_refuse _ s
    · split
      · exact reaction_refuse _ s
      · exact (reaction_setResult _ fun _ _ => rfl).trans (reaction_done _)

theorem reaction_pauseRing (e : Entry) (s : State) : Reaction s (pauseRing e s) := by
  unfold pauseRing
  split
  · exact reaction_refuse _ s
  · split
    · exact reaction_refuse _ s
    · next hw =>
      split
      · exact reaction_refuse _ s
      · exact (reaction_setPhase _ hw (by simp)).trans (reaction_done _)
      all_goals exact reaction_done s

theorem reaction_resumeRing (e : Entry) (s : State) : Reaction s (resumeRing e s) := by
  unfold resumeRing
  split
  · exact reaction_refuse _ s
  · split
    · exact reaction_refuse _ s
    · next w hw =>
      have resumed : Reaction s (s.setWork _ (some { w with phase := .active, fetchHeld := false })) :=
        reaction_setWork _ (fun _ _ => rfl) fun h => by rw [hw] at h; exact h
      split
      · exact resumed.trans (reaction_done _)
      · exact resumed.trans (reaction_done _)
      all_goals exact reaction_done s

theorem quiet_defineRegion (e : Entry) (q : FailedQuiet s) : FailedQuiet (defineRegion e s) := by
  have refused : ∀ st, FailedQuiet (refuse st s) := fun st => (reaction_refuse st s).quiet q
  unfold defineRegion
  split
  · split
    · exact refused _
    · split
      · exact refused _
      · split
        · exact refused _
        · unfold defineAccepted
          split
          · exact (reaction_setProgress _ _).quiet (s := (s.setRegion _ _).setStore _) q
          · exact (reaction_done _).quiet (s := s.setRegion _ _) q
  · exact refused _

theorem quiet_retireRegion (e : Entry) (q : FailedQuiet s) : FailedQuiet (retireRegion e s) := by
  have refused : ∀ st, FailedQuiet (refuse st s) := fun st => (reaction_refuse st s).quiet q
  unfold retireRegion
  split
  · exact refused _
  · split
    · exact refused _
    · exact ((reaction_setProgress _ _).trans (reaction_retireCheck _)).quiet
        (s := (s.setRegion _ _).setProbes _) q

theorem reaction_beginFlush (scope : Option RegionId) (s : State) : Reaction s (beginFlush scope s) :=
  (reaction_setProgress _ s).trans (.foldl (fun s _ => reaction_startWriteBack _ s) _ _)

theorem reaction_flushRegion (e : Entry) (s : State) : Reaction s (flushRegion e s) := by
  have flushed := fun scope => (reaction_beginFlush scope s).trans (reaction_flushCheck _)
  unfold flushRegion
  split
  · exact reaction_refuse _ s
  · exact flushed _
  · split
    · exact reaction_refuse _ s
    · exact flushed _

theorem quiet_armProbe (e : Entry) (q : FailedQuiet s) : FailedQuiet (armProbe e s) := by
  have refused : ∀ st, FailedQuiet (refuse st s) := fun st => (reaction_refuse st s).quiet q
  unfold armProbe
  dsimp only
  split
  · split
    · exact refused _
    · split
      · exact refused _
      · exact (reaction_done _).quiet (s := s.setProbe _ _) q
  · exact refused _

theorem quiet_disarmProbe (e : Entry) (q : FailedQuiet s) : FailedQuiet (disarmProbe e s) := by
  unfold disarmProbe
  split
  · exact (reaction_refuse _ s).quiet q
  · next p _ =>
    have disarmed : FailedQuiet (s.setProbe p .disarmed) := q
    split
    · exact (reaction_finishCommand _ _ _).quiet disarmed
    all_goals exact (reaction_done _).quiet disarmed

theorem quiet_releaseLog (e : Entry) (q : FailedQuiet s) : FailedQuiet (releaseLog e s) := by
  unfold releaseLog
  split
  · exact (reaction_refuse _ s).quiet q
  · exact (reaction_completeCommand _ _ _).quiet (s := s.setFaults _) q

theorem quiet_setPolicy (e : Entry) (q : FailedQuiet s) : FailedQuiet (setPolicy e s) := by
  unfold setPolicy
  split
  · split
    · exact (reaction_completeCommand _ _ _).quiet q
    · exact (reaction_completeCommand _ _ _).quiet (s := s.setFaults _) q
  · exact (reaction_completeCommand _ _ _).quiet q

theorem reaction_cleanNow (s : State) : Reaction s (cleanNow s) :=
  .foldl (fun s k => by
    split
    · exact reaction_startWriteBack k s
    · exact .refl s) _ s

theorem quiet_setCleaner (e : Entry) (q : FailedQuiet s) : FailedQuiet (setCleaner e s) := by
  unfold setCleaner
  split
  · exact (reaction_completeCommand _ _ _).quiet q
  · exact ((reaction_cleanNow _).trans (reaction_completeCommand _ _ _)).quiet (s := s.setAgeLimit _) q

/-! ## Every command -/

/-- The answer of a command that always answers a next state. -/
theorem quiet_of_next {u t : State} (h : (Host.Outcome.next u : Result) = .next t) (q : FailedQuiet u) :
    FailedQuiet t := by
  cases h
  exact q

theorem quiet_fillComplete {k : SlotId} {errors : Vector WordErrors 4} {t : State} (q : FailedQuiet s)
    (h : execFillComplete k errors s = .next t) : FailedQuiet t := by
  unfold execFillComplete at h
  split at h
  · exact quiet_of_next h q
  · split at h
    · exact quiet_withinStore (quiet_event (quiet_completeFill k _ errors) q) h
    · exact quiet_of_next h q

theorem quiet_fillUncorrectable {k : SlotId} {errors : Vector WordErrors 4} {t : State} (q : FailedQuiet s)
    (h : execFillUncorrectable k errors s = .next t) : FailedQuiet t := by
  unfold execFillUncorrectable at h
  split at h
  · exact quiet_of_next h q
  · split at h
    · exact quiet_of_next h q
    · exact quiet_withinStore (quiet_event (quiet_failFill k _ errors) q) h

theorem quiet_writeBackComplete {k : SlotId} {t : State} (q : FailedQuiet s)
    (h : execWriteBackComplete k s = .next t) : FailedQuiet t := by
  unfold execWriteBackComplete at h
  split at h
  · exact quiet_of_next h q
  · exact quiet_withinStore (quiet_event (quiet_completeWriteBack k _ _ _) q) h

theorem quiet_regionFillComplete {t : State} (q : FailedQuiet s) (h : execRegionFillComplete s = .next t) :
    FailedQuiet t := by
  unfold execRegionFillComplete at h
  split at h
  · exact quiet_of_next h q
  · split at h
    · exact quiet_of_next h q
    · exact quiet_withinStore (quiet_event (quiet_completeRegionFill _ _ _ _) q) h

theorem quiet_regionFillStopped {current : Nat} {t : State} (q : FailedQuiet s)
    (h : execRegionFillStopped current s = .next t) : FailedQuiet t := by
  unfold execRegionFillStopped at h
  split at h
  · exact quiet_of_next h q
  · split at h
    · exact quiet_withinStore (u := stopRegionFill _ _ current s) q h
    · exact quiet_of_next h q

/-- Every command keeps a FAILED device quiet. -/
theorem quiet_exec (c : Instr) {t : State} (q : FailedQuiet s) (h : exec c s = .next t) : FailedQuiet t := by
  cases c with
  | powerOnReset sz1 sz0 => exact quiet_of_next h (u := powerOn sz1 sz0 s) (quiet_of_operating rfl)
  | powerOnReady => exact quiet_of_next h (quiet_ite (u := powerOnDone s) q q)
  | linkReset => exact quiet_of_next h (quiet_requestReset q)
  | reset enable msgEn =>  exact quiet_of_next h (quiet_ite (quiet_functionReset _) q)
  | resetEnd => exact quiet_of_next h (quiet_ite (u := resetDone s) (quiet_of_operating rfl) q)
  | enable msgEn => exact quiet_of_next h (quiet_registerWrite (quiet_writeDevControl true msgEn) q)
  | adminMsgEn msgEn => exact quiet_of_next h (quiet_registerWrite (quiet_writeDevControl false msgEn) q)
  | registerWrite offset width v => exact quiet_of_next h (quiet_registerWrite (quiet_writeConfig offset width v) q)
  | post r v => exact quiet_of_next h (quiet_registerWrite (reaction_writePost r v s).quiet q)
  | adminPost v => exact quiet_of_next h (quiet_registerWrite (reaction_writeAdminPost v s).quiet q)
  | release rr v => exact quiet_of_next h (quiet_registerWrite (reaction_writeRelease rr v s).quiet q)
  | adminRelease v => exact quiet_of_next h (quiet_registerWrite (reaction_writeAdminRelease v s).quiet q)
  | pendingNoticePost => exact quiet_of_next h (quiet_event (reaction_postPending s).quiet q)
  | fetchReadIssue r => exact quiet_of_next h ((reaction_issueFetch r s).quiet q)
  | fetchReadComplete xfer entries =>
    exact quiet_of_next h (quiet_ite (quiet_event (quiet_onReadComplete
      (fun r s => (reaction_completeFetch entries r s).quiet) xfer) q) q)
  | fetchReadFailure xfer =>
    exact quiet_of_next h (quiet_event (quiet_onReport (fun r s => (reaction_failFetch r s).quiet) xfer) q)
  | update => exact quiet_of_next h (quiet_takeUnit _ q)
  | fetch => exact quiet_of_next h (quiet_takeUnit _ q)
  | store => exact quiet_of_next h (quiet_takeUnit _ q)
  | fence => exact quiet_of_next h (quiet_takeUnit _ q)
  | nop => exact quiet_of_next h (quiet_takeUnit _ q)
  | bundle => exact quiet_of_next h (quiet_takeUnit _ q)
  | unknownOpcode => exact quiet_of_next h (quiet_takeUnit _ q)
  | slotGrant => exact quiet_of_next h ((reaction_grantHead s).quiet q)
  | storeReadComplete xfer data =>
    exact quiet_of_next h (quiet_event (quiet_onReadComplete
      (fun c s => (reaction_acceptStoreData data c s).quiet) xfer) q)
  | storeReadFailure xfer =>
    exact quiet_of_next h (quiet_event (quiet_onReport (fun c _ => quiet_failStoreRead c) xfer) q)
  | fillComplete k errors => exact quiet_fillComplete q h
  | fillUncorrectable k errors => exact quiet_fillUncorrectable q h
  | updateCommit c => exact quiet_of_next h (quiet_commitOn quiet_commitUpdate c q)
  | fetchCommit c => exact quiet_of_next h (quiet_commitOn quiet_commitFetch c q)
  | storeCommit c => exact quiet_of_next h (quiet_commitOn quiet_commitStore c q)
  | bundleCommit c => exact quiet_of_next h (quiet_commitOn quiet_commitBundle c q)
  | hostBufferWriteComplete xfer =>
    exact quiet_of_next h (quiet_event (quiet_onReport (fun cm s => (reaction_completeBuffer cm s).quiet) xfer) q)
  | hostBufferWriteFailure xfer =>
    exact quiet_of_next h (quiet_event (quiet_onReport (fun cm s => (reaction_failBuffer cm s).quiet) xfer) q)
  | resultWriteFailure xfer =>
    exact quiet_of_next h (quiet_event (quiet_onReport (fun _ s => (reaction_raiseSettled _ s).quiet) xfer) q)
  | statusWriteComplete xfer =>
    exact quiet_of_next h (quiet_event
      (quiet_onReport (fun (w : Fin 16 × Nat) s => (reaction_statusWritten w.1 s).quiet) xfer) q)
  | statusWriteFailure xfer =>
    exact quiet_of_next h (quiet_event (quiet_onReport
      (fun (w : Fin 16 × Nat) s => (reaction_statusFailed w.1 (statusWriteFault w.1 w.2) s).quiet) xfer) q)
  | coalescingExpiry rr => exact quiet_of_next h (quiet_event (reaction_expireCoalescing rr s).quiet q)
  | stallExpiry rr => exact quiet_of_next h (quiet_event (reaction_expireStall rr s).quiet q)
  | cleanerExpiry k =>
    exact quiet_of_next h (quiet_ite (quiet_event ((reaction_startWriteBack k s).trans (reaction_settle _)).quiet q) q)
  | writeBackComplete k => exact quiet_writeBackComplete q h
  | regionFillComplete => exact quiet_regionFillComplete q h
  | regionFillStopped current => exact quiet_regionFillStopped q h
  | adminReadIssue => exact quiet_of_next h (quiet_event (reaction_considerAdminRead s).quiet q)
  | adminReadFailure xfer => exact quiet_of_next h (quiet_event (quiet_onReport quiet_failAdminRead xfer) q)
  | invalidCommand xfer e =>
    exact quiet_of_next h (quiet_takeCommand (fun _ s => (reaction_refuse _ s).quiet) xfer e q)
  | identify xfer e =>
    exact quiet_of_next h (quiet_takeCommand (fun e s => (reaction_writeAdminBuffer e _ _ s).quiet) xfer e q)
  | createResultRing xfer e =>
    exact quiet_of_next h (quiet_takeCommand (fun e _ => quiet_whileOperating
      (fun s _ => (reaction_createResult e s).quiet) 0) xfer e q)
  | createWorkRing xfer e =>
    exact quiet_of_next h (quiet_takeCommand (fun e _ => quiet_whileOperating
      (fun s _ => (reaction_createWork e s).quiet) 0) xfer e q)
  | deleteWorkRing xfer e =>
    exact quiet_of_next h (quiet_takeCommand (fun e _ => quiet_whileOperating
      (fun s h _ => quiet_deleteWork e s h) 0) xfer e q)
  | deleteResultRing xfer e =>
    exact quiet_of_next h (quiet_takeCommand (fun e _ => quiet_whileOperating
      (fun s _ => (reaction_deleteResult e s).quiet) 0) xfer e q)
  | pauseRing xfer e =>
    exact quiet_of_next h (quiet_takeCommand (fun e _ => quiet_whileOperating
      (fun s _ => (reaction_pauseRing e s).quiet) 0) xfer e q)
  | resumeRing xfer e =>
    exact quiet_of_next h (quiet_takeCommand (fun e _ => quiet_whileOperating
      (fun s _ => (reaction_resumeRing e s).quiet) 0) xfer e q)
  | defineRegion xfer e =>
    exact quiet_of_next h (quiet_takeCommand (fun e _ => quiet_whileOperating
      (fun _ _ => quiet_defineRegion e) 0) xfer e q)
  | retireRegion xfer e =>
    exact quiet_of_next h (quiet_takeCommand (fun e _ => quiet_whileOperating
      (fun _ _ => quiet_retireRegion e) 0) xfer e q)
  | flushRegion xfer e =>
    exact quiet_of_next h (quiet_takeCommand (fun e _ => quiet_whileOperating
      (fun s _ => (reaction_flushRegion e s).quiet) 0) xfer e q)
  | armProbe xfer e =>
    exact quiet_of_next h (quiet_takeCommand (fun e _ => quiet_whileOperating
      (fun _ _ => quiet_armProbe e) 0) xfer e q)
  | disarmProbe xfer e =>
    exact quiet_of_next h (quiet_takeCommand (fun e _ => quiet_whileOperating
      (fun _ _ => quiet_disarmProbe e) 0) xfer e q)
  | readFaultLog xfer e =>
    exact quiet_of_next h (quiet_takeCommand (fun e s => (reaction_writeAdminBuffer e _ _ s).quiet) xfer e q)
  | releaseFaultLog xfer e =>
    exact quiet_of_next h (quiet_takeCommand (fun e _ => quiet_whileOperating
      (fun _ _ => quiet_releaseLog e) 0) xfer e q)
  | setFaultPolicy xfer e =>
    exact quiet_of_next h (quiet_takeCommand (fun e _ => quiet_whileOperating
      (fun _ _ => quiet_setPolicy e) _) xfer e q)
  | listPoison xfer e =>
    exact quiet_of_next h (quiet_takeCommand (fun e s => (reaction_writeAdminBuffer e _ _ s).quiet) xfer e q)
  | setCleaner xfer e =>
    exact quiet_of_next h (quiet_takeCommand (fun e _ => quiet_whileOperating
      (fun _ _ => quiet_setCleaner e) _) xfer e q)
  | adminBufferWriteComplete xfer =>
    exact quiet_of_next h (quiet_event
      (quiet_onReport (fun _ s => (reaction_bufferWritten (bufferValue s) s).quiet) xfer) q)
  | adminBufferWriteFailure xfer =>
    exact quiet_of_next h (quiet_event (quiet_onReport
      (fun _ s => (reaction_bufferFailed (adminBufferFault s) (bufferValue s) s).quiet) xfer) q)
  | adminResultWriteFailure xfer =>
    exact quiet_of_next h (quiet_event (quiet_onReport (fun _ s => (reaction_raiseSettled _ s).quiet) xfer) q)

/-- A microsecond touches neither contexts, requests, rings nor the fault unit. -/
theorem quiet_tick (q : FailedQuiet s) : FailedQuiet (tick s) := by
  have upset : ∀ u, FailedQuiet (applyUpset u s) := fun u => by cases u <;> exact q
  unfold tick advanceRegionFill
  dsimp only
  split
  · exact upset _
  · split <;> exact upset _

/-- Settles O6: what FAILED forbids begins only while the device is not FAILED, and the entry into FAILED ends it. -/
theorem stepKeepsFailedQuiet : Obligations.StepKeepsFailedQuiet := by
  intro s t q h
  rcases step_cases h with rfl | ⟨c, rest, _, hc⟩
  · exact quiet_tick q
  · exact quiet_exec c (s := { s with pending := rest }) q hc

end StaysQuiet

end Sys2Proof.Machine

/-! # The entry into FAILED (R78, R80, R135, R146, R176) -/

namespace Sys2Proof.Machine

section EntryIntoFailed

variable {s t : State}

/-! ## What the end of a command and the wait of a command leave alone -/

theorem setProgress_rings (p : Progress) (s : State) : (setProgress p s).rings = s.rings := by
  unfold setProgress
  split
  · split <;> rfl
  · rfl

theorem setProgress_faults (p : Progress) (s : State) : (setProgress p s).faults = s.faults := by
  unfold setProgress
  split
  · split <;> rfl
  · rfl

theorem unawait_rings (k : SlotId) (s : State) : (unawait k s).rings = s.rings := by
  unfold unawait
  split
  · exact setProgress_rings _ s
  · rfl

theorem unawait_faults (k : SlotId) (s : State) : (unawait k s).faults = s.faults := by
  unfold unawait
  split
  · exact setProgress_faults _ s
  · rfl

theorem passCommand_faults (s : State) : (passCommand s).faults = s.faults := by
  unfold passCommand
  split <;> rfl

theorem writeStatus_faults (e : Fin 16) (index : Nat) (s : State) : (writeStatus e index s).faults = s.faults := by
  unfold writeStatus
  split <;> rfl

theorem considerAdminRead_faults (s : State) : (considerAdminRead s).faults = s.faults := by
  unfold considerAdminRead
  split
  · rfl
  · split <;> rfl

theorem completeCommand_faults (st : AdminStatus) (value : BitVec 32) (s : State) :
    (completeCommand st value s).faults = s.faults := by
  unfold completeCommand
  split
  · rfl
  · unfold finishCommand
    rw [considerAdminRead_faults, writeStatus_faults, passCommand_faults, postAdmin_faults]

/-! ## The DELETING rings -/

theorem completeDelete_faults (r : RingId) (s : State) : (completeDelete r s).faults = s.faults := by
  unfold completeDelete
  split
  · split
    · exact completeCommand_faults _ _ s
    · rfl
  · rfl

theorem failDeleting_faults (s : State) (r : RingId) : (failDeleting s r).faults = s.faults := by
  unfold failDeleting
  split
  · rfl
  · split
    · rw [completeDelete_faults]
      split <;> rfl
    · rfl

/-- A ring that is not DELETING goes on (R135). -/
theorem failDeleting_keeps {n : RingId} {w : WorkRing} (h : s.rings.work[n] = some w)
    (hp : ∀ m, w.phase ≠ .deleting m) (r : RingId) : (failDeleting s r).rings.work[n] = some w := by
  unfold failDeleting
  split
  · exact h
  · next w' hw =>
    split
    · next m hm =>
      have other : n ≠ r := by
        rintro rfl
        rw [h] at hw
        cases hw
        exact hp m hm
      rw [completeDelete_work]
      split <;> simp only [State.setResult_work, unheed_rings, State.setWork_work, getElem_set_fin, if_neg other, h]
    · exact h

/-! ## The state in which no context is left -/

/-- Work rings and a capture as given, and slots that no context claims. -/
structure Unclaimed (work : Vector (Option WorkRing) 15) (capture : Option RaisedFault) (s : State) : Prop where
  work : s.rings.work = work
  capture : s.faults.capture = capture
  slots : ∀ (k : SlotId) (y : Slot), s.cache.slots[k] = some y → y.claims = [] ∧ y.phase ≠ .awaitingStore

variable {work : Vector (Option WorkRing) 15} {capture : Option RaisedFault}

theorem Unclaimed.of_eq (h : Unclaimed work capture s) (hr : t.rings.work = s.rings.work)
    (hf : t.faults.capture = s.faults.capture) (hc : t.cache.slots = s.cache.slots) : Unclaimed work capture t :=
  ⟨hr.trans h.work, hf.trans h.capture, fun k => by rw [hc]; exact h.slots k⟩

theorem Unclaimed.setProgress (h : Unclaimed work capture s) (p : Progress) :
    Unclaimed work capture (setProgress p s) :=
  h.of_eq (by rw [setProgress_rings]) (by rw [setProgress_faults]) (by rw [setProgress_cache])

theorem Unclaimed.completeCommand (h : Unclaimed work capture s) (st : AdminStatus) (value : BitVec 32) :
    Unclaimed work capture (completeCommand st value s) :=
  h.of_eq (completeCommand_work st value s) (by rw [completeCommand_faults]) (by rw [completeCommand_cache])

/-- The release of slots keeps them unclaimed, where a fault raised in FAILED only joins the seen-class set. -/
theorem unclaimed_releaseKeeps : ReleaseKeeps noteFault (Unclaimed work capture) where
  raised h _ _ _ _ _ := ⟨h.of_eq rfl rfl rfl, rfl, rfl⟩
  unawaited k h := h.of_eq (by rw [unawait_rings]) (by rw [unawait_faults]) (by rw [unawait_cache])
  freed k h := ⟨h.work, h.capture, fun j y hy => by
    rw [freeSlot_slots] at hy
    split at hy
    · cases hy
    · exact h.slots j y hy⟩
  issued h hy _ := ⟨h.work, h.capture, fun j z hz => by
    rw [issueWriteBack_slots] at hz
    split at hz
    · cases hz
      exact ⟨(h.slots _ _ hy).1, by simp⟩
    · exact h.slots j z hz⟩

theorem Unclaimed.retireFinish (h : Unclaimed work capture s) : Unclaimed work capture (retireFinish s) := by
  unfold Machine.retireFinish
  split
  · split
    · exact h
    · exact Unclaimed.completeCommand (s := s.setRegion _ _) (h.of_eq rfl rfl rfl) _ _
  · exact h

theorem Unclaimed.retireCheck (h : Unclaimed work capture s) : Unclaimed work capture (retireCheckWith noteFault s) := by
  unfold retireCheckWith
  split
  · split
    · exact h
    · exact (releaseSlotsWith_spec unclaimed_releaseKeeps _ (h.setProgress _)).1.retireFinish
  · exact h.retireFinish
  · exact h

/-! ## The entry -/

/-- Every DELETING ring is ended (R135); irreducible, so that no unification runs through its fifteen rings. -/
@[irreducible] def endDeletions (s : State) : State := (List.finRange 15).foldl failDeleting s

theorem endDeletions_faults (s : State) : (endDeletions s).faults = s.faults := by
  unfold endDeletions
  exact List.foldlRecOn (motive := fun t : State => t.faults = s.faults) _ failDeleting rfl
    fun t h r _ => (failDeleting_faults t r).trans h

theorem endDeletions_cache (s : State) : (endDeletions s).cache = s.cache := by
  unfold endDeletions
  exact (failDeleting_foldl_rest (List.finRange 15) s).2

theorem endDeletions_keeps {r : RingId} {w : WorkRing} (h : s.rings.work[r] = some w)
    (hp : ∀ m, w.phase ≠ .deleting m) : (endDeletions s).rings.work[r] = some w := by
  unfold endDeletions
  exact List.foldlRecOn (motive := fun t : State => t.rings.work[r] = some w) _ failDeleting h
    fun _ ht r' _ => failDeleting_keeps ht hp r'

/-- The state in which every context is abandoned and every DELETING ring and timed stall is ended, and a running
RETIRE_REGION has not gone on (R78, R135, R146). -/
def failedBlocks (s : State) : State :=
  stopTiming (endDeletions (abandonContexts (s.setFaults { s.faults with failed := true })))

theorem enterFailed_eq (s : State) : enterFailed s = retireCheckWith noteFault (failedBlocks s) := by
  unfold enterFailed failedBlocks endDeletions
  dsimp only

theorem failedBlocks_quiet (s : State) : FailedQuiet (failedBlocks s) := by
  unfold failedBlocks endDeletions
  exact quiet_of_ended (abandonContexts_contexts _) rfl

/-- The entry into FAILED is quiet whatever it finds. -/
theorem enterFailed_quiet (s : State) : FailedQuiet (enterFailed s) := by
  rw [enterFailed_eq]
  exact (reaction_retireCheckWith reaction_noteFault (failedBlocks s)).quiet (failedBlocks_quiet s)

theorem failedBlocks_faults (s : State) : (failedBlocks s).faults = { s.faults with failed := true } := by
  unfold failedBlocks
  exact endDeletions_faults _

theorem failedBlocks_keeps {r : RingId} {w : WorkRing} (h : s.rings.work[r] = some w)
    (hp : ∀ m, w.phase ≠ .deleting m) : (failedBlocks s).rings.work[r] = some w := by
  unfold failedBlocks
  exact endDeletions_keeps (s := abandonContexts _) h hp

theorem failedBlocks_slots (s : State) (k : SlotId) :
    (failedBlocks s).cache.slots[k] = s.cache.slots[k].bind Slot.abandoned := by
  have cache : (failedBlocks s).cache = (abandonContexts (s.setFaults { s.faults with failed := true })).cache := by
    unfold failedBlocks
    exact endDeletions_cache _
  rw [cache, abandonContexts_slots]
  rfl

theorem failedBlocks_unclaimed (s : State) :
    Unclaimed (failedBlocks s).rings.work s.faults.capture (failedBlocks s) where
  work := rfl
  capture := by rw [failedBlocks_faults]
  slots k y hy := by
    rw [failedBlocks_slots] at hy
    obtain ⟨x, -, hx⟩ := Option.bind_eq_some_iff.1 hy
    obtain ⟨hp, rfl⟩ := abandoned_eq_some.1 hx
    exact ⟨rfl, hp⟩

theorem enterFailed_failed (s : State) : (enterFailed s).faults.failed = true := by
  rw [enterFailed_eq]
  exact (reaction_retireCheckWith reaction_noteFault (failedBlocks s)).fails (by rw [failedBlocks_faults])

theorem enterFailed_unclaimed (s : State) :
    Unclaimed (failedBlocks s).rings.work s.faults.capture (enterFailed s) := by
  rw [enterFailed_eq]
  exact (failedBlocks_unclaimed s).retireCheck

theorem enterFailed_keeps {r : RingId} {w : WorkRing} (h : s.rings.work[r] = some w)
    (hp : ∀ m, w.phase ≠ .deleting m) : (enterFailed s).rings.work[r] = some w := by
  rw [(enterFailed_unclaimed s).work]
  exact failedBlocks_keeps h hp

theorem Reaction.probes (h : Reaction s t) : t.probes = s.probes := congrArg Kept.probes h.kept

theorem Reaction.policies (h : Reaction s t) : t.faults.policies = s.faults.policies := congrArg Kept.policies h.kept

/-- Settles O29: the blocks' own ends, and then a running RETIRE_REGION that goes on over slots that nothing claims. -/
theorem failedEntry : Obligations.FailedEntry := by
  intro s
  have reacted := reaction_enterFailed s
  have failed := enterFailed_failed s
  have unclaimed := enterFailed_unclaimed s
  obtain ⟨contexts, requests, deleting, timing⟩ := enterFailed_quiet s failed
  exact ⟨failed, contexts, requests, deleting, timing, fun _ _ => enterFailed_keeps, unclaimed.slots,
    reacted.records.dram, reacted.records.poison, reacted.probes, reacted.policies, unclaimed.capture⟩

end EntryIntoFailed

end Sys2Proof.Machine

/-! # A parity mismatch at a commit (R69, R113) -/

namespace Sys2Proof.Machine

section ParityAtCommit

variable {s : State} {c : CtxId} {x : Context} {y : Slot}

/-- A fault of a class that is fixed at DEVICE_FATAL leaves the device FAILED (R172, R176). -/
theorem raiseFault_of_fixed {f : RaisedFault} (h : f.cls.fixed = true) (s : State) :
    (raiseFault f s).faults.failed = true := by
  unfold raiseFault
  split
  · next failed => exact failed
  · have severity : (captureFault f (noteFault f s)).faults.severity f.cls = .deviceFatal := if_pos h
    unfold applySeverity
    rw [severity]
    dsimp only
    exact enterFailed_failed _

/-- An event that raises such a fault, as its only one, ends FAILED. -/
theorem afterEvent_of_fixed {f : RaisedFault} (h : f.cls.fixed = true) (s u : State) :
    (afterEvent s u [f]).faults.failed = true := by
  have reacted : Reaction (raiseFault f u) (afterEvent s u [f]) :=
    (reaction_settle _).trans (reaction_adminMessage _ _)
  exact reacted.fails (raiseFault_of_fixed h u)

/-- A commit of its kind on an unsound image raises the fault and has no other effect (R69). -/
theorem commitOn_unsound {kind : Context → Bool} (effect : CtxId → Context → State → State) (hc : s.contexts[c] = some x)
    (hp : x.phase = .ready) (hk : kind x = true) (hs : unsoundSlot s x = some y) :
    commitOn kind effect c s = afterEvent s s [commitParityFault x y] := by
  unfold commitOn event
  rw [hc]
  dsimp only
  rw [if_pos ⟨hp, hk⟩, hs]
  rfl

/-- Settles O55: each commit's own kind, and the one fault that each raises. -/
theorem parityPreventsCommit : Obligations.ParityPreventsCommit := by
  intro s c x y hc hp hs
  have records := records_afterEvent s s [commitParityFault x y]
  have failed := afterEvent_of_fixed (f := commitParityFault x y) rfl s s
  have prevented : ∀ {kind : Context → Bool} (effect : CtxId → Context → State → State), kind x = true →
      (Host.Outcome.next (commitOn kind effect c s) : Result) = .next (afterEvent s s [commitParityFault x y]) :=
    fun effect hk => congrArg _ (commitOn_unsound effect hc hp hk hs)
  exact ⟨afterEvent s s [commitParityFault x y], rfl, failed, records.dram, records.poison,
    fun m hm op => prevented commitUpdate ((context_single_iff hm .update).2 op),
    fun m hm op => prevented commitFetch ((context_single_iff hm .fetch).2 op),
    fun m hm op => prevented commitStore ((context_single_iff hm .store).2 op),
    fun bundle => prevented commitBundle (decide_eq_true bundle)⟩

end ParityAtCommit

end Sys2Proof.Machine

/-! # The ends of host buffer writes (R74, R75, R76) -/

namespace Sys2Proof.Machine

section HostBuffers

variable {s : State} {xfer : Nat} {c : CtxId} {j : Nat} {x : Context}

/-- The report of a transfer that its issuer waits for is handled (R182). -/
theorem onReport_of_awaits {α : Type} {kind : TransferKind → Option α} {k : TransferKind} {a : α}
    (handle : α → State → State) (h : awaits s xfer k = true) (hk : kind k = some a) :
    onReport kind handle xfer s = handle a (dropTransfer xfer s) := by
  unfold awaits at h
  unfold onReport
  cases ht : findTransfer xfer s with
  | none => rw [ht] at h; cases h
  | some y =>
    rw [ht] at h
    obtain ⟨same, heeded⟩ := Bool.and_eq_true_iff.1 h
    dsimp only
    rw [beq_iff_eq.1 same, hk]
    exact if_pos heeded

/-- A context one of whose host buffer writes has ended, where it waits for more of them, and what follows the last one
(R74, R75). -/
theorem endBuffer_eq (finish : MemberOutcome → MemberOutcome) (hc : s.contexts[c] = some x) :
    endBuffer finish c j s =
      if x.hostWrites ≤ 1 then endContext c (s.setContext c (some (x.endWrite j finish)))
      else s.setContext c (some (x.endWrite j finish)) := by
  have last : (x.endWrite j finish).hostWrites = 0 ↔ x.hostWrites ≤ 1 := Nat.sub_eq_zero_iff_le
  unfold endBuffer
  rw [hc]
  dsimp only
  simp only [last]

theorem bufferFaults_of_member {m : Member} (hc : s.contexts[c] = some x) (hm : x.members[j]? = some m) :
    bufferFaults s c j = [memberFault .hostBufferWrite x.ring m m.writtenRecord] := by
  unfold bufferFaults
  rw [hc]
  dsimp only
  rw [hm]
  rfl

/-- The record of the fault is the one that a committed member wrote, and the source of any other (R54). -/
theorem Member.writtenRecord_of_outcome {m : Member} {o : MemberOutcome} (h : m.outcome = some o) :
    m.writtenRecord = if o.committed = true then m.written else m.source := by
  unfold Member.writtenRecord
  rw [h]
  rfl

/-- Settles O56: both rows are the report of the awaited write, whose end leaves the context waiting or hands over. -/
theorem hostBufferWritesEnd : Obligations.HostBufferWritesEnd := by
  intro s xfer c j x awaited hc
  have held : (dropTransfer xfer s).contexts[c] = some x := hc
  refine ⟨?_, fun m hm => ⟨m.writtenRecord, ?_, fun o ho committed => ?_, fun o ho uncommitted => ?_⟩⟩
  · show Host.Outcome.next (adminMessage s.link.next (onReport _ completeBuffer xfer s)) = _
    rw [onReport_of_awaits completeBuffer awaited rfl]
    unfold completeBuffer
    rw [endBuffer_eq _ held]
    rfl
  · show Host.Outcome.next (adminMessage s.link.next (onReport _ failBuffer xfer s)) = _
    rw [onReport_of_awaits failBuffer awaited rfl]
    unfold failBuffer
    rw [bufferFaults_of_member held hm, endBuffer_eq _ held]
    rfl
  · rw [Member.writtenRecord_of_outcome ho, if_pos committed]
  · rw [Member.writtenRecord_of_outcome ho, if_neg (by rw [uncommitted]; exact Bool.false_ne_true)]

end HostBuffers

end Sys2Proof.Machine

/-! # The ends of STORE reads (R67, R68, R76) -/

namespace Sys2Proof.Machine

section StoreReads

variable {s : State} {xfer : Nat} {c : CtxId} {x : Context}

/-! ## The data (R187) -/

theorem leNat_four (a b d e : Byte) :
    leNat [a, b, d, e] = a.toNat + 256 * b.toNat + 65536 * d.toNat + 16777216 * e.toNat := by
  simp only [leNat]
  omega

/-- A lane of a record read from bytes is the number of its four bytes, the least significant first. -/
theorem recordAt_lane (bytes : List Byte) (off : Nat) (i : LaneId) :
    (recordAt bytes off)[i].toNat = (bytes.getD (off + 4 * i.val) 0).toNat +
      256 * (bytes.getD (off + 4 * i.val + 1) 0).toNat + 65536 * (bytes.getD (off + 4 * i.val + 2) 0).toNat +
      16777216 * (bytes.getD (off + 4 * i.val + 3) 0).toNat := by
  have lane : (recordAt bytes off)[i] = BitVec.ofNat 32 (leNat [bytes.getD (off + 4 * i.val) 0,
      bytes.getD (off + 4 * i.val + 1) 0, bytes.getD (off + 4 * i.val + 2) 0, bytes.getD (off + 4 * i.val + 3) 0]) :=
    getElem_ofFn_fin _ i
  rw [lane, leNat_four, BitVec.toNat_ofNat]
  refine Nat.mod_eq_of_lt ?_
  omega

/-- The completion of a host read that its issuer waits for and that has not run out is handled (R182). -/
theorem onReadComplete_of_awaits {α : Type} {kind : TransferKind → Option α} {k : TransferKind} {a : α}
    (handle : α → State → State) (h : readAwaits s xfer k = true) (hk : kind k = some a) :
    onReadComplete kind handle xfer s = handle a (dropTransfer xfer s) := by
  obtain ⟨awaited, inTime⟩ := Bool.and_eq_true_iff.1 h
  exact (if_pos inTime).trans (onReport_of_awaits handle awaited hk)

/-! ## The AWAITING_STORE slot that a context heads (R68) -/

/-- What a record item says of an AWAITING_STORE slot that a context heads: the slot, its record, and the contexts
behind. -/
def headedSlot (s : State) (c : CtxId) (i : RecordItem) : Option (SlotId × Nat × List CtxId) :=
  i.slot.bind fun k => (s.cache.slots[k]).bind fun y =>
    if y.phase = .awaitingStore ∧ y.claims.head? = some c then some (k, y.record, y.claims.tail) else none

theorem awaitingHeaded_eq (s : State) (c : CtxId) (x : Context) :
    awaitingHeaded s c x = x.records.findSome? (headedSlot s c) := by
  unfold awaitingHeaded
  refine congrArg (fun f => x.records.findSome? f) (funext fun i => ?_)
  unfold headedSlot
  cases i.slot with
  | none => rfl
  | some k =>
    dsimp only [Option.bind_some]
    cases s.cache.slots[k] <;> rfl

theorem headedSlot_eq_none {i : RecordItem} : headedSlot s c i = none ↔ ∀ k y, i.slot = some k →
    s.cache.slots[k] = some y → ¬(y.phase = .awaitingStore ∧ y.claims.head? = some c) := by
  unfold headedSlot
  simp only [Option.bind_eq_none_iff, ite_eq_right_iff, reduceCtorEq, imp_false]
  exact forall_congr' fun k => forall_comm

theorem headedSlot_eq_some {i : RecordItem} {k : SlotId} {record : Nat} {others : List CtxId}
    (h : headedSlot s c i = some (k, record, others)) :
    ∃ y, s.cache.slots[k] = some y ∧ y.phase = .awaitingStore ∧ y.record = record ∧ y.claims = c :: others := by
  obtain ⟨k', -, h⟩ := Option.bind_eq_some_iff.1 h
  obtain ⟨y, hy, h⟩ := Option.bind_eq_some_iff.1 h
  obtain ⟨⟨awaiting, head⟩, same⟩ := Option.ite_none_right_eq_some.1 h
  cases same
  exact ⟨y, hy, awaiting, rfl, (List.cons_head?_tail head).symm⟩

theorem awaitingHeaded_eq_none : awaitingHeaded s c x = none ↔ ∀ i ∈ x.records, ∀ k y, i.slot = some k →
    s.cache.slots[k] = some y → ¬(y.phase = .awaitingStore ∧ y.claims.head? = some c) := by
  rw [awaitingHeaded_eq, List.findSome?_eq_none_iff]
  exact forall₂_congr fun _ _ => headedSlot_eq_none

/-! ## The events -/

theorem exec_storeReadFailure (h : awaits s xfer (.storeRead c) = true) :
    exec (.storeReadFailure xfer) s = .next (adminMessage s.link.next (failStoreRead c (dropTransfer xfer s))) := by
  show Host.Outcome.next (adminMessage s.link.next (onReport _ failStoreRead xfer s)) = _
  rw [onReport_of_awaits failStoreRead h rfl]

/-- The failure of the read of a STORE that heads no AWAITING_STORE slot (R68). -/
theorem failStoreRead_alone (hc : s.contexts[c] = some x) (h : awaitingHeaded s c x = none) :
    failStoreRead c s = settle (raiseFaults (storeReadFaults x)
      (endContext c (s.setContext c (some x.hostFaulted)))) := by
  unfold failStoreRead
  rw [hc]
  dsimp only
  rw [h]

/-- The failure of the read of a STORE with other contexts behind it (R68, R97). -/
theorem failStoreRead_ahead {k : SlotId} {record : Nat} {others : List CtxId} (hc : s.contexts[c] = some x)
    (h : awaitingHeaded s c x = some (k, record, others)) :
    failStoreRead c s = settle (raiseFaults (storeReadFaults x ++ behindFaults s record others)
      (freeSlot k (others.foldl (fun acc d => failContext [record] .poisoned d acc)
        (endContext c (s.setContext c (some x.hostFaulted)))))) := by
  unfold failStoreRead
  rw [hc]
  dsimp only
  rw [h]

/-- Settles O51: both rows are the report of the awaited read; the failure by the slot that the STORE heads. -/
theorem storeReadEnds : Obligations.StoreReadEnds := by
  refine ⟨fun s xfer data c x awaited hc => ?_, fun s xfer c x awaited hc => ?_⟩
  · refine ⟨recordAt data.toList 0, fun i => ?_, ?_⟩
    · rw [recordAt_lane, Nat.zero_add]
    · show Host.Outcome.next (adminMessage s.link.next (onReadComplete _ (acceptStoreData data) xfer s)) = _
      rw [onReadComplete_of_awaits (acceptStoreData data) awaited rfl]
      unfold acceptStoreData
      rw [show (dropTransfer xfer s).contexts[c] = some x from hc]
      rfl
  · have held : (dropTransfer xfer s).contexts[c] = some x := hc
    refine ⟨awaitingHeaded_eq_none, fun alone => ?_, fun k record others ahead => ⟨?_, ?_⟩⟩
    · rw [exec_storeReadFailure awaited, failStoreRead_alone held alone]
      rfl
    · rw [awaitingHeaded_eq] at ahead
      obtain ⟨i, -, headed⟩ := List.exists_of_findSome?_eq_some ahead
      exact headedSlot_eq_some headed
    · rw [exec_storeReadFailure awaited, failStoreRead_ahead held ahead]
      rfl

end StoreReads

end Sys2Proof.Machine

/-! # The ends of fills (R65, R96, R105 to R107, R111) -/

namespace Sys2Proof.Machine

section Fills

variable {s : State} {st : Store} {n : Nat} {errors : Vector WordErrors 4} {k : SlotId} {y : Slot}

/-! ## Decoding (R105, R106) -/

/-- A set of words holds the words with its property (R193). -/
theorem getLsbD_wordSetOf (p : WordId → Bool) (w : WordId) : (wordSetOf p).getLsbD w.val = p w := by
  rw [wordSetOf, BitVec.getLsbD_ofNat, testBit_flagBits]
  simp [List.getD_eq_getElem?_getD, show w.val < 8 by omega]

theorem wordSetOf_eq_zero (p : WordId → Bool) : wordSetOf p = 0 ↔ ∀ w, p w = false := by
  constructor
  · intro h w
    rw [← getLsbD_wordSetOf p w, h]
    exact BitVec.getLsbD_zero
  · intro h
    rw [show p = fun _ => false from funext h]
    rfl

theorem fillBad_eq_zero : fillBad st n errors = 0 ↔ ∀ w, readUncorrectable (fillWords st n errors w) = false :=
  wordSetOf_eq_zero _

theorem decodeWord_of_written {w : WordId} (h : wordWritten st n w = true) (found : WordErrors) :
    (errorCount (errorsRead st n w found) = 0 → decodeWord st n w found = .clean (dramWord st n w)) ∧
    (errorCount (errorsRead st n w found) = 1 → decodeWord st n w found = .corrected (dramWord st n w)) ∧
    (errorCount (errorsRead st n w found) = 2 → decodeWord st n w found = .uncorrectable) := by
  unfold decodeWord
  dsimp only
  rw [if_pos h]
  refine ⟨fun e => ?_, fun e => ?_, fun e => ?_⟩ <;> rw [e] <;> rfl

/-- A word with at most one bit in error delivers its data as they were written, and is corrected where there is one. -/
theorem fillWords_of_readable {w : WordId} (h : wordWritten st n w = true)
    (count : errorCount (errorsRead st n w errors[w]) ≤ 1) :
    readUncorrectable (fillWords st n errors w) = false ∧ deliveredWord (fillWords st n errors w) = dramWord st n w ∧
      (readCorrected (fillWords st n errors w) = true ↔ errorCount (errorsRead st n w errors[w]) = 1) := by
  obtain ⟨clean, corrected, -⟩ := decodeWord_of_written h errors[w]
  unfold fillWords
  rcases Nat.le_one_iff_eq_zero_or_eq_one.1 count with e | e
  · rw [clean e, e]
    simp [readUncorrectable, deliveredWord, readCorrected]
  · rw [corrected e, e]
    simp [readUncorrectable, deliveredWord, readCorrected]

theorem fillWords_of_double {w : WordId} (h : wordWritten st n w = true)
    (count : errorCount (errorsRead st n w errors[w]) = 2) : fillWords st n errors w = .uncorrectable :=
  (decodeWord_of_written h errors[w]).2.2 count

/-! ## The bits in error after a fill (R105, R112) -/

theorem SameContent.eq {a b : Store} (h : SameContent a b) : b = { a with errors := b.errors } := by
  obtain ⟨size, dram, check, poison, jobs, powerOns⟩ := h
  cases a
  cases b
  simp only at size dram check poison jobs powerOns
  subst size dram check poison jobs powerOns
  rfl

theorem foldl_addErrors_wordErrors (found : Vector WordErrors 4) {l : List WordId} (distinct : l.Nodup)
    (hc : StoreCanonical st) (m : Nat) (w : WordId) :
    wordErrors (l.foldl (fun acc w => acc.addErrors n w found[w]) st) m w =
      if m = n ∧ w ∈ l then wordErrors st n w ||| found[w] else wordErrors st m w := by
  induction l generalizing st with
  | nil => simp
  | cons v l ih =>
    obtain ⟨notIn, distinct⟩ := List.nodup_cons.1 distinct
    rw [List.foldl_cons, ih distinct (addErrors_canonical st n v found[v] hc), wordErrors_addErrors _ _ _ _ _ _ hc,
      wordErrors_addErrors _ _ _ _ _ _ hc]
    by_cases here : w = v
    · subst here
      simp [notIn]
    · simp [here]

/-- Each word of the record read has the bits in error that it had and those found; the words of other records have
theirs. -/
theorem wordErrors_addFillErrors (hc : StoreCanonical st) (found : Vector WordErrors 4) (m : Nat) (w : WordId) :
    wordErrors (st.addFillErrors n found) m w = if m = n then wordErrors st n w ||| found[w] else wordErrors st m w := by
  unfold Store.addFillErrors
  rw [foldl_addErrors_wordErrors found (List.nodup_finRange 4) hc]
  simp

theorem wordErrors_endFill (hc : StoreCanonical st) (k : SlotId) (found : Vector WordErrors 4) (m : Nat) (w : WordId) :
    wordErrors (st.endFill k n found) m w = if m = n then wordErrors st n w ||| found[w] else wordErrors st m w :=
  wordErrors_addFillErrors (st := st.endJobs (Job.isFill k)) hc found m w

/-! ## FILL_COMPLETE -/

theorem exec_fillUncorrectable (hj : s.store.fillJob k = some n) (hb : fillBad s.store n errors ≠ 0) :
    exec (.fillUncorrectable k errors) s =
      if n < s.store.size then .next (event (failFill k n errors) s) else .fault .outsideStore := by
  show execFillUncorrectable k errors s = _
  unfold execFillUncorrectable withinStore inStore
  rw [hj]
  simp only [if_neg hb, decide_eq_true_eq]

/-- The end of a fill with an image, on its slot (R96, R107). -/
theorem completeFill_eq (hy : s.cache.slots[k] = some y) : completeFill k n errors s = settle
    (raiseFaults (if fillCorrected s.store n errors = 0 then []
        else [mediaFault .mediaCorrected s y (fillCorrected s.store n errors)])
      (residentFill k y (fillLanes s.store n errors) (fillCorrected s.store n errors != 0)
        (s.setStore (s.store.endFill k n errors)))) := by
  unfold completeFill
  dsimp only
  rw [hy]
  dsimp only
  split <;> rfl

theorem residentFill_of_releasing (image : Record) (corrected : Bool) (h : releasing s y.region = true) :
    residentFill k y image corrected s = freeSlot k s := if_pos h

/-- The slot becomes RESIDENT, and where a word was corrected fully dirty (R96). -/
theorem residentFill_of_kept (image : Record) (words : BitVec 8) (h : releasing s y.region = false) :
    residentFill k y image (words != 0) s =
      (s.setSlot k (some { y with
        phase := .resident
          { image := { lanes := image, parity := recordParity image }
            dirty := if words = 0 then 0 else allLanes
            dirtySince := if words = 0 then none else some s.now
            writeBack := false } })).setRecency (s.cache.recency.filter (· != k) ++ [k]) := by
  have content : Resident.entered image (if (words != 0) = true then allLanes else 0) s.now =
      { image := { lanes := image, parity := recordParity image }
        dirty := if words = 0 then 0 else allLanes
        dirtySince := if words = 0 then none else some s.now
        writeBack := false } := by
    unfold Resident.entered Image.fresh
    by_cases clean : words = 0
    · subst clean
      rfl
    · rw [if_neg clean, if_neg clean, if_pos (bne_iff_ne.2 clean)]
      rfl
  unfold residentFill
  rw [if_neg (by rw [h]; exact Bool.false_ne_true), content]
  rfl

/-! ## FILL_UNCORRECTABLE -/

theorem poisonFull_iff (st : Store) (n : Nat) : st.poisonFull n = true ↔ n ∉ st.poison ∧ 64 ≤ st.poison.length := by
  unfold Store.poisonFull
  rw [Bool.and_eq_true, Bool.not_eq_true', ← Bool.not_eq_true, poisoned_iff, decide_eq_true_eq]
  exact Iff.rfl

/-- The poison list after an uncorrectable fill: the record joins it, unless it is listed or the list is full (R111). -/
theorem addPoison_eq (st : Store) (n : Nat) : st.addPoison n = { st with
    poison := if n ∈ st.poison ∨ 64 ≤ st.poison.length then st.poison else st.poison ++ [n] } := by
  have listed : (st.poisoned n || decide (Config.poisonCapacity ≤ st.poison.length)) = true ↔
      n ∈ st.poison ∨ 64 ≤ st.poison.length := by
    rw [Bool.or_eq_true, poisoned_iff, decide_eq_true_eq]
    exact Iff.rfl
  unfold Store.addPoison
  simp only [listed]
  split <;> rfl

/-- An uncorrectable fill, on its slot (R107). -/
theorem failFill_eq (hy : s.cache.slots[k] = some y) : failFill k n errors s = settle
    (raiseFaults (mediaFault .mediaUncorrectable s y (fillBad s.store n errors) ::
        if n ∉ s.store.poison ∧ 64 ≤ s.store.poison.length then
          [mediaFault .poisonListFull s y (fillBad s.store n errors)] else [])
      (y.claims.foldl (fun acc c => failContext [n] .mediaError c acc)
        (freeSlot k (s.setStore ((s.store.endFill k n errors).addPoison n))))) := by
  unfold failFill unreadableFaults
  dsimp only
  rw [hy]
  dsimp only
  simp only [poisonFull_iff]

/-- Settles O52: the decoding word by word, and the two ends of a fill inside the store and outside it. -/
theorem fillsEnd : Obligations.FillsEnd := by
  intro s k errors n hj bad corrected inError
  have content := endFill_content s.store k n errors
  refine ⟨fun readable => ⟨?_, ?_, fun w => ?_⟩, ?_, fun outside => ⟨fun hb => ?_, fun hb => ?_⟩,
    fun inside y hy => ⟨s.store.endFill k n errors, content.eq, fun hc m w => wordErrors_endFill hc k errors m w,
      fun hb release => ?_, fun hb keep => ?_, fun hb => ⟨_, ?_, rfl⟩⟩⟩
  · exact fillBad_eq_zero.2 fun w => (fillWords_of_readable (readable w).1 (readable w).2).1
  · exact congrArg recordOfWords (funext fun w => (fillWords_of_readable (readable w).1 (readable w).2).2.1)
  · exact (Bool.eq_iff_iff.1 (getLsbD_wordSetOf _ w)).trans
      (fillWords_of_readable (readable w).1 (readable w).2).2.2
  · rintro ⟨w, written, double⟩ hb
    have readable := fillBad_eq_zero.1 hb w
    rw [fillWords_of_double written double] at readable
    cases readable
  · exact (exec_fillComplete hj hb).trans (if_neg (Nat.not_lt.2 outside))
  · exact (exec_fillUncorrectable hj hb).trans (if_neg (Nat.not_lt.2 outside))
  · rw [exec_fillComplete hj hb, if_pos inside, event, completeFill_eq hy,
      residentFill_of_releasing (s := s.setStore (s.store.endFill k n errors)) _ _ release]
    rfl
  · rw [exec_fillComplete hj hb, if_pos inside, event, completeFill_eq hy,
      residentFill_of_kept (s := s.setStore (s.store.endFill k n errors)) _ _ keep]
    rfl
  · rw [exec_fillUncorrectable hj hb, if_pos inside, event, failFill_eq hy, addPoison_eq, content.poison]
    rfl

end Fills

end Sys2Proof.Machine

/-! # READY, the quantities of the allocator, and pressure (R64, R89, R92) -/

namespace Sys2Proof.Machine

section AllocatorQuantities

variable {s u : State} {x : Context} {y : Slot} {c : CtxId}

/-! ## Slots that a request may use, or may come to use (R89, R92) -/

/-- What an idle RESIDENT slot is, beside its content. -/
theorem idleResident_iff (x : Context) (p : Resident → Bool) (y : Slot) : idleResident x p y = true ↔
    (y.claims = [] ∧ y.record ∉ x.recordNumbers) ∧ ∃ r, y.phase = .resident r ∧ p r = true := by
  unfold idleResident
  cases y.phase <;> simp

theorem toList_eq_map {α : Type} {n : Nat} (v : Vector α n) : v.toList = (List.finRange n).map fun i => v[i] :=
  List.ext_getElem (by simp) fun i _ _ => by simp

/-- How many slots that are not FREE have a property, by their numbers. -/
theorem countSlots_eq (s : State) (p : Slot → Bool) :
    countSlots s p = (List.finRange 64).countP fun k : SlotId => (s.cache.slots[k]).any p := by
  unfold countSlots
  rw [toList_eq_map, List.countP_map]
  refine congrArg (fun q => (List.finRange 64).countP q) (funext fun k => ?_)
  dsimp only [Function.comp]
  cases s.cache.slots[k] <;> rfl

theorem recentSlots_eq (s : State) (p : Slot → Bool) :
    recentSlots s p = s.cache.recency.filter fun k => (s.cache.slots[k]).any p := by
  unfold recentSlots
  refine congrArg (fun q => s.cache.recency.filter q) (funext fun k => ?_)
  cases s.cache.slots[k] <;> rfl

/-! ## Pressure (R90, R92) -/

theorem evaluate_of_waiting {rest : List CtxId} (hr : u.cache.requests = c :: rest) (hc : u.contexts[c] = some x)
    (h : slotsAvailable u x < slotNeed u x) : evaluate u = pressure x u := by
  have waits : ¬grantable u x = true := by
    unfold grantable
    rw [decide_eq_true_eq]
    omega
  unfold evaluate evaluateFrom
  rw [hr]
  dsimp only
  rw [hc]
  exact if_neg waits

theorem pressure_eq (x : Context) (u : State) : pressure x u =
    ((u.cache.recency.filter fun k => (u.cache.slots[k]).any (staleSlot x)).take (slotNeed u x - slotsAvailable u x -
      (List.finRange 64).countP fun k : SlotId => (u.cache.slots[k]).any (cleaningSlot x))).foldl
      (fun v k => if v.cache.requests = [] then v else startWriteBack k v) u := by
  unfold pressure shortfall
  rw [recentSlots_eq, countSlots_eq]
  simp only [List.isEmpty_iff]

/-! ## READY (R64) -/

theorem readyCheck_context (u : State) (c : CtxId) : (readyCheck u).contexts[c] =
    (u.contexts[c]).map fun x => if x.phase = .claiming ∧ readyToCommit u c x = true then { x with phase := .ready }
      else x := by
  refine (getElem_ofFn_fin _ c).trans ?_
  cases u.contexts[c] with
  | none => rfl
  | some x => exact (apply_ite some _ _ _).symm

theorem isStore_iff (x : Context) :
    x.isStore = true ↔ ∃ m, x.members = [m] ∧ entryField m.entry 0x00 1 = 3 := by
  unfold Context.isStore
  split
  · next m hm => rw [beq_iff_eq, opcode_eq_some]; simp [hm, Opcode.number]
  · next h => exact ⟨fun h' => absurd h' (by simp), fun ⟨m, e, _⟩ => absurd e (h m)⟩

theorem openTo_iff (y : Slot) (c : CtxId) : y.openTo c = true ↔ y.claims.head? = some c ∧ y.phase ≠ .filling := by
  unfold Slot.openTo
  cases y.phase <;> simp

/-- The conditions of R64, item by item. -/
theorem readyToCommit_iff (s : State) (c : CtxId) (x : Context) : readyToCommit s c x = true ↔
    (∀ i ∈ x.records, ∃ k y, i.slot = some k ∧ s.cache.slots[k] = some y ∧ y.claims.head? = some c ∧
      y.phase ≠ .filling) ∧
    ((∃ m, x.members = [m] ∧ entryField m.entry 0x00 1 = 3) → x.storeData ≠ none) := by
  unfold readyToCommit
  rw [Bool.and_eq_true, List.all_eq_true]
  refine and_congr (forall₂_congr fun i _ => ?_) ?_
  · cases hk : i.slot with
    | none => simp
    | some k =>
      dsimp only
      cases hy : s.cache.slots[k] with
      | none => simp [-Fin.getElem_fin, hy]
      | some y => simp [-Fin.getElem_fin, hy, openTo_iff]
  · rw [← isStore_iff, Bool.or_eq_true, Bool.not_eq_true', Option.isSome_iff_ne_none, ← Bool.not_eq_true,
      Decidable.imp_iff_not_or]

end AllocatorQuantities

end Sys2Proof.Machine

/-! # The grant of a slot request (R62, R63, R91) -/

namespace Sys2Proof.Machine

section Grants

variable {s u v : State} {x : Context} {c : CtxId} {i : RecordItem} {k : SlotId}

/-! ## Slots that a grant may give (R89, R91) -/

theorem findSlot_eq_some {record : Nat} (h : findSlot s record = some k) :
    ∃ y, s.cache.slots[k] = some y ∧ y.record = record := by
  have found := List.find?_some h
  cases hy : s.cache.slots[k] with
  | none => rw [hy] at found; cases found
  | some y => rw [hy] at found; exact ⟨y, rfl, beq_iff_eq.1 found⟩

theorem unheld_iff (s : State) (record : Nat) : unheld s record = true ↔ ∀ k, slotRecord s k ≠ some record := by
  unfold unheld
  rw [Option.isNone_iff_eq_none]
  refine ⟨findSlot_none, fun h => Option.eq_none_iff_forall_ne_some.2 fun k hk => ?_⟩
  obtain ⟨y, hy, named⟩ := findSlot_eq_some hk
  exact h k (by rw [slotRecord_eq hy, named])

/-- Whether a slot may be given to a new record of a request: it is FREE, or spare. -/
def usable (x : Context) (o : Option Slot) : Bool := o.all (spareSlot x)

theorem countP_usable (x : Context) (l : List (Option Slot)) :
    l.countP Option.isNone + l.countP (fun o => o.any (spareSlot x)) = l.countP (usable x) := by
  induction l with
  | nil => rfl
  | cons o l ih =>
    rw [List.countP_cons, List.countP_cons, List.countP_cons, ← ih]
    cases o with
    | none => simp [usable]; omega
    | some y => cases h : spareSlot x y <;> simp [usable, h]; omega

/-- The slots that may be given. -/
def usableSlots (u : State) (x : Context) : Finset SlotId :=
  ((List.finRange 64).filter fun k => usable x u.cache.slots[k]).toFinset

theorem mem_usableSlots : k ∈ usableSlots u x ↔ usable x u.cache.slots[k] = true := by
  simp [usableSlots]

theorem slotsAvailable_eq (u : State) (x : Context) : slotsAvailable u x = (usableSlots u x).card := by
  have spare : countSlots u (spareSlot x) =
      ((List.finRange 64).map fun k : SlotId => u.cache.slots[k]).countP fun o => o.any (spareSlot x) := by
    rw [countSlots_eq, List.countP_map]
    rfl
  unfold slotsAvailable freeSlots
  rw [spare, toList_eq_map, countP_usable, List.countP_map, List.countP_eq_length_filter]
  exact (List.toFinset_card_of_nodup ((List.nodup_finRange 64).filter _)).symm

/-- The slot chosen for a new record may be given (R91). -/
theorem chooseSlot_usable (h : chooseSlot u x = some k) : usable x u.cache.slots[k] = true := by
  unfold chooseSlot at h
  split at h
  · next free =>
    cases h
    rw [Option.isNone_iff_eq_none.1 (List.find?_some (p := fun k : SlotId => (u.cache.slots[k]).isNone) free)]
    rfl
  · rw [recentSlots_eq] at h
    have spare := (List.mem_filter.1 (List.mem_of_mem_head? h)).2
    cases hy : u.cache.slots[k] with
    | none => rfl
    | some y => rw [hy] at spare; exact spare

/-- Where a slot may be given one is chosen: the recency order lists every spare slot (R84, R91). -/
theorem chooseSlot_isSome (hr : RecencyProper u) (h : 0 < slotsAvailable u x) : ∃ k, chooseSlot u x = some k := by
  rw [slotsAvailable_eq, Finset.card_pos] at h
  obtain ⟨k, hk⟩ := h
  have hk := mem_usableSlots.1 hk
  unfold chooseSlot
  cases free : (List.finRange 64).find? fun k : SlotId => (u.cache.slots[k]).isNone with
  | some k' => exact ⟨k', rfl⟩
  | none =>
    have taken := List.find?_eq_none.1 free k (List.mem_finRange k)
    obtain ⟨y, hy⟩ := Option.ne_none_iff_exists'.1 (mt Option.isNone_iff_eq_none.2 taken)
    rw [hy] at hk
    obtain ⟨-, r, resident, -⟩ := (idleResident_iff x _ y).1 hk
    have listed : k ∈ recentSlots u (spareSlot x) := by
      rw [recentSlots_eq, List.mem_filter, hy]
      exact ⟨(hr.2 k).2 ⟨y, hy, by simp [Slot.isResident, resident]⟩, hk⟩
    exact ⟨_, List.head?_eq_some_head (List.ne_nil_of_mem listed)⟩

/-! ## One record item (R62, R91) -/

/-- What serving one record item does: the item refers to a slot that holds its record for the context, and nothing
else in the cache changes but the recency order. A held record is joined at the tail of its queue; a new one is given a
slot that was usable. -/
structure ItemServed (x : Context) (c : CtxId) (u : State) (i : RecordItem) (k : SlotId) (y : Slot) (v : State) :
    Prop where
  slot : v.cache.slots[k] = some y
  others : ∀ j : SlotId, j ≠ k → v.cache.slots[j] = u.cache.slots[j]
  record : y.record = i.record
  last : y.claims.getLast? = some c
  held : unheld u i.record = false → slotRecord u k = some i.record
  given : unheld u i.record = true → usable x u.cache.slots[k] = true ∧ y.claims = [c] ∧
    (u.store.poisoned i.record = true → y.phase = .awaitingStore) ∧
    (u.store.poisoned i.record = false → y.phase = .filling ∧ Job.fill k i.record ∈ v.store.jobs)
  poison : v.store.poison = u.store.poison
  jobs : ∀ j ∈ u.store.jobs, j ∈ v.store.jobs
  requests : v.cache.requests = u.cache.requests
  recency : RecencyProper v

theorem joinSlot_eq {y : Slot} (hy : u.cache.slots[k] = some y) :
    ∃ recency, joinSlot k c u = (u.setSlot k (some { y with claims := y.claims ++ [c] })).setRecency recency := by
  unfold joinSlot
  rw [hy]
  dsimp only
  split
  · exact ⟨_, rfl⟩
  · exact ⟨u.cache.recency, rfl⟩

theorem itemServed_join (hr : RecencyProper u) {y : Slot} (hy : u.cache.slots[k] = some y)
    (named : y.record = i.record) :
    ItemServed x c u i k { y with claims := y.claims ++ [c] } (joinSlot k c u) := by
  have holds : slotRecord u k = some i.record := by rw [slotRecord_eq hy, named]
  have recency := (reaction_joinSlot k c u).recent hr
  obtain ⟨order, joined⟩ := joinSlot_eq (c := c) hy
  rw [joined] at recency ⊢
  exact {
    slot := (getElem_set_fin _ _ _ _).trans (if_pos rfl)
    others := fun j hj => (getElem_set_fin _ _ _ _).trans (if_neg hj)
    record := named
    last := List.getLast?_concat
    held := fun _ => holds
    given := fun h => absurd holds ((unheld_iff u _).1 h k)
    poison := rfl
    jobs := fun _ => id
    requests := rfl
    recency := recency }

/-- The slot that a new record is given (R62). -/
def givenSlot (u : State) (c : CtxId) (i : RecordItem) : Slot :=
  { phase := if u.store.poisoned i.record then .awaitingStore else .filling
    record := i.record
    region := i.region
    claims := [c] }

theorem giveSlot_eq (k : SlotId) (c : CtxId) (i : RecordItem) (u : State) : giveSlot k c i u =
    if u.store.poisoned i.record = true then (freeSlot k u).setSlot k (some (givenSlot u c i))
    else ((freeSlot k u).setSlot k (some (givenSlot u c i))).setStore (u.store.issueJob (.fill k i.record)) := rfl

theorem giveSlot_slots (k j : SlotId) (c : CtxId) (i : RecordItem) (u : State) :
    (giveSlot k c i u).cache.slots[j] = if j = k then some (givenSlot u c i) else u.cache.slots[j] := by
  have slots : (giveSlot k c i u).cache.slots = (freeSlot k u).cache.slots.set k (some (givenSlot u c i)) := by
    rw [giveSlot_eq]
    split <;> rfl
  rw [slots, getElem_set_fin, freeSlot_slots]
  split <;> rfl

theorem itemServed_give (hr : RecencyProper u) (hk : usable x u.cache.slots[k] = true)
    (new : unheld u i.record = true) : ItemServed x c u i k (givenSlot u c i) (giveSlot k c i u) := by
  have filling : ∀ y, u.cache.slots[k] = some y → y.phase ≠ .filling := fun y hy => by
    rw [hy] at hk
    exact spare_not_filling hk
  have recency := (reaction_giveSlot k c i u filling ((unheld_iff u _).1 new)).recent hr
  exact {
    slot := (giveSlot_slots k k c i u).trans (if_pos rfl)
    others := fun j hj => (giveSlot_slots k j c i u).trans (if_neg hj)
    record := rfl
    last := rfl
    held := fun h => absurd (new.symm.trans h) (by simp)
    given := fun _ => ⟨hk, rfl, fun listed => if_pos listed, fun unlisted => ⟨if_neg (by simp [unlisted]), by
      rw [giveSlot_eq, if_neg (by simp [unlisted])]
      exact List.mem_append_right _ (List.mem_singleton_self _)⟩⟩
    poison := by rw [giveSlot_eq]; split <;> rfl
    jobs := fun j hj => by
      rw [giveSlot_eq]
      split
      · exact hj
      · exact List.mem_append_left _ hj
    requests := by rw [giveSlot_eq]; split <;> rfl
    recency := recency }

/-- An item is served where its record is held, or where a slot may be given to it. -/
theorem grantItem_served (hr : RecencyProper u) (room : unheld u i.record = true → 0 < slotsAvailable u x) :
    ∃ k y, (grantItem x c i u).1 = { i with slot := some k } ∧ ItemServed x c u i k y (grantItem x c i u).2 := by
  unfold grantItem
  cases held : findSlot u i.record with
  | some k =>
    obtain ⟨y, hy, named⟩ := findSlot_eq_some held
    exact ⟨k, _, rfl, itemServed_join hr hy named⟩
  | none =>
    have new : unheld u i.record = true := Option.isNone_iff_eq_none.2 held
    obtain ⟨k, chosen⟩ := chooseSlot_isSome hr (room new)
    rw [chosen]
    exact ⟨k, _, rfl, itemServed_give hr (chooseSlot_usable chosen) new⟩

/-! ## What serving an item leaves to the others -/

theorem usable_some {y : Slot} (h : usable x (some y) = true) : y.claims = [] ∧ y.record ∉ x.recordNumbers :=
  ((idleResident_iff x _ y).1 h).1

variable {y : Slot}

theorem ItemServed.claimed (h : ItemServed x c u i k y v) : usable x v.cache.slots[k] = false := by
  rw [h.slot]
  refine Bool.eq_false_iff.2 fun free => ?_
  have last := h.last
  rw [(usable_some free).1] at last
  cases last

/-- The slot was usable where the record is new, and held the record otherwise. -/
theorem ItemServed.before (h : ItemServed x c u i k y v) (hi : i.record ∈ x.recordNumbers) :
    usable x u.cache.slots[k] = unheld u i.record := by
  cases new : unheld u i.record with
  | true => exact (h.given new).1
  | false =>
    obtain ⟨z, hz, named⟩ := Option.map_eq_some_iff.1 (h.held new)
    rw [hz]
    exact Bool.eq_false_iff.2 fun free => (usable_some free).2 (named ▸ hi)

theorem ItemServed.usableSlots (h : ItemServed x c u i k y v) : usableSlots v x = (usableSlots u x).erase k := by
  ext j
  rw [Finset.mem_erase, mem_usableSlots, mem_usableSlots]
  by_cases here : j = k
  · subst here
    simp only [h.claimed, Bool.false_eq_true, ne_eq, not_true_eq_false, false_and]
  · rw [h.others j here]
    exact (and_iff_right here).symm

/-- A new record takes one of the slots that may be given, and a held one takes none (R89). -/
theorem ItemServed.available (h : ItemServed x c u i k y v) (hi : i.record ∈ x.recordNumbers) :
    slotsAvailable v x + (if unheld u i.record = true then 1 else 0) = slotsAvailable u x := by
  rw [slotsAvailable_eq, slotsAvailable_eq, h.usableSlots, ← h.before hi]
  split
  · next free => exact Finset.card_erase_add_one (mem_usableSlots.2 free)
  · next taken => rw [Finset.erase_eq_of_notMem (mt mem_usableSlots.1 taken), Nat.add_zero]

/-- No other record of the request gains or loses a slot. -/
theorem ItemServed.unheld_other (h : ItemServed x c u i k y v) (hi : i.record ∈ x.recordNumbers) {n : Nat}
    (hn : n ∈ x.recordNumbers) (other : n ≠ i.record) : unheld v n = unheld u n := by
  have after : slotRecord v k ≠ some n := by
    rw [slotRecord_eq h.slot, h.record]
    exact fun e => other (Option.some.inj e).symm
  have before : slotRecord u k ≠ some n := by
    have was := h.before hi
    cases new : unheld u i.record with
    | false => rw [h.held new]; exact fun e => other (Option.some.inj e).symm
    | true =>
      intro e
      obtain ⟨z, hz, named⟩ := Option.map_eq_some_iff.1 e
      rw [new, hz] at was
      exact (usable_some was).2 (named ▸ hn)
  rw [Bool.eq_iff_iff, unheld_iff, unheld_iff]
  refine forall_congr' fun j => ?_
  by_cases here : j = k
  · subst here
    exact iff_of_true after before
  · unfold slotRecord
    rw [h.others j here]

/-! ## Every record item (R62) -/

/-- A record item is served: it refers to a slot that holds its record and whose claim queue ends with the context; for
a record that no slot held in `s` the slot is a new one, FILLING with its fill issued, or AWAITING_STORE (R62). -/
def Served (c : CtxId) (s u : State) (i : RecordItem) : Prop :=
  ∃ k y, i.slot = some k ∧ u.cache.slots[k] = some y ∧ y.record = i.record ∧ y.claims.getLast? = some c ∧
    (unheld s i.record = true → y.claims = [c] ∧
      (s.store.poisoned i.record = true → y.phase = .awaitingStore) ∧
      (s.store.poisoned i.record = false → y.phase = .filling ∧ Job.fill k i.record ∈ u.store.jobs))

/-- The item that is served now. -/
theorem ItemServed.served (h : ItemServed x c u i k y v) (same : unheld u i.record = unheld s i.record)
    (poison : u.store.poison = s.store.poison) : Served c s v { i with slot := some k } := by
  have listed : u.store.poisoned i.record = s.store.poisoned i.record := by
    unfold Store.poisoned
    rw [poison]
  have given := h.given
  rw [same, listed] at given
  exact ⟨k, y, rfl, h.slot, h.record, h.last, fun new => (given new).2⟩

/-- An item of the request that has been served stays so. -/
theorem ItemServed.keeps (h : ItemServed x c u i k y v) {i' : RecordItem} (hi : i'.record ∈ x.recordNumbers)
    (other : i'.record ≠ i.record) (served : Served c s u i') : Served c s v i' := by
  obtain ⟨k', y', slot, hy', named, last, new⟩ := served
  have apart : k' ≠ k := by
    rintro rfl
    cases held : unheld u i.record with
    | false =>
      have was := h.held held
      rw [slotRecord_eq hy'] at was
      exact other (named.symm.trans (Option.some.inj was))
    | true =>
      have free := (h.given held).1
      rw [hy'] at free
      exact (usable_some free).2 (named ▸ hi)
  refine ⟨k', y', slot, (h.others k' apart).trans hy', named, last, fun hn => ?_⟩
  obtain ⟨claims, awaiting, filling⟩ := new hn
  exact ⟨claims, awaiting, fun unlisted => ⟨(filling unlisted).1, h.jobs _ (filling unlisted).2⟩⟩

/-- What serving the items of a list does. -/
structure ItemsServed (x : Context) (c : CtxId) (s : State) (l l' : List RecordItem) (u v : State) : Prop where
  records : l'.map RecordItem.record = l.map RecordItem.record
  served : ∀ i ∈ l', Served c s v i
  keeps : ∀ i : RecordItem, i.record ∈ x.recordNumbers → i.record ∉ l.map RecordItem.record → Served c s u i →
    Served c s v i
  requests : v.cache.requests = u.cache.requests

theorem grantItems_cons (x : Context) (c : CtxId) (i : RecordItem) (l : List RecordItem) (u : State) :
    grantItems x c (i :: l) u = ((grantItem x c i u).1 :: (grantItems x c l (grantItem x c i u).2).1,
      (grantItems x c l (grantItem x c i u).2).2) := rfl

/-- Where the slots that may be given are enough for the new records, every item is served. -/
theorem grantItems_served {l : List RecordItem} (hx : ∀ i ∈ l, i.record ∈ x.recordNumbers)
    (distinct : (l.map RecordItem.record).Nodup) (hr : RecencyProper u)
    (room : l.countP (fun i => unheld u i.record) ≤ slotsAvailable u x)
    (same : ∀ i ∈ l, unheld u i.record = unheld s i.record) (poison : u.store.poison = s.store.poison) :
    ItemsServed x c s l (grantItems x c l u).1 u (grantItems x c l u).2 := by
  induction l generalizing u with
  | nil => exact ⟨rfl, fun i hi => absurd hi List.not_mem_nil, fun _ _ _ => id, rfl⟩
  | cons i l ih =>
    obtain ⟨notIn, distinct⟩ := List.nodup_cons.1 distinct
    obtain ⟨here, hx⟩ := List.forall_mem_cons.1 hx
    obtain ⟨sameHere, same⟩ := List.forall_mem_cons.1 same
    rw [List.countP_cons] at room
    obtain ⟨k, y, item, h⟩ := grantItem_served (x := x) (c := c) (i := i) hr fun new => by
      rw [if_pos new] at room
      omega
    have apart : ∀ i' ∈ l, i'.record ≠ i.record := fun i' hi' e => notIn (e ▸ List.mem_map_of_mem hi')
    have kept : ∀ i' ∈ l, unheld (grantItem x c i u).2 i'.record = unheld u i'.record := fun i' hi' =>
      h.unheld_other here (hx i' hi') (apart i' hi')
    have rest := ih hx distinct h.recency (by
        have available := h.available here
        rw [List.countP_congr fun i' hi' => by rw [kept i' hi']]
        omega)
      (fun i' hi' => (kept i' hi').trans (same i' hi')) (h.poison.trans poison)
    rw [grantItems_cons, item]
    refine ⟨congrArg (i.record :: ·) rest.records,
      List.forall_mem_cons.2 ⟨rest.keeps _ here notIn (h.served sameHere poison), rest.served⟩,
      fun i' hi' others served => ?_, rest.requests.trans h.requests⟩
    obtain ⟨first, others⟩ := not_or.1 (mt List.mem_cons.2 others)
    exact rest.keeps i' hi' others (h.keeps hi' first served)

/-! ## The grant of slots -/

/-- What the grant of a request does with its context and its record items (R62, R64). -/
structure RequestServed (c : CtxId) (x : Context) (s g : State) (x' : Context) : Prop where
  context : g.contexts[c] = some x'
  members : x'.members = x.members
  records : x'.recordNumbers = x.recordNumbers
  phase : x'.phase = .claiming ∨ x'.phase = .ready
  served : ∀ i ∈ x'.records, Served c s g i

theorem poisonedItems_eq_nil : poisonedItems s x = [] ↔
    x.isStore = true ∨ (x.recordNumbers.filter fun n => unheld s n && s.store.poisoned n) = [] := by
  unfold poisonedItems
  cases x.isStore <;> simp

theorem grantable_iff (s : State) (x : Context) : grantable s x = true ↔ slotNeed s x ≤ slotsAvailable s x :=
  decide_eq_true_iff

/-- The check of R64 lets a context go on that is in use, with its members and its records. -/
theorem readyCheck_some (hc : u.contexts[c] = some x) (hp : x.phase = .claiming) :
    ∃ phase, (phase = .claiming ∨ phase = .ready) ∧ (readyCheck u).contexts[c] = some { x with phase := phase } := by
  rw [readyCheck_context, hc, Option.map_some]
  split
  · exact ⟨.ready, .inr rfl, rfl⟩
  · exact ⟨.claiming, .inl rfl, by rw [← hp]⟩

/-- A request that names no unheld poisoned record is granted its slots (R62). -/
theorem grant_served (hc : s.contexts[c] = some x) (room : slotNeed s x ≤ slotsAvailable s x)
    (readable : poisonedItems s x = []) (hr : RecencyProper s) (distinct : x.recordNumbers.Nodup) :
    (grant c s).cache.requests = s.cache.requests.filter (· != c) ∧ ∃ x', RequestServed c x s (grant c s) x' := by
  have need : slotNeed s x = x.records.countP fun i => unheld s i.record := by
    unfold slotNeed
    rw [readable]
    exact List.countP_map ..
  have all := grantItems_served (s := s) (x := x) (c := c) (u := withdrawRequest c s)
    (fun i hi => List.mem_map_of_mem hi) distinct hr (need ▸ room) (fun _ _ => rfl) rfl
  have granted : grant c s = readyCheck (grantSlots c x (withdrawRequest c s)) := by
    unfold grant
    rw [hc]
    dsimp only
    rw [readable]
    rfl
  have taken : (grantSlots c x (withdrawRequest c s)).contexts[c] = some { x with
      phase := .claiming, records := (grantItems x c x.records (withdrawRequest c s)).1 } :=
    (getElem_set_fin _ _ _ _).trans (if_pos rfl)
  obtain ⟨phase, hp, context⟩ := readyCheck_some taken rfl
  rw [granted]
  exact ⟨all.requests, _, context, rfl, all.records, hp, all.served⟩

end Grants

end Sys2Proof.Machine

/-! # The grant that ends a context POISONED, and SLOT_GRANT (R62 to R64, R76, R89 to R92) -/

namespace Sys2Proof.Machine

section SlotGrant

variable {s u : State} {x : Context} {c : CtxId}

/-! ## Contexts that are FREE stay so -/

theorem postAdmin_contexts (body : List Byte) (kind : Byte) (s : State) :
    (postAdmin body kind s).contexts = s.contexts := by
  unfold postAdmin
  split <;> rfl

theorem raiseNotice_contexts (n : Notice) (s : State) : (raiseNotice n s).contexts = s.contexts := by
  unfold raiseNotice
  split
  · exact postAdmin_contexts _ _ s
  · rfl

theorem completeDelete_contexts (r : RingId) (s : State) : (completeDelete r s).contexts = s.contexts := by
  unfold completeDelete
  split
  · split
    · exact completeCommand_contexts _ _ s
    · rfl
  · rfl

theorem deleteCheck_contexts (r : RingId) (s : State) : (deleteCheck r s).contexts = s.contexts := by
  unfold deleteCheck
  split
  · rfl
  · dsimp only
    split
    · exact completeDelete_contexts r _
    · rfl

theorem haltRing_contexts (r : RingId) (s : State) : (haltRing r s).contexts = s.contexts := by
  unfold haltRing
  split
  · rfl
  · split
    · exact raiseNotice_contexts _ _
    · exact raiseNotice_contexts _ _
    · exact (deleteCheck_contexts r _).trans (raiseNotice_contexts _ _)
    · rfl
    · rfl

theorem haltBound_contexts (rr : RingId) (s : State) : (haltBound rr s).contexts = s.contexts := by
  unfold haltBound
  refine List.foldlRecOn (motive := fun t : State => t.contexts = s.contexts) _ _ rfl fun t h r _ => ?_
  split
  · exact (haltRing_contexts r t).trans h
  · exact h

theorem captureFault_contexts (f : RaisedFault) (s : State) : (captureFault f s).contexts = s.contexts := by
  unfold captureFault
  split
  · rfl
  · split
    · exact raiseNotice_contexts _ _
    · rfl

theorem applySeverity_free (f : RaisedFault) (s : State) (h : s.contexts[c] = none) :
    (applySeverity f s).contexts[c] = none := by
  unfold applySeverity
  split
  · exact h
  · exact (enterFailed_quiet s (enterFailed_failed s)).1 c
  · split
    · next r _ => exact (congrArg (fun v : Vector (Option Context) 16 => v[c]) (haltRing_contexts r s)).trans h
    · next rr _ => exact (congrArg (fun v : Vector (Option Context) 16 => v[c]) (haltBound_contexts rr s)).trans h
    all_goals exact h

/-- The handling of a fault takes no context into use: it leaves them, or the entry into FAILED abandons them all. -/
theorem raiseFault_free (f : RaisedFault) (h : s.contexts[c] = none) : (raiseFault f s).contexts[c] = none := by
  unfold raiseFault
  split
  · exact h
  · refine applySeverity_free f (captureFault f (noteFault f s)) ?_
    rw [captureFault_contexts]
    exact h

theorem raiseFaults_free (fs : List RaisedFault) (h : s.contexts[c] = none) : (raiseFaults fs s).contexts[c] = none :=
  List.foldlRecOn (motive := fun t : State => t.contexts[c] = none) fs _ h fun _ ht f _ => raiseFault_free f ht

/-! ## The end of a context (R75) -/

theorem endOutstanding_contexts (r : RingId) (slot : Nat) (s : State) :
    (endOutstanding r slot s).contexts = s.contexts := by
  unfold endOutstanding
  split <;> rfl

theorem postFrom_contexts (r rr : RingId) (count member : Nat) (posts : List Posting) (s : State) :
    (postFrom r rr count member posts s).contexts = s.contexts := by
  induction posts generalizing member s with
  | nil => rfl
  | cons p rest ih =>
    refine (ih (member + 1) _).trans ?_
    unfold postResult
    split
    · rfl
    · exact endOutstanding_contexts _ _ _

theorem writeStatus_contexts (e : Fin 16) (index : Nat) (s : State) :
    (writeStatus e index s).contexts = s.contexts := by
  unfold writeStatus
  split <;> rfl

theorem retireRing_contexts (r : RingId) (s : State) : (retireRing r s).contexts = s.contexts := by
  unfold retireRing
  split
  · rfl
  · split
    · rfl
    · exact writeStatus_contexts _ _ _

theorem coalesceCheck_contexts (rr : RingId) (s : State) : (coalesceCheck rr s).contexts = s.contexts := by
  unfold coalesceCheck
  split
  · rfl
  · split
    · unfold causeMessage
      dsimp only
      split <;> rfl
    · rfl

theorem postUnit_contexts (r : RingId) (posts : List Posting) (s : State) :
    (postUnit r posts s).contexts = s.contexts := by
  unfold postUnit
  split
  · rfl
  · rw [coalesceCheck_contexts, retireRing_contexts, postFrom_contexts]

/-- A context that ends is FREE. -/
theorem endContext_free (c : CtxId) (s : State) : (endContext c s).contexts[c] = none := by
  unfold endContext
  split
  · next h => exact h
  · rw [postUnit_contexts]
    exact (getElem_set_fin _ _ _ _).trans (if_pos rfl)

theorem failContext_free (records : List Nat) (st : Status) (c : CtxId) (s : State) :
    (failContext records st c s).contexts[c] = none := by
  unfold failContext
  split
  · next h => exact h
  · exact endContext_free c _

/-! ## SLOT_GRANT -/

/-- A class of idle slots by its condition on the copy that the slot holds (R89). -/
theorem idleResident_iff_of (x : Context) (y : Slot) {p : Resident → Bool} {q : Resident → Prop}
    (h : ∀ r, p r = true ↔ q r) : idleResident x p y = true ↔
      (y.claims = [] ∧ y.record ∉ x.recordNumbers) ∧ ∃ r, y.phase = .resident r ∧ q r :=
  (idleResident_iff x p y).trans (and_congr_right fun _ => exists_congr fun r => and_congr_right fun _ => h r)

/-- A request that names an unheld poisoned record ends its context POISONED, and its faults are raised (R63, R76). -/
theorem grant_of_poisoned (hc : s.contexts[c] = some x) (h : poisonedItems s x ≠ []) : grant c s =
    readyCheck (raiseFaults (poisonFaults (poisonedItems s x) x)
      (failContext (poisonedItems s x) .poisoned c (withdrawRequest c s))) := by
  unfold grant
  rw [hc]
  dsimp only
  rw [if_neg (mt List.isEmpty_iff.1 h)]
  rfl

theorem readyCheck_free (h : u.contexts[c] = none) : (readyCheck u).contexts[c] = none := by
  rw [readyCheck_context, h]
  rfl

/-- The head request is granted, where it can be (R62, R90). -/
theorem exec_slotGrant {rest : List CtxId} (hr : s.cache.requests = c :: rest) (hc : s.contexts[c] = some x) :
    exec .slotGrant s =
      .next (if slotNeed s x ≤ slotsAvailable s x then afterEvent s (grant c s) [] else s) := by
  show Host.Outcome.next (grantHead s) = _
  unfold grantHead
  rw [hr]
  dsimp only
  rw [hc]
  simp only [grantable_iff]
  rfl

/-- Settles O50: the slots by their content, the wait by what `pressure` folds over, READY item by item, and the grant
by an induction over the record items in which each takes one usable slot or none. -/
theorem slotGrantServesEveryRecord : Obligations.SlotGrantServesEveryRecord := by
  refine ⟨fun x y => ⟨?_, ?_, ?_⟩, fun u c rest x hr hc waits => ?_, fun u => ⟨rfl, fun c => ⟨readyCheck_free,
    fun x hc => ⟨fun ready => ?_, fun notReady => ?_⟩⟩⟩, fun s c rest x hr hc => ⟨fun waits => ?_,
    fun room => ⟨?_, fun readable recency distinct => ?_, fun other listed => ?_⟩⟩⟩
  · exact idleResident_iff_of x y fun r => by simp
  · exact idleResident_iff_of x y fun r => by simp
  · exact idleResident_iff_of x y fun r => by simp
  · exact (evaluate_of_waiting hr hc waits).trans (pressure_eq x u)
  · rw [readyCheck_context, hc, Option.map_some, if_pos ⟨ready.1, (readyToCommit_iff u c x).2 ready.2⟩]
  · rw [readyCheck_context, hc, Option.map_some,
      if_neg fun ready => notReady ⟨ready.1, (readyToCommit_iff u c x).1 ready.2⟩]
  · rw [exec_slotGrant hr hc, if_neg (Nat.not_le.2 waits)]
  · rw [exec_slotGrant hr hc, if_pos room]
  · obtain ⟨requests, x', h⟩ := grant_served hc room (poisonedItems_eq_nil.2 readable) recency distinct
    refine ⟨?_, x', h.context, h.members, h.records, h.phase, h.served⟩
    rw [requests, hr]
    exact List.filter_cons_of_neg (by simp)
  · have poisoned : poisonedItems s x = x.recordNumbers.filter fun n => unheld s n && s.store.poisoned n :=
      if_neg (by rw [other]; exact Bool.false_ne_true)
    have granted := grant_of_poisoned hc (poisoned ▸ listed)
    rw [poisoned] at granted
    exact ⟨granted ▸ readyCheck_free (raiseFaults_free _ (failContext_free _ _ c _)), granted⟩

end SlotGrant

end Sys2Proof.Machine

/-! # The record cache and the poison list stay sound (R81, R84, R96, R114) -/

namespace Sys2Proof.Machine

section CacheStaysSound

variable {s t : State} {k : SlotId} {y : Slot} {n : Nat}

/-- What O5 says of a state: a record in at most one slot, listed records apart from the slots, the bound of the poison
list, and the recency order. -/
def CacheSound (s : State) : Prop := SlotsDistinct s ∧ PoisonApart s ∧ PoisonProper s ∧ RecencyProper s

theorem Reaction.poisonProper (h : Reaction s t) (p : PoisonProper s) : PoisonProper t := by
  have poison : t.store.poison = s.store.poison := congrArg Kept.poison h.kept
  unfold PoisonProper
  rw [poison]
  exact p

theorem Reaction.cacheSound (h : Reaction s t) : CacheSound s → CacheSound t :=
  fun ⟨distinct, apart, proper, recency⟩ => ⟨h.slots distinct, h.apart apart, h.poisonProper proper, h.recent recency⟩

/-! ## Operations that are no reactions -/

/-- The store goes on with no new fill job and no record newly listed. -/
theorem CacheSound.setStore {st : Store} (q : CacheSound s) (hp : st.poison.Sublist s.store.poison)
    (hj : ∀ k n, Job.fill k n ∈ st.jobs → Job.fill k n ∈ s.store.jobs) : CacheSound (s.setStore st) := by
  obtain ⟨distinct, ⟨unlisted, filling⟩, ⟨nodup, bound⟩, recency⟩ := q
  exact ⟨distinct, ⟨fun k y hy hm => unlisted k y hy (hp.subset hm), fun k n hm => filling k n (hj k n hm)⟩,
    ⟨nodup.sublist hp, hp.length_le.trans bound⟩, recency⟩

/-- An unreadable record that no slot holds is listed (R111). -/
theorem CacheSound.addPoison (q : CacheSound s) (unheld : ∀ k y, s.cache.slots[(k : SlotId)] = some y → y.record ≠ n) :
    CacheSound (s.setStore (s.store.addPoison n)) := by
  obtain ⟨distinct, ⟨unlisted, filling⟩, ⟨nodup, bound⟩, recency⟩ := q
  have jobs : (s.store.addPoison n).jobs = s.store.jobs := by
    unfold Store.addPoison
    split <;> rfl
  refine ⟨distinct, ⟨fun k y hy hm => ?_, fun k m hm => filling k m (jobs ▸ hm)⟩,
    ⟨addPoison_nodup _ _ nodup, addPoison_length _ _ bound⟩, recency⟩
  rcases mem_addPoison hm with e | listed
  · exact absurd e (unheld k y hy)
  · exact unlisted k y hy listed

/-- A slot that no fill job fills is freed. -/
theorem CacheSound.freeSlot (q : CacheSound s) (idle : ∀ n, Job.fill k n ∉ s.store.jobs) :
    CacheSound (freeSlot k s) := by
  obtain ⟨distinct, ⟨unlisted, filling⟩, proper, ⟨nodup, recency⟩⟩ := q
  have slot_of_some : ∀ {k' : SlotId} {z}, (Machine.freeSlot k s).cache.slots[k'] = some z ↔
      k' ≠ k ∧ s.cache.slots[k'] = some z := by
    intro k' z
    rw [freeSlot_slots]
    split <;> simp [*]
  refine ⟨slotsDistinct_of_sub (fun k' => ?_) distinct,
    ⟨fun k' z hz => unlisted k' z (slot_of_some.1 hz).2, fun k' m hm => ?_⟩, proper,
    ⟨nodup.filter _, fun k' => ?_⟩⟩
  · unfold slotRecord
    rw [freeSlot_slots]
    split
    · exact .inl rfl
    · exact .inr rfl
  · obtain ⟨z, hz, hf, hn⟩ := filling k' m hm
    have other : k' ≠ k := fun e => idle m (e ▸ hm)
    exact ⟨z, slot_of_some.2 ⟨other, hz⟩, hf, hn⟩
  · show k' ∈ s.cache.recency.filter (· != k) ↔ _
    simp only [List.mem_filter, recency k', slot_of_some, bne_iff_ne, and_comm (b := k' ≠ k), and_assoc, exists_and_left]

/-- A slot whose record is unlisted and which no fill job fills becomes RESIDENT, the most recently claimed (R84, R96,
R97). -/
theorem CacheSound.enterResident (q : CacheSound s) (hy : s.cache.slots[k] = some y)
    (unpoisoned : y.record ∉ s.store.poison) (idle : ∀ n, Job.fill k n ∉ s.store.jobs) (c : Resident) :
    CacheSound (mostRecent k (s.setSlot k (some { y with phase := .resident c }))) := by
  obtain ⟨distinct, ⟨unlisted, filling⟩, proper, ⟨nodup, recency⟩⟩ := q
  set u := mostRecent k (s.setSlot k (some { y with phase := .resident c }))
  have slots : ∀ k' : SlotId, u.cache.slots[k'] =
      if k' = k then some { y with phase := .resident c } else s.cache.slots[k'] := fun k' => getElem_set_fin _ _ _ _
  refine ⟨slotsDistinct_of_sub (fun k' => .inr ?_) distinct, ⟨fun k' z hz hm => ?_, fun k' m hm => ?_⟩, proper,
    ⟨List.nodup_append.2 ⟨nodup.filter _, by simp, fun a ha b hb => ?_⟩, fun k' => ?_⟩⟩
  · unfold slotRecord
    rw [slots]
    split
    · next e => rw [e, hy]; rfl
    · rfl
  · rw [slots] at hz
    split at hz
    · cases hz
      exact absurd hm unpoisoned
    · exact unlisted k' z hz hm
  · obtain ⟨z, hz, hf, hn⟩ := filling k' m hm
    have other : k' ≠ k := fun e => idle m (e ▸ hm)
    exact ⟨z, by rw [slots, if_neg other]; exact hz, hf, hn⟩
  · rw [List.mem_singleton.1 hb]
    simpa using (List.mem_filter.1 ha).2
  · show k' ∈ s.cache.recency.filter (· != k) ++ [k] ↔ _
    rw [List.mem_append, List.mem_filter, recency k', List.mem_singleton, slots]
    split
    · next e => simp [e, Slot.isResident]
    · next e => simp [e]

/-! ## Reports, events and commands -/

theorem cacheSound_ite {c : Prop} [Decidable c] {u v : State} (hu : CacheSound u) (hv : CacheSound v) :
    CacheSound (if c then u else v) := by
  split
  · exact hu
  · exact hv

theorem cacheSound_event {f : State → State} (h : CacheSound s → CacheSound (f s)) (q : CacheSound s) :
    CacheSound (event f s) := (reaction_adminMessage _ _).cacheSound (h q)

theorem cacheSound_onReport {α : Type} {kind : TransferKind → Option α} {handle : α → State → State}
    (h : ∀ a s, CacheSound s → CacheSound (handle a s)) (xfer : Nat) (q : CacheSound s) :
    CacheSound (onReport kind handle xfer s) := by
  have dropped : CacheSound (dropTransfer xfer s) := q
  unfold onReport
  split
  · exact q
  · split
    · exact q
    · exact cacheSound_ite (h _ _ dropped) dropped

/-- A report that is handled by a reaction, as an event. -/
theorem cacheSound_report {α : Type} {kind : TransferKind → Option α} {handle : α → State → State}
    (h : ∀ a s, Reaction s (handle a s)) (xfer : Nat) (q : CacheSound s) :
    CacheSound (event (onReport kind handle xfer) s) :=
  cacheSound_event (cacheSound_onReport (fun a s => (h a s).cacheSound) xfer) q

theorem cacheSound_onReadComplete {α : Type} {kind : TransferKind → Option α} {handle : α → State → State}
    (h : ∀ a s, CacheSound s → CacheSound (handle a s)) (xfer : Nat) (q : CacheSound s) :
    CacheSound (onReadComplete kind handle xfer s) := cacheSound_ite (cacheSound_onReport h xfer q) q

theorem cacheSound_takeCommand {row : Nat → Bool} {run : Entry → State → State}
    (h : ∀ e s, CacheSound s → CacheSound (run e s)) (xfer : Nat) (e : Entry) (q : CacheSound s) :
    CacheSound (takeCommand row run xfer e s) :=
  cacheSound_ite (cacheSound_event (cacheSound_onReadComplete (fun _ t ht =>
    (reaction_settle _).cacheSound (h e _ ((reaction_beginCommand e t).cacheSound ht))) xfer) q) q

theorem cacheSound_whileOperating {run : State → State} (h : ∀ s, CacheSound s → CacheSound (run s))
    (value : BitVec 32) (q : CacheSound s) : CacheSound (whileOperating value run s) :=
  cacheSound_ite ((reaction_completeCommand _ _ s).cacheSound q) (h s q)

/-- A command that a FAILED device refuses with result value 0. -/
theorem cacheSound_operatingCommand {row : Nat → Bool} {run : Entry → State → State}
    (h : ∀ e s, CacheSound s → CacheSound (run e s)) (xfer : Nat) (e : Entry) (q : CacheSound s) :
    CacheSound (takeCommand row (fun e => whileOperating 0 (run e)) xfer e s) :=
  cacheSound_takeCommand (fun e _ => cacheSound_whileOperating (h e) 0) xfer e q

/-! ## Resets and registers -/

theorem cacheSound_powerOn (sz1 sz0 : Bool) (s : State) : CacheSound (powerOn sz1 sz0 s) :=
  ⟨resetSound.slots, resetSound.apart, resetSound.poison, resetSound.recency⟩

theorem cacheSound_functionReset (q : CacheSound s) : CacheSound (functionReset s) := by
  have abandoned := (reaction_abandonContexts (s.setResetPhase .functionReset)).cacheSound q
  have dropped : CacheSound (dropAtReset (s.setResetPhase .functionReset)) := abandoned
  exact ((reaction_releaseSlotsWith reaction_raiseFault _ _).trans (reaction_drainingCheck _)).cacheSound dropped

theorem cacheSound_registerWrite {f : State → State} (h : CacheSound s → CacheSound (f s)) (q : CacheSound s) :
    CacheSound (registerWrite f s) := cacheSound_ite (cacheSound_event h q) q

theorem cacheSound_openAdmin (q : CacheSound s) : CacheSound (openAdmin s) := by
  have opened : CacheSound (((s.setAdminPhase .opened).setAdminRings (some (openedRings s.regs))).setStatus 0 .idle) := q
  exact cacheSound_ite (((reaction_postPending _).trans (reaction_considerAdminRead _)).cacheSound opened) q

theorem cacheSound_writeDevControl (enable msgEn : Bool) (q : CacheSound s) :
    CacheSound (writeDevControl enable msgEn s) :=
  cacheSound_ite (cacheSound_openAdmin (s := (s.setRegs { s.regs with adminMsgEn := msgEn }).setRegs _) q) q

theorem cacheSound_writeConfig (offset : Nat) (width : AccessWidth) (v : BitVec 64) (q : CacheSound s) :
    CacheSound (writeConfig offset width v s) := cacheSound_ite q q

/-! ## Takes -/

theorem cacheSound_handToContext (r : RingId) (ms : List Member) (q : CacheSound s) :
    CacheSound (handToContext r ms s) := by
  unfold handToContext
  split
  · unfold beginStoreRead
    split
    · exact cacheSound_ite q q
    · exact q
  · exact q

theorem cacheSound_takeFrom (r : RingId) (q : CacheSound s) : CacheSound (takeFrom r s) := by
  unfold takeFrom
  split
  · exact q
  · next w _ =>
    split
    · exact q
    · next ps _ =>
      have taken : CacheSound (unitTaken r w ps.length s) := by
        unfold unitTaken reserve
        split <;> exact q
      refine (reaction_settle _).cacheSound ?_
      unfold carryOut
      split
      · exact ((reaction_postUnit _ _ _).trans (reaction_raiseFaults _ _)).cacheSound taken
      · exact cacheSound_handToContext r _ taken

theorem cacheSound_takeUnit (k : UnitKind) (q : CacheSound s) : CacheSound (takeUnit k s) := by
  unfold takeUnit
  split
  · next r s1 h =>
    have chosen : CacheSound s1 := by
      rcases arbitrate_state h with rfl | rfl <;> exact q
    exact cacheSound_ite (cacheSound_event (cacheSound_takeFrom r) chosen) q
  · exact q

/-! ## The failure of a STORE's read -/

theorem endOutstanding_cache (r : RingId) (slot : Nat) (s : State) : (endOutstanding r slot s).cache = s.cache := by
  unfold endOutstanding
  split <;> rfl

theorem postFrom_cache (r rr : RingId) (count member : Nat) (posts : List Posting) (s : State) :
    (postFrom r rr count member posts s).cache = s.cache := by
  induction posts generalizing member s with
  | nil => rfl
  | cons p rest ih =>
    refine (ih (member + 1) _).trans ?_
    unfold postResult
    split
    · rfl
    · exact endOutstanding_cache _ _ _

theorem writeStatus_cache (e : Fin 16) (index : Nat) (s : State) : (writeStatus e index s).cache = s.cache := by
  unfold writeStatus
  split <;> rfl

theorem retireRing_cache (r : RingId) (s : State) : (retireRing r s).cache = s.cache := by
  unfold retireRing
  split
  · rfl
  · split
    · rfl
    · exact writeStatus_cache _ _ _

theorem coalesceCheck_cache (rr : RingId) (s : State) : (coalesceCheck rr s).cache = s.cache := by
  unfold coalesceCheck
  split
  · rfl
  · split
    · unfold causeMessage
      dsimp only
      split <;> rfl
    · rfl

theorem postUnit_cache (r : RingId) (posts : List Posting) (s : State) : (postUnit r posts s).cache = s.cache := by
  unfold postUnit
  split
  · rfl
  · rw [coalesceCheck_cache, retireRing_cache, postFrom_cache]

/-- The state of a slot, if it is not FREE. -/
def slotPhase (s : State) (k : SlotId) : Option SlotPhase := (s.cache.slots[k]).map Slot.phase

theorem slotPhase_leaveQueues (c : CtxId) (s : State) (k : SlotId) : slotPhase (leaveQueues c s) k = slotPhase s k := by
  unfold slotPhase leaveQueues
  rw [State.setCache_cache, getElem_map_fin, Option.map_map]
  rfl

/-- The end of a context takes it out of claim queues and leaves every slot in its state (R72). -/
theorem slotPhase_endContext (c : CtxId) (s : State) (k : SlotId) : slotPhase (endContext c s) k = slotPhase s k := by
  unfold endContext
  split
  · rfl
  · unfold slotPhase
    rw [postUnit_cache]
    exact slotPhase_leaveQueues c (s.setContext c none) k

theorem slotPhase_failContext (records : List Nat) (st : Status) (c : CtxId) (s : State) (k : SlotId) :
    slotPhase (failContext records st c s) k = slotPhase s k := by
  unfold failContext
  split
  · rfl
  · exact slotPhase_endContext c _ k

theorem slotPhase_failContexts (records : List Nat) (st : Status) (cs : List CtxId) (s : State) (k : SlotId) :
    slotPhase (cs.foldl (fun acc c => failContext records st c acc) s) k = slotPhase s k :=
  List.foldlRecOn (motive := fun u => slotPhase u k = slotPhase s k) cs _ rfl
    fun u h c _ => (slotPhase_failContext records st c u k).trans h

theorem CacheSound.idle (q : CacheSound s) (h : slotPhase s k ≠ some .filling) (n : Nat) :
    Job.fill k n ∉ s.store.jobs := fun hm => by
  obtain ⟨-, ⟨-, filling⟩, -, -⟩ := q
  obtain ⟨y, hy, hf, -⟩ := filling k n hm
  exact h (by rw [slotPhase, hy]; exact congrArg some hf)

theorem cacheSound_failStoreRead (c : CtxId) (q : CacheSound s) : CacheSound (failStoreRead c s) := by
  cases hc : s.contexts[c] with
  | none =>
    unfold failStoreRead
    rw [hc]
    exact q
  | some x =>
    have ended := (reaction_setContextSome c (some x.hostFaulted) hc).trans (reaction_endContext c _)
    cases ha : awaitingHeaded s c x with
    | none =>
      rw [failStoreRead_alone hc ha]
      exact ((ended.trans (reaction_raiseFaults _ _)).trans (reaction_settle _)).cacheSound q
    | some found =>
      obtain ⟨k, record, others⟩ := found
      have awaiting : slotPhase s k = some .awaitingStore := by
        rw [awaitingHeaded_eq] at ha
        obtain ⟨i, -, headed⟩ := List.exists_of_findSome?_eq_some ha
        obtain ⟨y, hy, phase, -, -⟩ := headedSlot_eq_some headed
        rw [slotPhase, hy]
        exact congrArg some phase
      have left := (ended.trans (reaction_failContexts [record] .poisoned others _)).cacheSound q
      rw [failStoreRead_ahead hc ha]
      refine ((reaction_raiseFaults _ _).trans (reaction_settle _)).cacheSound (left.freeSlot (left.idle ?_))
      rw [slotPhase_failContexts, slotPhase_endContext]
      exact fun e => by cases awaiting.symm.trans e

/-! ## Commits -/

theorem reaction_writeImage (x : Context) (record : Nat) (image : Record) (set : LaneSet) (s : State) :
    Reaction s (writeImage x record image set s) := by
  unfold writeImage
  split
  · exact .refl s
  · next k y held =>
    split
    · next c hc => exact reaction_setResident k (heldSlot_spec held).1 hc rfl rfl
    · exact .refl s

theorem reaction_applyMember (x : Context) (s : State) (v : Evaluated) : Reaction s (applyMember x s v) := by
  unfold applyMember
  split
  · exact reaction_writeImage ..
  · exact .refl s

theorem cacheSound_consultProbes (r : RingId) (vs : List Evaluated) (q : CacheSound s) :
    CacheSound (consultProbes r vs s) := by
  refine List.foldlRecOn (motive := CacheSound) _ _ q fun u hu p _ => ?_
  unfold examineProbe
  split
  · split
    · exact (reaction_raiseNotice _ _).cacheSound (s := u.setProbe p _) hu
    · exact hu
  · exact hu

theorem cacheSound_finishCommit (c : CtxId) (x : Context) (ms : List Member) (q : CacheSound s) :
    CacheSound (finishCommit c x ms s) := by
  have left := (reaction_leaveQueues c (s.setContext c (some (x.committed ms)))).cacheSound q
  exact (reaction_settle _).cacheSound (cacheSound_ite ((reaction_endContext c _).cacheSound left)
    ((reaction_issueImages c 0 ms _).cacheSound left))

theorem cacheSound_applyAll (c : CtxId) (x : Context) (vs : List Evaluated) (q : CacheSound s) :
    CacheSound (applyAll c x vs s) :=
  cacheSound_finishCommit c x _ (cacheSound_consultProbes x.ring vs
    ((Reaction.foldl (reaction_applyMember x) vs s).cacheSound q))

theorem cacheSound_commitUpdate (c : CtxId) (x : Context) (s : State) (q : CacheSound s) :
    CacheSound (commitUpdate c x s) := by
  unfold commitUpdate
  split
  · exact cacheSound_applyAll c x _ q
  · exact q

theorem cacheSound_commitFetch (c : CtxId) (x : Context) (s : State) (q : CacheSound s) :
    CacheSound (commitFetch c x s) := by
  unfold commitFetch
  split
  · exact cacheSound_finishCommit c x _ q
  · exact q

theorem cacheSound_commitBundle (c : CtxId) (x : Context) (s : State) (q : CacheSound s) :
    CacheSound (commitBundle c x s) := by
  unfold commitBundle
  split
  · exact cacheSound_ite (cacheSound_applyAll c x _ q) (cacheSound_finishCommit c x _ q)
  · exact q

/-- A STORE's image goes into a slot whose record is off the poison list (R97, R112). -/
theorem cacheSound_storeImage (x : Context) (data : Record) (unlisted : n ∉ s.store.poison) (q : CacheSound s) :
    CacheSound (storeImage x n data s) := by
  unfold storeImage
  split
  · exact q
  · next k y held =>
    obtain ⟨hy, rfl⟩ := heldSlot_spec held
    split
    · next awaiting =>
      refine q.enterResident hy unlisted (q.idle ?_) _
      rw [slotPhase, hy]
      exact fun e => by cases awaiting.symm.trans (Option.some.inj e)
    · exact (reaction_writeImage ..).cacheSound q

/-- A STORE's image does not depend on the record store. -/
theorem storeImage_setStore (x : Context) (record : Nat) (data : Record) (st : Store) (s : State) :
    (storeImage x record data s).setStore st = storeImage x record data (s.setStore st) := by
  have held : heldSlot (s.setStore st) x record = heldSlot s x record := rfl
  unfold storeImage writeImage
  rw [held]
  cases heldSlot s x record with
  | none => rfl
  | some ky =>
    obtain ⟨k, y⟩ := ky
    cases hp : y.phase <;> simp only [hp] <;> rfl

theorem cacheSound_commitStore (c : CtxId) (x : Context) (s : State) (q : CacheSound s) :
    CacheSound (commitStore c x s) := by
  unfold commitStore
  split
  · next m data _ _ =>
    refine cacheSound_finishCommit c x _ ?_
    rw [storeImage_store, storeImage_setStore]
    exact cacheSound_storeImage x data (not_mem_removePoison s.store m.source)
      (q.setStore (removePoison_sublist s.store m.source) fun _ _ => id)
  · exact q

theorem cacheSound_commitOn {kind : Context → Bool} {effect : CtxId → Context → State → State}
    (h : ∀ c x s, CacheSound s → CacheSound (effect c x s)) (c : CtxId) (q : CacheSound s) :
    CacheSound (commitOn kind effect c s) := by
  unfold commitOn
  split
  · exact q
  · next x _ =>
    refine cacheSound_ite (cacheSound_event (fun _ => ?_) q) q
    split
    · exact (reaction_raiseSettled _ s).cacheSound q
    · exact h c x s q

/-! ## The ends of jobs -/

theorem mem_of_fillJob {st : Store} (h : st.fillJob k = some n) : Job.fill k n ∈ st.jobs := by
  obtain ⟨j, hj, found⟩ := List.exists_of_findSome?_eq_some h
  cases j with
  | fill slot record =>
    obtain ⟨rfl, same⟩ := Option.ite_none_right_eq_some.1 found
    cases same
    exact hj
  | writeBack => cases found
  | regionFill => cases found

/-- The end of a fill takes the slot's fill job out, and lists nothing. -/
theorem CacheSound.endFill (q : CacheSound s) (k : SlotId) (n : Nat) (errors : Vector WordErrors 4) :
    CacheSound (s.setStore (s.store.endFill k n errors)) ∧ ∀ m, Job.fill k m ∉ (s.store.endFill k n errors).jobs := by
  have content := endFill_content s.store k n errors
  have jobs : ∀ j, j ∈ (s.store.endFill k n errors).jobs ↔ j ∈ s.store.jobs ∧ ¬j.isFill k = true := fun j => by
    rw [content.jobs, List.mem_filter, Bool.not_eq_true']
    simp
  exact ⟨q.setStore (by rw [content.poison]) fun k' m hm => ((jobs _).1 hm).1,
    fun m hm => ((jobs _).1 hm).2 (beq_self_eq_true k)⟩

theorem cacheSound_residentFill (hy : s.cache.slots[k] = some y) (unlisted : y.record ∉ s.store.poison)
    (idle : ∀ n, Job.fill k n ∉ s.store.jobs) (image : Record) (corrected : Bool) (q : CacheSound s) :
    CacheSound (residentFill k y image corrected s) :=
  cacheSound_ite (q.freeSlot idle) (q.enterResident hy unlisted idle _)

theorem cacheSound_completeFill (errors : Vector WordErrors 4) (hj : s.store.fillJob k = some n) (q : CacheSound s) :
    CacheSound (completeFill k n errors s) := by
  obtain ⟨ended, idle⟩ := q.endFill k n errors
  obtain ⟨-, ⟨listed, filling⟩, -, -⟩ := q
  obtain ⟨y, hy, phase, rfl⟩ := filling k n (mem_of_fillJob hj)
  have unlisted : y.record ∉ (s.store.endFill k y.record errors).poison := fun hm => by
    rw [(endFill_content s.store k y.record errors).poison] at hm
    cases phase.symm.trans (listed k y hy hm)
  have resident := fun image corrected =>
    cacheSound_residentFill (s := s.setStore (s.store.endFill k y.record errors)) hy unlisted idle image corrected ended
  unfold completeFill
  rw [hy]
  refine (reaction_settle _).cacheSound (cacheSound_ite (resident _ _) ?_)
  exact (reaction_raiseFault _ _).cacheSound (resident _ _)

theorem cacheSound_failFill (errors : Vector WordErrors 4) (hj : s.store.fillJob k = some n) (q : CacheSound s) :
    CacheSound (failFill k n errors s) := by
  obtain ⟨ended, idle⟩ := q.endFill k n errors
  obtain ⟨distinct, ⟨-, filling⟩, -, -⟩ := q
  obtain ⟨y, hy, -, rfl⟩ := filling k n (mem_of_fillJob hj)
  have freed := (ended.freeSlot idle).addPoison (n := y.record) fun k' z hz same => by
    rw [freeSlot_slots] at hz
    split at hz
    · cases hz
    · next other =>
      refine other (distinct k' k ?_ ?_)
      · rw [slotRecord_eq (s := s) hz]
        simp
      · rw [slotRecord_eq (s := s) hz, slotRecord_eq hy, same]
  rw [failFill_eq hy]
  exact (((reaction_failContexts _ _ _ _).trans (reaction_raiseFaults _ _)).trans (reaction_settle _)).cacheSound freed

@[simp] theorem awaitedEnd_cache (k : SlotId) (s : State) : (awaitedEnd k s).cache = s.cache := by
  unfold awaitedEnd
  split
  · split <;> simp
  · simp

theorem reaction_afterWriteBack (k : SlotId) (y : Slot) (c : Resident) (h : slotPhase s k ≠ some .filling) :
    Reaction s (afterWriteBack k y c s) := by
  have ended := reaction_awaitedEnd k s
  unfold afterWriteBack
  split
  · split
    · refine ended.trans (reaction_freeSlot k _ fun z hz e => h ?_)
      rw [awaitedEnd_cache] at hz
      rw [slotPhase, hz]
      exact congrArg some e
    · exact ended
  · split
    · exact ended.trans (reaction_startWriteBack k _)
    · exact ended

theorem cacheSound_completeWriteBack (k : SlotId) (n : Nat) (lanes : Record) (set : LaneSet) (q : CacheSound s) :
    CacheSound (completeWriteBack k n lanes set s) := by
  have tables := writeLanes_tables (s.store.endJobs (Job.isWriteBack k)) n lanes set
  have written : CacheSound (s.setStore (writeLanes (s.store.endJobs (Job.isWriteBack k)) n lanes set)) :=
    q.setStore (tables.poison ▸ .refl _) fun k' m hm => (List.mem_filter.1 (tables.jobs ▸ hm)).1
  cases hy : s.cache.slots[k] with
  | none =>
    unfold completeWriteBack
    rw [hy]
    exact written
  | some y =>
    by_cases hc : ∃ c, y.phase = .resident c
    · obtain ⟨c, hc⟩ := hc
      have ended : Reaction (s.setStore _) (writeBackEnded k n lanes set y c s) :=
        reaction_setResident k (s := s.setStore _) hy hc rfl rfl
      rw [completeWriteBack_resident hy hc]
      refine (reaction_settle _).cacheSound ((reaction_afterWriteBack k y c ?_).cacheSound (ended.cacheSound written))
      unfold slotPhase writeBackEnded
      rw [State.setSlot_slots, getElem_set_fin, if_pos rfl]
      exact fun e => by cases e
    · unfold completeWriteBack
      rw [hy]
      dsimp only
      split
      · next c phase => exact absurd ⟨c, phase⟩ hc
      · exact written

/-- The end of a region fill takes jobs out, and records off the poison list (R109). -/
theorem cacheSound_fillRecords (pattern : Record) (first count : Nat) (p : Job → Bool) (q : CacheSound s) :
    CacheSound (s.setStore ((fillRecords s.store pattern first count).endJobs p)) := by
  have tables := fillRecords_tables s.store pattern first count
  exact q.setStore (tables.poison ▸ .refl _) fun k m hm => tables.jobs ▸ (List.mem_filter.1 hm).1

theorem cacheSound_completeRegionFill (first last : Nat) (pattern : Record) (next : Nat) (q : CacheSound s) :
    CacheSound (completeRegionFill first last pattern next s) := by
  have filled := (cacheSound_fillRecords pattern next (last + 1 - next) Job.isRegionFill q).setStore
    (removePoisonRange_sublist _ first last) fun _ _ => id
  unfold completeRegionFill finishDefine
  refine (reaction_settle _).cacheSound ?_
  split
  · exact (reaction_completeCommand _ _ _).cacheSound (s := (s.setStore _).setRegion _ _) filled
  · exact filled

/-! ## Admin commands -/

theorem cacheSound_haltAdmin (q : CacheSound s) : CacheSound (haltAdmin s) := by
  unfold haltAdmin
  split <;> exact q

theorem cacheSound_failAdminRead (a : Unit) (s : State) (q : CacheSound s) : CacheSound (failAdminRead a s) :=
  ((reaction_postPending _).trans (reaction_raiseSettled _ _)).cacheSound (cacheSound_haltAdmin q)

theorem cacheSound_refuse (st : AdminStatus) (q : CacheSound s) : CacheSound (refuse st s) :=
  (reaction_refuse st s).cacheSound q

theorem cacheSound_deleteWork (e : Entry) (q : CacheSound s) : CacheSound (deleteWork e s) := by
  unfold deleteWork
  split
  · split
    · exact cacheSound_refuse _ q
    · exact ((reaction_setProgress _ _).trans (reaction_deleteCheck _ _)).cacheSound (s := s.setWork _ _) q
  · exact cacheSound_refuse _ q

theorem cacheSound_defineAccepted (e : Entry) (n : RegionId) (rg : Region) (q : CacheSound s) :
    CacheSound (defineAccepted e n rg s) :=
  cacheSound_ite
    (((reaction_issueJob (s := s.setRegion n { rg with phase := .filling }) _ (by simp)).trans
      (reaction_setProgress _ _)).cacheSound q)
    ((reaction_done (s.setRegion n rg)).cacheSound q)

theorem cacheSound_defineRegion (e : Entry) (q : CacheSound s) : CacheSound (defineRegion e s) := by
  unfold defineRegion
  split
  · exact cacheSound_ite (cacheSound_refuse _ q) (cacheSound_ite (cacheSound_refuse _ q)
      (cacheSound_ite (cacheSound_refuse _ q) (cacheSound_defineAccepted e _ _ q)))
  · exact cacheSound_refuse _ q

theorem cacheSound_retireRegion (e : Entry) (q : CacheSound s) : CacheSound (retireRegion e s) := by
  unfold retireRegion
  split
  · exact cacheSound_refuse _ q
  · exact cacheSound_ite (cacheSound_refuse _ q)
      (((reaction_setProgress _ _).trans (reaction_retireCheck _)).cacheSound (s := (s.setRegion _ _).setProbes _) q)

theorem cacheSound_armProbe (e : Entry) (q : CacheSound s) : CacheSound (armProbe e s) := by
  unfold armProbe
  dsimp only
  split
  · exact cacheSound_ite (cacheSound_refuse _ q) (cacheSound_ite (cacheSound_refuse _ q)
      ((reaction_done _).cacheSound (s := s.setProbe _ _) q))
  · exact cacheSound_refuse _ q

theorem cacheSound_disarmProbe (e : Entry) (q : CacheSound s) : CacheSound (disarmProbe e s) := by
  unfold disarmProbe
  split
  · exact cacheSound_refuse _ q
  · next p _ =>
    have disarmed : CacheSound (s.setProbe p .disarmed) := q
    split
    · exact (reaction_finishCommand _ _ _).cacheSound disarmed
    all_goals exact (reaction_done _).cacheSound disarmed

theorem cacheSound_releaseLog (e : Entry) (q : CacheSound s) : CacheSound (releaseLog e s) :=
  cacheSound_ite (cacheSound_refuse _ q) ((reaction_completeCommand _ _ _).cacheSound (s := s.setFaults _) q)

theorem cacheSound_setPolicy (e : Entry) (q : CacheSound s) : CacheSound (setPolicy e s) := by
  have refused := (reaction_completeCommand .invalidParameter (policyValue e s.faults) s).cacheSound q
  unfold setPolicy
  split
  · exact cacheSound_ite refused ((reaction_completeCommand _ _ _).cacheSound (s := s.setFaults _) q)
  · exact refused

theorem cacheSound_setCleaner (e : Entry) (q : CacheSound s) : CacheSound (setCleaner e s) :=
  cacheSound_ite ((reaction_completeCommand _ _ _).cacheSound q)
    (((reaction_cleanNow _).trans (reaction_completeCommand _ _ _)).cacheSound (s := s.setAgeLimit _) q)

/-! ## Every command -/

/-- The next state that a command answers, where it answers one, is sound. -/
def AnswersSound (o : Result) : Prop := ∀ t, o = .next t → CacheSound t

theorem AnswersSound.next (q : CacheSound s) : AnswersSound (.next s) := fun t h => by
  cases h
  exact q

theorem AnswersSound.withinStore {u : State} (q : CacheSound u) : AnswersSound (withinStore s n u) := fun _ h =>
  (withinStore_next h).2 ▸ q

theorem answersSound_ite {c : Prop} [Decidable c] {o o' : Result} (h : AnswersSound o) (h' : AnswersSound o') :
    AnswersSound (if c then o else o') := by
  split
  · exact h
  · exact h'

theorem answersSound_fillComplete (k : SlotId) (errors : Vector WordErrors 4) (q : CacheSound s) :
    AnswersSound (execFillComplete k errors s) := by
  unfold execFillComplete
  split
  · exact .next q
  · next hj => exact answersSound_ite (.withinStore (cacheSound_event (cacheSound_completeFill errors hj) q)) (.next q)

theorem answersSound_fillUncorrectable (k : SlotId) (errors : Vector WordErrors 4) (q : CacheSound s) :
    AnswersSound (execFillUncorrectable k errors s) := by
  unfold execFillUncorrectable
  split
  · exact .next q
  · next hj => exact answersSound_ite (.next q) (.withinStore (cacheSound_event (cacheSound_failFill errors hj) q))

theorem answersSound_writeBackComplete (k : SlotId) (q : CacheSound s) :
    AnswersSound (execWriteBackComplete k s) := by
  unfold execWriteBackComplete
  split
  · exact .next q
  · exact .withinStore (cacheSound_event (cacheSound_completeWriteBack k _ _ _) q)

theorem answersSound_regionFillComplete (q : CacheSound s) : AnswersSound (execRegionFillComplete s) := by
  unfold execRegionFillComplete
  split
  · exact .next q
  · exact answersSound_ite (.next q) (.withinStore (cacheSound_event (cacheSound_completeRegionFill _ _ _ _) q))

theorem answersSound_regionFillStopped (current : Nat) (q : CacheSound s) :
    AnswersSound (execRegionFillStopped current s) := by
  unfold execRegionFillStopped
  split
  · exact .next q
  · next pattern next _ =>
    exact answersSound_ite (.withinStore (u := stopRegionFill pattern next current s)
      (cacheSound_fillRecords pattern next (current + 1 - next) Job.isRegionFill q)) (.next q)

/-- Every command keeps the cache and the poison list sound. -/
theorem answersSound_exec (c : Instr) (q : CacheSound s) : AnswersSound (exec c s) := by
  cases c with
  | powerOnReset sz1 sz0 => exact .next (cacheSound_powerOn sz1 sz0 s)
  | powerOnReady => exact .next (cacheSound_ite (u := powerOnDone s) q q)
  | linkReset => exact .next (cacheSound_ite (cacheSound_functionReset q) q)
  | reset enable msgEn => exact .next (cacheSound_ite (cacheSound_functionReset (s := s.setRegs _) q) q)
  | resetEnd => exact .next (cacheSound_ite (u := resetDone s) q q)
  | enable msgEn => exact .next (cacheSound_registerWrite (cacheSound_writeDevControl true msgEn) q)
  | adminMsgEn msgEn => exact .next (cacheSound_registerWrite (cacheSound_writeDevControl false msgEn) q)
  | registerWrite offset width v => exact .next (cacheSound_registerWrite (cacheSound_writeConfig offset width v) q)
  | post r v => exact .next (cacheSound_registerWrite (reaction_writePost r v s).cacheSound q)
  | adminPost v => exact .next (cacheSound_registerWrite (reaction_writeAdminPost v s).cacheSound q)
  | release rr v => exact .next (cacheSound_registerWrite (reaction_writeRelease rr v s).cacheSound q)
  | adminRelease v => exact .next (cacheSound_registerWrite (reaction_writeAdminRelease v s).cacheSound q)
  | pendingNoticePost => exact .next (cacheSound_event (reaction_postPending s).cacheSound q)
  | fetchReadIssue r => exact .next ((reaction_issueFetch r s).cacheSound q)
  | fetchReadComplete xfer entries =>
    exact .next (cacheSound_ite (cacheSound_event (cacheSound_onReadComplete
      (fun r s => (reaction_completeFetch entries r s).cacheSound) xfer) q) q)
  | fetchReadFailure xfer => exact .next (cacheSound_report reaction_failFetch xfer q)
  | update | fetch | store | fence | nop | bundle | unknownOpcode => exact .next (cacheSound_takeUnit _ q)
  | slotGrant => exact .next ((reaction_grantHead s).cacheSound q)
  | storeReadComplete xfer data =>
    exact .next (cacheSound_event (cacheSound_onReadComplete
      (fun c s => (reaction_acceptStoreData data c s).cacheSound) xfer) q)
  | storeReadFailure xfer =>
    exact .next (cacheSound_event (cacheSound_onReport (fun c _ => cacheSound_failStoreRead c) xfer) q)
  | fillComplete k errors => exact answersSound_fillComplete k errors q
  | fillUncorrectable k errors => exact answersSound_fillUncorrectable k errors q
  | updateCommit c => exact .next (cacheSound_commitOn cacheSound_commitUpdate c q)
  | fetchCommit c => exact .next (cacheSound_commitOn cacheSound_commitFetch c q)
  | storeCommit c => exact .next (cacheSound_commitOn cacheSound_commitStore c q)
  | bundleCommit c => exact .next (cacheSound_commitOn cacheSound_commitBundle c q)
  | hostBufferWriteComplete xfer => exact .next (cacheSound_report reaction_completeBuffer xfer q)
  | hostBufferWriteFailure xfer => exact .next (cacheSound_report reaction_failBuffer xfer q)
  | resultWriteFailure xfer => exact .next (cacheSound_report (fun _ s => reaction_raiseSettled _ s) xfer q)
  | statusWriteComplete xfer =>
    exact .next (cacheSound_report (fun (w : Fin 16 × Nat) s => reaction_statusWritten w.1 s) xfer q)
  | statusWriteFailure xfer =>
    exact .next (cacheSound_report
      (fun (w : Fin 16 × Nat) s => reaction_statusFailed w.1 (statusWriteFault w.1 w.2) s) xfer q)
  | coalescingExpiry rr => exact .next (cacheSound_event (reaction_expireCoalescing rr s).cacheSound q)
  | stallExpiry rr => exact .next (cacheSound_event (reaction_expireStall rr s).cacheSound q)
  | cleanerExpiry k =>
    exact .next (cacheSound_ite
      (cacheSound_event ((reaction_startWriteBack k s).trans (reaction_settle _)).cacheSound q) q)
  | writeBackComplete k => exact answersSound_writeBackComplete k q
  | regionFillComplete => exact answersSound_regionFillComplete q
  | regionFillStopped current => exact answersSound_regionFillStopped current q
  | adminReadIssue => exact .next (cacheSound_event (reaction_considerAdminRead s).cacheSound q)
  | adminReadFailure xfer => exact .next (cacheSound_event (cacheSound_onReport cacheSound_failAdminRead xfer) q)
  | invalidCommand xfer e =>
    exact .next (cacheSound_takeCommand (fun _ s => (reaction_refuse _ s).cacheSound) xfer e q)
  | identify xfer e =>
    exact .next (cacheSound_takeCommand (fun e s => (reaction_writeAdminBuffer e _ _ s).cacheSound) xfer e q)
  | createResultRing xfer e =>
    exact .next (cacheSound_operatingCommand (fun e s => (reaction_createResult e s).cacheSound) xfer e q)
  | createWorkRing xfer e =>
    exact .next (cacheSound_operatingCommand (fun e s => (reaction_createWork e s).cacheSound) xfer e q)
  | deleteWorkRing xfer e => exact .next (cacheSound_operatingCommand (fun e _ => cacheSound_deleteWork e) xfer e q)
  | deleteResultRing xfer e =>
    exact .next (cacheSound_operatingCommand (fun e s => (reaction_deleteResult e s).cacheSound) xfer e q)
  | pauseRing xfer e =>
    exact .next (cacheSound_operatingCommand (fun e s => (reaction_pauseRing e s).cacheSound) xfer e q)
  | resumeRing xfer e =>
    exact .next (cacheSound_operatingCommand (fun e s => (reaction_resumeRing e s).cacheSound) xfer e q)
  | defineRegion xfer e => exact .next (cacheSound_operatingCommand (fun e _ => cacheSound_defineRegion e) xfer e q)
  | retireRegion xfer e => exact .next (cacheSound_operatingCommand (fun e _ => cacheSound_retireRegion e) xfer e q)
  | flushRegion xfer e =>
    exact .next (cacheSound_operatingCommand (fun e s => (reaction_flushRegion e s).cacheSound) xfer e q)
  | armProbe xfer e => exact .next (cacheSound_operatingCommand (fun e _ => cacheSound_armProbe e) xfer e q)
  | disarmProbe xfer e => exact .next (cacheSound_operatingCommand (fun e _ => cacheSound_disarmProbe e) xfer e q)
  | readFaultLog xfer e =>
    exact .next (cacheSound_takeCommand (fun e s => (reaction_writeAdminBuffer e _ _ s).cacheSound) xfer e q)
  | releaseFaultLog xfer e => exact .next (cacheSound_operatingCommand (fun e _ => cacheSound_releaseLog e) xfer e q)
  | setFaultPolicy xfer e =>
    exact .next (cacheSound_takeCommand
      (fun e _ => cacheSound_whileOperating (fun _ => cacheSound_setPolicy e) _) xfer e q)
  | listPoison xfer e =>
    exact .next (cacheSound_takeCommand (fun e s => (reaction_writeAdminBuffer e _ _ s).cacheSound) xfer e q)
  | setCleaner xfer e =>
    exact .next (cacheSound_takeCommand
      (fun e _ => cacheSound_whileOperating (fun _ => cacheSound_setCleaner e) _) xfer e q)
  | adminBufferWriteComplete xfer =>
    exact .next (cacheSound_report (fun _ s => reaction_bufferWritten (bufferValue s) s) xfer q)
  | adminBufferWriteFailure xfer =>
    exact .next (cacheSound_report (fun _ s => reaction_bufferFailed (adminBufferFault s) (bufferValue s) s) xfer q)
  | adminResultWriteFailure xfer => exact .next (cacheSound_report (fun _ s => reaction_raiseSettled _ s) xfer q)

/-- An upset bit leaves a slot its record and its state (R113). -/
theorem slotKept_upset (o : Option Slot) (u : ImageUpset) : SlotKept o (o.map fun y => y.upset u) := by
  cases o with
  | none => exact .refl _
  | some y =>
    refine .inr ⟨y, y.upset u, rfl, rfl, ?_⟩
    obtain ⟨phase, record, region, claims⟩ := y
    cases phase with
    | filling | awaitingStore => exact ⟨rfl, id, id, rfl⟩
    | resident c => exact ⟨rfl, (absurd · SlotPhase.noConfusion), (absurd · SlotPhase.noConfusion), rfl⟩

theorem cacheSound_applyUpset (u : Option ImageUpset) (q : CacheSound s) : CacheSound (applyUpset u s) := by
  cases u with
  | none => exact q
  | some u => exact (reaction_setSlot u.slot (slotKept_upset _ u)).cacheSound q

theorem mem_advanceFill {st : Store} {m : Nat} (h : Job.fill k n ∈ (st.advanceFill m).jobs) :
    Job.fill k n ∈ st.jobs := by
  obtain ⟨j, hj, e⟩ := List.mem_map.1 h
  cases j with
  | regionFill => cases e
  | fill | writeBack => exact e ▸ hj

/-- A microsecond upsets a bit and writes records of a region fill, whose job it moves on. -/
theorem cacheSound_tick (q : CacheSound s) : CacheSound (tick s) := by
  have upset := cacheSound_applyUpset (Config.imageUpset s.now) q
  unfold tick advanceRegionFill
  dsimp only
  split
  · exact upset
  · next last pattern next _ =>
    have tables := fillRecords_tables (applyUpset (Config.imageUpset s.now) s).store pattern next
      (fillStride (applyUpset (Config.imageUpset s.now) s).store (Config.fillPace s.now) last next)
    split
    · exact upset
    · exact upset.setStore (tables.poison ▸ .refl _) fun k m hm => tables.jobs ▸ mem_advanceFill hm

/-- Settles O5: a reaction keeps the four together, and the event's own effects are shown to: a freed slot has no fill
job, a slot becomes RESIDENT with its record off the poison list, and a record is listed once no slot holds it. -/
theorem stepKeepsCacheSound : Obligations.StepKeepsCacheSound := by
  intro s t distinct apart proper recency h
  have q : CacheSound s := ⟨distinct, apart, proper, recency⟩
  rcases step_cases h with rfl | ⟨c, rest, _, hc⟩
  · exact cacheSound_tick q
  · exact answersSound_exec c (s := { s with pending := rest }) q t hc

end CacheStaysSound

end Sys2Proof.Machine

/-! # The start of a write-back, and the parity check at it (R86, R93) -/

namespace Sys2Proof.Machine

section WriteBackStart

variable {s t u : State} {k : SlotId} {y : Slot} {c : Resident}

/-! ## What the handling of a fault leaves of the cache and of the store controller -/

/-- The record cache and the store controller are as they were. -/
structure SlotsAndJobsKept (s t : State) : Prop where
  cache : t.cache = s.cache
  store : t.store = s.store

theorem SlotsAndJobsKept.refl (s : State) : SlotsAndJobsKept s s := ⟨rfl, rfl⟩

/-- What came before a part that keeps them, for a chain that is read from its end. -/
theorem SlotsAndJobsKept.after (h' : SlotsAndJobsKept t u) (h : SlotsAndJobsKept s t) : SlotsAndJobsKept s u :=
  ⟨h'.cache.trans h.cache, h'.store.trans h.store⟩

theorem kept_postAdmin (body : List Byte) (kind : Byte) (s : State) : SlotsAndJobsKept s (postAdmin body kind s) := by
  unfold postAdmin
  split <;> exact ⟨rfl, rfl⟩

theorem kept_raiseNotice (n : Notice) (s : State) : SlotsAndJobsKept s (raiseNotice n s) := by
  unfold raiseNotice
  split
  · exact kept_postAdmin _ _ s
  · exact ⟨rfl, rfl⟩

theorem kept_captureFault (f : RaisedFault) (s : State) : SlotsAndJobsKept s (captureFault f s) := by
  unfold captureFault
  split
  · exact .refl s
  · split
    · exact (kept_raiseNotice _ _).after ⟨rfl, rfl⟩
    · exact ⟨rfl, rfl⟩

theorem considerAdminRead_store (s : State) : (considerAdminRead s).store = s.store := by
  unfold considerAdminRead
  split
  · rfl
  · split <;> rfl

theorem writeStatus_store (e : Fin 16) (index : Nat) (s : State) : (writeStatus e index s).store = s.store := by
  unfold writeStatus
  split <;> rfl

theorem passCommand_store (s : State) : (passCommand s).store = s.store := by
  unfold passCommand
  split <;> rfl

theorem kept_completeCommand (st : AdminStatus) (value : BitVec 32) (s : State) :
    SlotsAndJobsKept s (completeCommand st value s) := by
  refine ⟨completeCommand_cache st value s, ?_⟩
  unfold completeCommand finishCommand
  split
  · rfl
  · rw [considerAdminRead_store, writeStatus_store, passCommand_store, (kept_postAdmin _ _ s).store]

theorem kept_completeDelete (r : RingId) (s : State) : SlotsAndJobsKept s (completeDelete r s) := by
  unfold completeDelete
  split
  · split
    · exact kept_completeCommand _ _ s
    · exact .refl s
  · exact .refl s

theorem kept_failDeleting (s : State) (r : RingId) : SlotsAndJobsKept s (failDeleting s r) := by
  unfold failDeleting
  split
  · exact .refl s
  · split
    · refine (kept_completeDelete r _).after ?_
      split <;> exact ⟨rfl, rfl⟩
    · exact .refl s

theorem kept_retireFinish (s : State) : SlotsAndJobsKept s (retireFinish s) := by
  unfold retireFinish
  split
  · split
    · exact .refl s
    · exact (kept_completeCommand _ _ _).after ⟨rfl, rfl⟩
  · exact .refl s

theorem endDeletions_store (s : State) : (endDeletions s).store = s.store := by
  unfold endDeletions
  exact List.foldlRecOn (motive := fun t : State => t.store = s.store) _ failDeleting rfl
    fun t h r _ => (kept_failDeleting t r).store.trans h

theorem failedBlocks_store (s : State) : (failedBlocks s).store = s.store := by
  unfold failedBlocks
  exact endDeletions_store _

/-! ## A slot whose image is unsound -/

/-- A slot is FREE, or still holds the record with an unsound image to be written back; and the store controller has no
write-back of the slot that is not in a list of jobs. -/
structure UnsoundLeft (k : SlotId) (record : Nat) (jobs : List Job) (s : State) : Prop where
  slot : ∀ y, s.cache.slots[k] = some y → y.record = record ∧
    ∃ c, y.phase = .resident c ∧ c.writeBack = false ∧ c.dirty ≠ 0 ∧ c.image.sound = false
  jobs : ∀ n lanes set, Job.writeBack k n lanes set ∈ s.store.jobs → Job.writeBack k n lanes set ∈ jobs

variable {record : Nat} {jobs : List Job}

theorem UnsoundLeft.kept (h : UnsoundLeft k record jobs s) (e : SlotsAndJobsKept s t) : UnsoundLeft k record jobs t :=
  ⟨by rw [e.cache]; exact h.slot, by rw [e.store]; exact h.jobs⟩

/-- The release of a slot with an unsound image frees it and issues no write-back of it (R86). -/
theorem UnsoundLeft.released (h : UnsoundLeft k record jobs s) {p : Slot → Bool}
    (r : SlotsReleased p (List.finRange 64) s t) : UnsoundLeft k record jobs t := by
  refine ⟨fun y hy => ?_, fun n lanes set hm => ?_⟩
  · rw [r.slots k, if_pos (List.mem_finRange k)] at hy
    obtain ⟨x, hx, hy⟩ := Option.bind_eq_some_iff.1 hy
    obtain ⟨same, c, phase, idle, dirty, unsound⟩ := h.slot x hx
    rw [released_of_resident phase idle, if_neg dirty, unsound] at hy
    split at hy
    · cases hy
    · cases hy
      exact ⟨same, c, phase, idle, dirty, unsound⟩
  · rw [r.jobs] at hm
    rcases List.mem_append.1 hm with hm | hm
    · exact h.jobs n lanes set hm
    · obtain ⟨j, -, hj⟩ := List.mem_filterMap.1 hm
      obtain ⟨x, hx, hj⟩ := Option.bind_eq_some_iff.1 hj
      obtain ⟨-, hj⟩ := Option.ite_none_right_eq_some.1 hj
      obtain ⟨c, phase, -, -, sound, e⟩ := releaseJob_eq_some.1 hj
      cases e
      obtain ⟨-, c', phase', -, -, unsound⟩ := h.slot x hx
      cases phase.symm.trans phase'
      cases sound.symm.trans unsound

theorem noteFault_releaseKeeps : ReleaseKeeps noteFault fun _ => True where
  raised _ _ _ _ _ _ := ⟨trivial, rfl, rfl⟩
  unawaited _ _ := trivial
  freed _ _ := trivial
  issued _ _ _ := trivial

theorem UnsoundLeft.enterFailed (h : UnsoundLeft k record jobs s) : UnsoundLeft k record jobs (enterFailed s) := by
  have blocks : UnsoundLeft k record jobs (failedBlocks s) := by
    refine ⟨fun y hy => ?_, by rw [failedBlocks_store]; exact h.jobs⟩
    rw [failedBlocks_slots] at hy
    obtain ⟨x, hx, hy⟩ := Option.bind_eq_some_iff.1 hy
    obtain ⟨-, rfl⟩ := abandoned_eq_some.1 hy
    exact h.slot x hx
  rw [enterFailed_eq]
  unfold retireCheckWith
  split
  · next rg probes _ =>
    split
    · exact blocks
    · have begun : UnsoundLeft k record jobs (setProgress (.retireRelease rg probes) (failedBlocks s)) :=
        blocks.kept ⟨setProgress_cache _ _, setProgress_store _ _⟩
      exact (begun.released (releaseSlotsWith_spec noteFault_releaseKeeps _ trivial).2).kept (kept_retireFinish _)
  · exact blocks.kept (kept_retireFinish _)
  · exact blocks

/-- The INTERNAL_CHECK of an unsound image leaves the slot as it is, or frees it with a retire that goes on (R86,
R176). -/
theorem UnsoundLeft.raiseFault (h : UnsoundLeft k record jobs s) (y : Slot) :
    UnsoundLeft k record jobs (raiseFault (writeBackParityFault y) s) := by
  unfold Machine.raiseFault
  split
  · exact h.kept ⟨rfl, rfl⟩
  · have noted : UnsoundLeft k record jobs (noteFault (writeBackParityFault y) s) := h.kept ⟨rfl, rfl⟩
    exact (noted.kept (kept_captureFault (writeBackParityFault y) _)).enterFailed

theorem UnsoundLeft.dropped (h : UnsoundLeft k record jobs s) : (dropUnsound k record s).cache.slots[k] = none ∧
    (dropUnsound k record s).store.jobs = s.store.jobs := by
  cases hy : s.cache.slots[k] with
  | none =>
    unfold dropUnsound
    rw [hy]
    exact ⟨hy, rfl⟩
  | some y =>
    obtain ⟨rfl, c, phase, -⟩ := h.slot y hy
    rw [dropUnsound_of_resident hy phase]
    exact ⟨freeSlot_slot k _, congrArg Store.jobs (unawait_store k s)⟩

/-! ## The start -/

theorem startWriteBack_of_dirty (hy : s.cache.slots[k] = some y) (hp : y.phase = .resident c) (hd : c.dirty ≠ 0)
    (hw : c.writeBack = false) : startWriteBack k s =
      if c.image.sound = true then issueWriteBack k y c s
      else dropUnsound k y.record (raiseFault (writeBackParityFault y) s) := by
  unfold startWriteBack startWriteBackWith
  rw [hy]
  dsimp only
  rw [hp]
  exact if_neg (not_or.2 ⟨hd, by rw [hw]; exact Bool.false_ne_true⟩)

/-- Settles O31: of a dirty slot with no write-back in flight, the image's parity alone decides; the fault that an
unsound one raises may end a retire that frees the slot itself, and issues no job for it either way. -/
theorem writeBackStarts : Obligations.WriteBackStarts := by
  intro s k y c hy hp hd hw
  have start := startWriteBack_of_dirty hy hp hd hw
  refine ⟨fun sound => ?_, fun unsound => ⟨writeBackParityFault y, rfl, rfl, rfl, ?_⟩⟩
  · rw [start, if_pos ((Image.sound_iff _).2 sound)]
    rfl
  · rw [if_neg (mt (Image.sound_iff _).1 unsound)] at start
    have found : UnsoundLeft k y.record s.store.jobs s :=
      ⟨fun z hz => by
        cases hy.symm.trans hz
        exact ⟨rfl, c, hp, hw, hd, Bool.eq_false_iff.2 (mt (Image.sound_iff _).1 unsound)⟩, fun _ _ _ => id⟩
    have raised := found.raiseFault y
    obtain ⟨free, jobs⟩ := raised.dropped
    refine ⟨start, start ▸ free, fun n lanes set hm => raised.jobs n lanes set ?_⟩
    rw [start, jobs] at hm
    exact hm

end WriteBackStart

end Sys2Proof.Machine

/-! # FLUSH_REGION and SET_CLEANER (R99, R100, R154, R156) -/

namespace Sys2Proof.Machine

section FlushAndCleaner

variable {s u : State} {xfer : Nat} {e : Entry} {scope : Option RegionId}

/-! ## The awaited set (R100) -/

theorem inScope_iff (scope : Option RegionId) (y : Slot) :
    inScope scope y = true ↔ ∀ n, scope = some n → y.region = n := by
  cases scope <;> simp [inScope]

theorem awaitedAs_eq_some {k : SlotId} {y : Slot} {a : Awaited} : awaitedAs scope k y = some a ↔
    ∃ c, y.phase = .resident c ∧ (∀ n, scope = some n → y.region = n) ∧ (c.dirty ≠ 0 ∨ c.writeBack = true) ∧
      a = { slot := k, again := c.writeBack && c.dirty != 0 } := by
  unfold awaitedAs
  cases y.phase with
  | filling | awaitingStore => simp
  | resident c =>
    simp only [← inScope_iff, Option.ite_none_right_eq_some, Option.some.injEq, Bool.and_eq_true, Bool.or_eq_true,
      bne_iff_ne, SlotPhase.resident.injEq, exists_eq_left', and_assoc, eq_comm (a := a)]

/-- A flush awaits the RESIDENT slots of its scope that are dirty or being written back. -/
theorem mem_awaitedSet {a : Awaited} : a ∈ awaitedSet s scope ↔ ∃ y c, s.cache.slots[a.slot] = some y ∧
    y.phase = .resident c ∧ (∀ n, scope = some n → y.region = n) ∧ (c.dirty ≠ 0 ∨ c.writeBack = true) ∧
    a.again = (c.writeBack && c.dirty != 0) := by
  unfold awaitedSet
  simp only [List.mem_filterMap, List.mem_finRange, true_and, Option.bind_eq_some_iff, awaitedAs_eq_some]
  constructor
  · rintro ⟨k, y, hy, c, hc, region, awaited, rfl⟩
    exact ⟨y, c, hy, hc, region, awaited, rfl⟩
  · rintro ⟨y, c, hy, hc, region, awaited, again⟩
    exact ⟨a.slot, y, hy, c, hc, region, awaited, again ▸ rfl⟩

theorem exists_awaited_iff (k : SlotId) : (∃ a ∈ awaitedSet s scope, a.slot = k) ↔ ∃ y c, s.cache.slots[k] = some y ∧
    y.phase = .resident c ∧ (∀ n, scope = some n → y.region = n) ∧ (c.dirty ≠ 0 ∨ c.writeBack = true) := by
  constructor
  · rintro ⟨a, ha, rfl⟩
    obtain ⟨y, c, hy, hc, region, awaited, -⟩ := mem_awaitedSet.1 ha
    exact ⟨y, c, hy, hc, region, awaited⟩
  · rintro ⟨y, c, hy, hc, region, awaited⟩
    exact ⟨⟨k, c.writeBack && c.dirty != 0⟩, mem_awaitedSet.2 ⟨y, c, hy, hc, region, awaited, rfl⟩, rfl⟩

theorem again_iff {a : Awaited} (ha : a ∈ awaitedSet s scope) {y : Slot} {c : Resident}
    (hy : s.cache.slots[a.slot] = some y) (hc : y.phase = .resident c) :
    a.again = true ↔ c.writeBack = true ∧ c.dirty ≠ 0 := by
  obtain ⟨y', c', hy', hc', -, -, again⟩ := mem_awaitedSet.1 ha
  cases hy.symm.trans hy'
  cases hc.symm.trans hc'
  rw [again, Bool.and_eq_true, bne_iff_ne]

/-! ## FLUSH_REGION -/

theorem flushCheck_of_flush {awaited : List Awaited} (h : runningProgress u = some (.flush awaited)) :
    flushCheck u = if awaited = [] then completeCommand .done 0 u else u := by
  unfold flushCheck
  rw [h]
  cases awaited <;> rfl

theorem flushScope_eq_some {w : Nat} : flushScope w = some scope ↔
    scope = none ∧ w = 0xFFFFFFFF ∨ ∃ n, scope = some n ∧ n.val = w := by
  unfold flushScope
  split
  · next all =>
    have beyond : ∀ n : RegionId, n.val ≠ w := fun n e => by
      have := n.isLt
      rw [all] at e
      simp only [AdminEntry.allOnes] at e
      omega
    simp only [beyond, and_false, exists_false, or_false, Option.some.injEq, eq_comm (b := scope)]
    exact (and_iff_left all).symm
  · next one =>
    have listed : w ≠ 0xFFFFFFFF := one
    simp only [listed, and_false, false_or, Option.map_eq_some_iff, regionOf_eq_some, eq_comm (b := scope),
      and_comm (b := _ = w)]

theorem flushRegion_of_invalid (h : 16 ≤ entryField e 0x04 4) (h' : entryField e 0x04 4 ≠ 0xFFFFFFFF) :
    flushRegion e u = refuse .invalidParameter u := by
  have scope : flushScope (AdminEntry.w0 e) = none := Option.eq_none_iff_forall_ne_some.2 fun scope hs => by
    rcases flushScope_eq_some.1 hs with ⟨-, all⟩ | ⟨n, -, hn⟩
    · exact h' all
    · exact absurd n.isLt (not_lt.2 (hn ▸ h))
  unfold flushRegion
  rw [scope]

theorem flushRegion_of_undefined {n : RegionId} (hn : n.val = entryField e 0x04 4)
    (hp : u.regions[n].phase = .undefined) : flushRegion e u = refuse .regionUndefined u := by
  have scope : flushScope (AdminEntry.w0 e) = some (some n) := flushScope_eq_some.2 (.inr ⟨n, rfl, hn⟩)
  unfold flushRegion
  rw [scope]
  exact if_pos hp

theorem flushRegion_of_scope (h : scope = none ∧ entryField e 0x04 4 = 0xFFFFFFFF ∨
      ∃ n, scope = some n ∧ n.val = entryField e 0x04 4 ∧ u.regions[n].phase ≠ .undefined) :
    flushRegion e u = flushCheck (beginFlush scope u) := by
  have named : flushScope (AdminEntry.w0 e) = some scope :=
    flushScope_eq_some.2 (h.imp_right fun ⟨n, hs, hn, _⟩ => ⟨n, hs, hn⟩)
  unfold flushRegion
  rw [named]
  rcases h with ⟨rfl, -⟩ | ⟨n, rfl, -, defined⟩
  · rfl
  · exact if_neg defined

theorem commandTaken_cache (h : commandArrives s xfer = true) (e : Entry) : (commandTaken xfer e s).cache = s.cache := by
  obtain ⟨a, link, taken⟩ := commandTaken_of_arrives h e
  rw [taken]
  rfl

theorem beginFlush_taken (h : commandArrives s xfer = true) (e : Entry) (scope : Option RegionId) :
    beginFlush scope (commandTaken xfer e s) = (awaitedSet s scope).foldl (fun acc a => startWriteBack a.slot acc)
      (setProgress (.flush (awaitedSet s scope)) (commandTaken xfer e s)) := by
  have awaited : awaitedSet (commandTaken xfer e s) scope = awaitedSet s scope := by
    unfold awaitedSet
    rw [commandTaken_cache h e]
  unfold beginFlush
  rw [awaited]

theorem exec_flushRegion (h : commandArrives s xfer = true) (ho : entryField e 0x00 1 = 0x0A) :
    exec (.flushRegion xfer e) s =
      if s.faults.failed = true then commandEnds s (commandTaken xfer e s) .deviceFailed 0
      else .next (afterEvent s (flushRegion e (commandTaken xfer e s)) []) :=
  takeCommand_region flushRegion h (by rw [ho]; rfl)

/-! ## SET_CLEANER -/

/-- SET_CLEANER by the state of the device and by its parameter (R99, R154). -/
theorem exec_setCleaner (h : commandArrives s xfer = true) (ho : entryField e 0x00 1 = 0x11) :
    exec (.setCleaner xfer e) s =
      if s.faults.failed = true then commandEnds s (commandTaken xfer e s) .deviceFailed (ageValue s)
      else if 1000 < entryField e 0x04 4 then commandEnds s (commandTaken xfer e s) .invalidParameter (ageValue s)
      else commandEnds s (cleanNow ((commandTaken xfer e s).setAgeLimit (entryField e 0x04 4))) .done (ageValue s) := by
  have age : ageValue (commandTaken xfer e s) = ageValue s := by
    unfold ageValue
    rw [commandTaken_cache h e]
  show Host.Outcome.next (takeCommand _ _ xfer e s) = _
  rw [takeCommand_of_arrives _ h (by rw [ho]; rfl), age]
  unfold whileOperating setCleaner
  rw [commandTaken_faults e h, age]
  split
  · rfl
  · exact apply_ite (fun v => (.next (afterEvent s v []) : Result)) _ _ _

/-- Settles O44: each command by the case of its checks, and the flush by its awaited set, slot by slot. -/
theorem flushAndCleanerCommands : Obligations.FlushAndCleanerCommands := by
  refine ⟨fun u awaited hp => ?_, fun s xfer e ha => ?_⟩
  · rw [flushCheck_of_flush hp]
    exact ⟨fun none => if_pos none, fun some => if_neg some⟩
  · intro t ends w0 prior
    refine ⟨fun ho => ⟨fun failed => ?_, fun operating past one => ?_, fun operating n hn undefined => ?_,
      fun operating scope hs => ⟨?_, fun k => exists_awaited_iff k⟩, fun scope a ha' y c hy hc => again_iff ha' hy hc⟩,
      fun ho => ⟨fun failed => ?_, fun operating past => ?_, fun operating within => ?_⟩⟩
    · rw [exec_flushRegion ha ho, if_pos failed]
    · rw [exec_flushRegion ha ho, if_neg (Bool.eq_false_iff.1 operating), flushRegion_of_invalid past one]
      rfl
    · rw [exec_flushRegion ha ho, if_neg (Bool.eq_false_iff.1 operating),
        flushRegion_of_undefined hn (by rw [commandTaken_regions]; exact undefined)]
      rfl
    · rw [exec_flushRegion ha ho, if_neg (Bool.eq_false_iff.1 operating),
        flushRegion_of_scope (by rw [commandTaken_regions]; exact hs), beginFlush_taken ha]
    · rw [exec_setCleaner ha ho, if_pos failed]
      rfl
    · rw [exec_setCleaner ha ho, if_neg (Bool.eq_false_iff.1 operating), if_pos past]
      rfl
    · rw [exec_setCleaner ha ho, if_neg (Bool.eq_false_iff.1 operating), if_neg (not_lt.2 within)]
      rfl

end FlushAndCleaner

end Sys2Proof.Machine

/-! # Expiries and stalls (R93, R98, R144 to R146) -/

namespace Sys2Proof.Machine

section Expiries

variable {s u : State} {rr : RingId} {q : ResultRing}

/-! ## The stall states follow the credit-blocked conditions (R146) -/

theorem waitsForCredit_iff (q : ResultRing) (rr : RingId) (w : WorkRing) : waitsForCredit q rr w = true ↔
    ∃ unit, w.boundTo = rr ∧ (w.phase = .active ∨ w.phase = .deleting .drain) ∧ nextUnit w.prefetch = some unit ∧
      q.credit < unit.length := by
  unfold waitsForCredit
  rw [Bool.and_eq_true, Bool.and_eq_true, beq_iff_eq, runs_iff, and_assoc]
  cases nextUnit w.prefetch <;> simp

theorem creditBlocked_iff (u : State) (rr : RingId) (q : ResultRing) : creditBlocked u rr q = true ↔
    u.faults.failed = false ∧ u.resetPhase = .operating ∧ ∃ (r : RingId) (w : WorkRing) (unit : List Entry),
      u.rings.work[r] = some w ∧ w.boundTo = rr ∧ (w.phase = .active ∨ w.phase = .deleting .drain) ∧
      nextUnit w.prefetch = some unit ∧ q.credit < unit.length := by
  unfold creditBlocked
  rw [Bool.and_eq_true, Bool.and_eq_true, Bool.not_eq_true', beq_iff_eq, any_toList_iff, and_assoc]
  refine and_congr_right fun _ => and_congr_right fun _ => exists_congr fun r => ?_
  cases u.rings.work[r] with
  | none => simp
  | some w => simp only [waitsForCredit_iff, Option.some.injEq, exists_and_left, exists_eq_left']

/-- A result ring after the check of its stall state. -/
def stallFollowed (u : State) (rr : RingId) (q : ResultRing) : ResultRing :=
  match q.stall with
  | .idle => if creditBlocked u rr q then { q with stall := .timing u.now } else q
  | .timing _ => if creditBlocked u rr q then q else { q with stall := .idle }
  | .expired => q

theorem setResult_self (u : State) (rr : RingId) : u.setResult rr u.rings.results[rr] = u := by
  have same : u.rings.results.set rr u.rings.results[rr] = u.rings.results := Vector.set_getElem_self _
  unfold State.setResult
  rw [same]

theorem stallCheckOne_eq (u : State) (rr : RingId) :
    stallCheckOne u rr = u.setResult rr (u.rings.results[rr].map (stallFollowed u rr)) := by
  unfold stallCheckOne
  have same := setResult_self u rr
  cases h : u.rings.results[rr] with
  | none => rw [h] at same; exact same.symm
  | some q =>
    rw [h] at same
    dsimp only [Option.map_some, stallFollowed]
    cases q.stall with
    | idle => dsimp only; split <;> [rfl; exact same.symm]
    | timing start => dsimp only; split <;> [exact same.symm; rfl]
    | expired => exact same.symm

/-- The check of one ring changes that ring's stall state only, on which no other ring's condition depends: so a pass
over distinct rings checks each of them as the pass began. -/
theorem foldl_stallCheckOne (l : List RingId) (distinct : l.Nodup) (u : State) : ∃ results,
    l.foldl stallCheckOne u = { u with rings := { u.rings with results := results } } ∧
    ∀ rr : RingId, results[rr] =
      if rr ∈ l then u.rings.results[rr].map (stallFollowed u rr) else u.rings.results[rr] := by
  induction l generalizing u with
  | nil => exact ⟨u.rings.results, rfl, fun rr => (if_neg List.not_mem_nil).symm⟩
  | cons first l ih =>
    obtain ⟨notIn, distinct⟩ := List.nodup_cons.1 distinct
    obtain ⟨results, fold, each⟩ := ih distinct (stallCheckOne u first)
    rw [stallCheckOne_eq] at fold each
    refine ⟨results, by rw [List.foldl_cons, stallCheckOne_eq]; exact fold, fun rr => (each rr).trans ?_⟩
    rw [State.setResult_results, getElem_set_fin]
    by_cases first_eq : rr = first
    · rw [if_pos first_eq, if_neg (first_eq ▸ notIn), if_pos (first_eq ▸ List.mem_cons_self), first_eq]
    · rw [if_neg first_eq, if_congr (List.mem_cons.trans (or_iff_right first_eq)) rfl rfl]
      rfl

theorem stallCheck_eq (u : State) :
    stallCheck u = { u with rings := { u.rings with results := (stallCheck u).rings.results } } := by
  obtain ⟨results, fold, -⟩ := foldl_stallCheckOne _ (List.nodup_finRange 15) u
  unfold stallCheck
  rw [fold]

theorem stallCheck_results (u : State) (rr : RingId) :
    (stallCheck u).rings.results[rr] = u.rings.results[rr].map (stallFollowed u rr) := by
  obtain ⟨results, fold, each⟩ := foldl_stallCheckOne _ (List.nodup_finRange 15) u
  unfold stallCheck
  rw [fold]
  exact (each rr).trans (if_pos (List.mem_finRange rr))

theorem stallFollowed_idle (h : q.stall = .idle) :
    stallFollowed u rr q = if creditBlocked u rr q then { q with stall := .timing u.now } else q := by
  unfold stallFollowed
  rw [h]

theorem stallFollowed_timing {start : Nat} (h : q.stall = .timing start) :
    stallFollowed u rr q = if creditBlocked u rr q then q else { q with stall := .idle } := by
  unfold stallFollowed
  rw [h]

theorem stallFollowed_expired (h : q.stall = .expired) : stallFollowed u rr q = q := by
  unfold stallFollowed
  rw [h]

/-! ## The coalescing expiry (R144, R145) -/

/-- An event whose transfers post no admin entry causes no admin message (R158). -/
theorem adminMessage_of_none {first : Nat}
    (none_posted : ∀ x ∈ u.link.transfers, first ≤ x.xfer → x.kind.asAdminResult = none) :
    adminMessage first u = u := by
  unfold adminMessage
  refine if_neg fun h => ?_
  obtain ⟨x, hx, posted⟩ := List.any_eq_true.1 (Bool.and_eq_true_iff.1 h).2
  obtain ⟨since, kind⟩ := Bool.and_eq_true_iff.1 posted
  rw [none_posted x hx (of_decide_eq_true since)] at kind
  exact absurd kind (by decide)

/-- The only transfer that causing a message issues is the message. -/
theorem adminMessage_causeMessage (ordered : LinkOrdered s) (rr : RingId) (q : ResultRing) :
    adminMessage s.link.next (causeMessage rr q s) = causeMessage rr q s := by
  refine adminMessage_of_none fun x hx since => ?_
  have old : x ∉ s.link.transfers := fun hx => absurd (ordered.2 x hx) (not_lt.2 since)
  unfold causeMessage at hx
  split at hx
  · obtain rfl := List.mem_singleton.1 ((List.mem_append.1 hx).resolve_left old)
    rfl
  · exact absurd hx old

theorem exec_coalescingExpiry {since : Nat} (ordered : LinkOrdered s) (hq : s.rings.results[rr] = some q)
    (unsignalled : 0 < q.unsignalled) (first : q.firstUnsignalled = some since)
    (elapsed : q.coalesceTime ≤ s.now - since) : exec (.coalescingExpiry rr) s = .next (causeMessage rr q s) := by
  have due : q.coalesced s.now = true := by
    unfold ResultRing.coalesced
    rw [first, Bool.and_eq_true]
    exact ⟨decide_eq_true unsignalled, decide_eq_true elapsed⟩
  have effect : expireCoalescing rr s = causeMessage rr q s := by
    unfold expireCoalescing
    rw [hq]
    exact if_pos due
  calc exec (.coalescingExpiry rr) s
    _ = .next (adminMessage s.link.next (expireCoalescing rr s)) := rfl
    _ = .next (causeMessage rr q s) := by rw [effect, adminMessage_causeMessage ordered]

theorem causeMessage_enabled (h : q.msgEnabled = true) : causeMessage rr q s =
    issueWrite (.message (some rr)) q.msgAddr (leBytes 4 q.msgData.toNat)
      (s.setResult rr (some { q with unsignalled := 0, firstUnsignalled := none })) := if_pos h

theorem causeMessage_disabled (h : q.msgEnabled = false) : causeMessage rr q s =
    s.setResult rr (some { q with unsignalled := 0, firstUnsignalled := none }) := if_neg (Bool.eq_false_iff.1 h)

/-! ## The stall expiry and the cleaner expiry (R98, R146) -/

theorem expireStall_of_reached {start : Nat} (hq : s.rings.results[rr] = some q) (timed : q.stall = .timing start)
    (reached : 1000 * q.stallLimit ≤ s.now - start) : expireStall rr s =
      settle (raiseNotice (.resultStall rr) (raiseFault (stallFault rr)
        (s.setResult rr (some { q with stall := .expired })))) := by
  have due : q.stallReached s.now = true := by
    unfold ResultRing.stallReached
    rw [timed]
    exact decide_eq_true (Nat.mul_comm q.stallLimit 1000 ▸ reached)
  unfold expireStall
  rw [hq]
  exact if_pos due

theorem cleanerDue_of_aged {k : SlotId} {y : Slot} {content : Resident} (hy : s.cache.slots[k] = some y)
    (resident : y.phase = .resident content) (idle : content.writeBack = false)
    (aged : ageReached s content.dirtySince = true) : cleanerDue s k = true := by
  unfold cleanerDue
  rw [hy]
  dsimp only
  rw [resident]
  dsimp only
  rw [idle, aged]
  rfl

/-- Settles O58: a pass of `stallCheck` checks every result ring as it stands at the pass's start, and each expiry
finds its threshold reached. -/
theorem expiriesFall : Obligations.ExpiriesFall := by
  refine ⟨fun u rr => ⟨fun absent => ?_, fun q hq => ?_⟩, stallCheck_eq,
    fun s rr q since ordered hq unsignalled first elapsed => ?_, fun s rr q start hq timed reached => ?_,
    fun s k y content since hy resident idle dirty enabled aged => ?_⟩
  · rw [stallCheck_results, absent]
    rfl
  · have followed : (stallCheck u).rings.results[rr] = some (stallFollowed u rr q) := by
      rw [stallCheck_results, hq]
      rfl
    intro blocked
    have blocked_iff : creditBlocked u rr q = true ↔ blocked := creditBlocked_iff u rr q
    refine ⟨fun idle credit => ?_, fun idle credit => ?_, fun start timing credit => ?_,
      fun start timing credit => ?_, fun expired => ?_⟩
    · rw [followed, stallFollowed_idle idle, if_pos (blocked_iff.2 credit)]
    · rw [followed, stallFollowed_idle idle, if_neg (mt blocked_iff.1 credit)]
    · rw [followed, stallFollowed_timing timing, if_pos (blocked_iff.2 credit)]
    · rw [followed, stallFollowed_timing timing, if_neg (mt blocked_iff.1 credit)]
    · rw [followed, stallFollowed_expired expired]
  · have expiry := exec_coalescingExpiry ordered hq unsignalled first elapsed
    refine ⟨fun enabled => ?_, fun disabled => ?_⟩
    · rw [expiry, causeMessage_enabled enabled, issueWrite, leBytes_length]
      rfl
    · rw [expiry, causeMessage_disabled disabled]
  · exact congrArg (fun t => Host.Outcome.next (adminMessage s.link.next t)) (expireStall_of_reached hq timed reached)
  · have due := cleanerDue_of_aged hy resident idle ((ageReached_iff s _).2 ⟨since, dirty, enabled, aged⟩)
    exact congrArg Host.Outcome.next (if_pos due)

end Expiries

end Sys2Proof.Machine

/-! # No command is refused (R117) -/

namespace Sys2Proof.Machine

section NothingRefused

variable {s t : State} {f : State → State} {c : Instr}

/-! ## Operations that take no time -/

/-- The moment in which a state stands: its queue and its time. -/
def State.moment (s : State) : List Instr × Nat := (s.pending, s.now)

/-- An operation that takes no time and leaves the queue as it was. -/
def Immediate (f : State → State) : Prop := ∀ s, (f s).moment = s.moment

theorem Reaction.moment (h : Reaction s t) : t.moment = s.moment :=
  congrArg (fun k : Kept => (k.pending, k.now)) h.kept

theorem immediate_of_reaction (h : ∀ s, Reaction s (f s)) : Immediate f := fun s => (h s).moment

theorem moment_setStore (x : Store) (s : State) : (s.setStore x).moment = s.moment := rfl

theorem moment_setFaults (x : FaultUnit) (s : State) : (s.setFaults x).moment = s.moment := rfl

theorem moment_freeSlot (k : SlotId) (s : State) : (freeSlot k s).moment = s.moment := rfl

theorem moment_ite {p : Prop} [Decidable p] {u v : State} (hu : u.moment = s.moment) (hv : v.moment = s.moment) :
    (if p then u else v).moment = s.moment := by
  split
  · exact hu
  · exact hv

/-! ## Reports, events and commands -/

theorem immediate_event (h : Immediate f) : Immediate (event f) :=
  fun s => (reaction_adminMessage _ _).moment.trans (h s)

theorem immediate_onReport {α : Type} {kind : TransferKind → Option α} {handle : α → State → State}
    (h : ∀ a, Immediate (handle a)) (xfer : Nat) : Immediate (onReport kind handle xfer) := fun s => by
  unfold onReport
  split
  · rfl
  · split
    · rfl
    · exact moment_ite (h _ (dropTransfer xfer s)) rfl

theorem immediate_onReadComplete {α : Type} {kind : TransferKind → Option α} {handle : α → State → State}
    (h : ∀ a, Immediate (handle a)) (xfer : Nat) : Immediate (onReadComplete kind handle xfer) :=
  fun s => moment_ite (immediate_onReport h xfer s) rfl

/-- A report that is handled by a reaction, as an event. -/
theorem immediate_report {α : Type} {kind : TransferKind → Option α} {handle : α → State → State}
    (h : ∀ a s, Reaction s (handle a s)) (xfer : Nat) : Immediate (event (onReport kind handle xfer)) :=
  immediate_event (immediate_onReport (fun a => immediate_of_reaction (h a)) xfer)

theorem immediate_takeCommand {row : Nat → Bool} {run : Entry → State → State} (h : ∀ e, Immediate (run e))
    (xfer : Nat) (e : Entry) : Immediate (takeCommand row run xfer e) := fun s =>
  moment_ite (immediate_event (immediate_onReadComplete (fun _ t =>
    (reaction_settle _).moment.trans ((h e _).trans (reaction_beginCommand e t).moment)) xfer) s) rfl

theorem moment_whileOperating {run : State → State} (h : Immediate run) (value : BitVec 32) (s : State) :
    (whileOperating value run s).moment = s.moment := moment_ite (reaction_completeCommand _ _ s).moment (h s)

/-- A command that a FAILED device refuses with result value 0. -/
theorem immediate_operatingCommand {row : Nat → Bool} {run : Entry → State → State} (h : ∀ e, Immediate (run e))
    (xfer : Nat) (e : Entry) : Immediate (takeCommand row (fun e => whileOperating 0 (run e)) xfer e) :=
  immediate_takeCommand (fun e => moment_whileOperating (h e) 0) xfer e

/-! ## Resets and registers -/

theorem immediate_functionReset : Immediate functionReset := fun s =>
  have dropped : (dropAtReset (s.setResetPhase .functionReset)).moment = s.moment :=
    (reaction_abandonContexts (s.setResetPhase .functionReset)).moment
  ((reaction_releaseSlotsWith reaction_raiseFault _ _).trans (reaction_drainingCheck _)).moment.trans dropped

theorem immediate_registerWrite (h : Immediate f) : Immediate (registerWrite f) :=
  fun s => moment_ite (immediate_event h s) rfl

theorem immediate_openAdmin : Immediate openAdmin := fun _ =>
  moment_ite ((reaction_postPending _).trans (reaction_considerAdminRead _)).moment rfl

theorem immediate_writeDevControl (enable msgEn : Bool) : Immediate (writeDevControl enable msgEn) := fun _ =>
  moment_ite (immediate_openAdmin _) rfl

theorem immediate_writeConfig (offset : Nat) (width : AccessWidth) (v : BitVec 64) :
    Immediate (writeConfig offset width v) := fun _ => moment_ite rfl rfl

/-! ## Takes and contexts -/

theorem immediate_handToContext (r : RingId) (ms : List Member) : Immediate (handToContext r ms) := fun _ => by
  unfold handToContext
  split
  · unfold beginStoreRead
    split
    · exact moment_ite rfl rfl
    · rfl
  · rfl

theorem moment_unitTaken (r : RingId) (w : WorkRing) (n : Nat) (s : State) :
    (unitTaken r w n s).moment = s.moment := by
  unfold unitTaken reserve
  split <;> rfl

theorem immediate_carryOut (r : RingId) (j : Judgement) : Immediate (carryOut r j) := fun s => by
  cases j with
  | answered posts faults => exact ((reaction_postUnit r posts s).trans (reaction_raiseFaults faults _)).moment
  | accepted ms => exact immediate_handToContext r ms s

theorem immediate_takeFrom (r : RingId) : Immediate (takeFrom r) := fun s => by
  unfold takeFrom
  split
  · rfl
  · split
    · rfl
    · exact (reaction_settle _).moment.trans ((immediate_carryOut r _ _).trans (moment_unitTaken r _ _ s))

theorem immediate_takeUnit (k : UnitKind) : Immediate (takeUnit k) := fun s => by
  unfold takeUnit
  split
  · next r s1 h =>
    have chosen : s1.moment = s.moment := by
      rcases arbitrate_state h with rfl | rfl <;> rfl
    exact moment_ite ((immediate_event (immediate_takeFrom r) s1).trans chosen) rfl
  · rfl

theorem immediate_failStoreRead (c : CtxId) : Immediate (failStoreRead c) := fun s => by
  unfold failStoreRead
  split
  · rfl
  · next x hc =>
    have ended := (reaction_setContextSome c (some x.hostFaulted) hc).trans (reaction_endContext c _)
    refine (reaction_settle _).moment.trans ?_
    split
    · exact (ended.trans (reaction_raiseFaults _ _)).moment
    · exact (reaction_raiseFaults _ _).moment.trans (ended.trans (reaction_failContexts _ _ _ _)).moment

/-! ## Commits -/

theorem immediate_examineProbe (r : RingId) (vs : List Evaluated) (p : ProbeId) :
    Immediate fun s => examineProbe r vs s p := fun _ => by
  dsimp only
  unfold examineProbe
  split
  · split
    · exact (reaction_raiseNotice _ _).moment
    · rfl
  · rfl

theorem immediate_consultProbes (r : RingId) (vs : List Evaluated) : Immediate (consultProbes r vs) := fun s =>
  List.foldlRecOn (motive := fun u : State => u.moment = s.moment) _ _ rfl
    fun u hu p _ => (immediate_examineProbe r vs p u).trans hu

theorem immediate_finishCommit (c : CtxId) (x : Context) (ms : List Member) : Immediate (finishCommit c x ms) :=
  fun s =>
    have left := reaction_leaveQueues c (s.setContext c (some (x.committed ms)))
    (reaction_settle _).moment.trans
      (moment_ite (left.trans (reaction_endContext c _)).moment (left.trans (reaction_issueImages c 0 ms _)).moment)

theorem immediate_applyAll (c : CtxId) (x : Context) (vs : List Evaluated) : Immediate (applyAll c x vs) := fun s =>
  ((immediate_finishCommit c x _ _).trans (immediate_consultProbes x.ring vs _)).trans
    (Reaction.foldl (reaction_applyMember x) vs s).moment

theorem immediate_commitUpdate (c : CtxId) (x : Context) : Immediate (commitUpdate c x) := fun s => by
  unfold commitUpdate
  split
  · exact immediate_applyAll c x _ s
  · rfl

theorem immediate_commitFetch (c : CtxId) (x : Context) : Immediate (commitFetch c x) := fun s => by
  unfold commitFetch
  split
  · exact immediate_finishCommit c x _ s
  · rfl

theorem immediate_commitBundle (c : CtxId) (x : Context) : Immediate (commitBundle c x) := fun s => by
  unfold commitBundle
  split
  · exact moment_ite (immediate_applyAll c x _ s) (immediate_finishCommit c x _ s)
  · rfl

theorem immediate_storeImage (x : Context) (record : Nat) (data : Record) : Immediate (storeImage x record data) :=
  fun s => by
    unfold storeImage
    split
    · rfl
    · split
      · rfl
      · exact (reaction_writeImage x record data allLanes s).moment

theorem immediate_commitStore (c : CtxId) (x : Context) : Immediate (commitStore c x) := fun s => by
  unfold commitStore
  split
  · exact (immediate_finishCommit c x _ _).trans (immediate_storeImage x _ _ s)
  · rfl

theorem immediate_commitOn {kind : Context → Bool} {effect : CtxId → Context → State → State}
    (h : ∀ c x, Immediate (effect c x)) (c : CtxId) : Immediate (commitOn kind effect c) := fun s => by
  unfold commitOn
  split
  · rfl
  · next x _ =>
    refine moment_ite (immediate_event (fun t => ?_) s) rfl
    split
    · exact (reaction_raiseSettled _ t).moment
    · exact h c x t

/-! ## The ends of jobs -/

theorem moment_residentFill (k : SlotId) (y : Slot) (image : Record) (corrected : Bool) (s : State) :
    (residentFill k y image corrected s).moment = s.moment := moment_ite (moment_freeSlot k s) rfl

theorem immediate_completeFill (k : SlotId) (n : Nat) (errors : Vector WordErrors 4) :
    Immediate (completeFill k n errors) := fun s => by
  unfold completeFill
  have ended := moment_setStore (s.store.endFill k n errors) s
  dsimp only
  split
  · exact ended
  · next y _ =>
    have resident := fun image corrected => (moment_residentFill k y image corrected _).trans ended
    exact (reaction_settle _).moment.trans
      (moment_ite (resident _ _) ((reaction_raiseFault _ _).moment.trans (resident _ _)))

theorem immediate_failFill (k : SlotId) (n : Nat) (errors : Vector WordErrors 4) : Immediate (failFill k n errors) :=
  fun s => by
    unfold failFill
    have ended := moment_setStore ((s.store.endFill k n errors).addPoison n) s
    dsimp only
    split
    · exact ended
    · exact (((reaction_failContexts _ _ _ _).trans (reaction_raiseFaults _ _)).trans
        (reaction_settle _)).moment.trans ((moment_freeSlot k _).trans ended)

theorem immediate_afterWriteBack (k : SlotId) (y : Slot) (content : Resident) :
    Immediate (afterWriteBack k y content) := fun s =>
  have ended := reaction_awaitedEnd k s
  moment_ite (moment_ite (u := freeSlot k _) ended.moment ended.moment)
    (moment_ite (ended.trans (reaction_startWriteBack k _)).moment ended.moment)

theorem immediate_completeWriteBack (k : SlotId) (n : Nat) (lanes : Record) (set : LaneSet) :
    Immediate (completeWriteBack k n lanes set) := fun s => by
  unfold completeWriteBack
  dsimp only
  split
  · rfl
  · split
    · exact (reaction_settle _).moment.trans (immediate_afterWriteBack k _ _ _)
    · rfl

theorem immediate_completeRegionFill (first last : Nat) (pattern : Record) (next : Nat) :
    Immediate (completeRegionFill first last pattern next) := fun s => by
  unfold completeRegionFill finishDefine
  refine (reaction_settle _).moment.trans ?_
  split
  · exact (reaction_completeCommand _ _ _).moment
  · rfl

/-! ## Admin commands -/

theorem immediate_failAdminRead (a : Unit) : Immediate (failAdminRead a) := fun s =>
  have halted : (haltAdmin s).moment = s.moment := by
    unfold haltAdmin
    split <;> rfl
  ((reaction_postPending _).trans (reaction_raiseSettled _ _)).moment.trans halted

theorem immediate_deleteWork (e : Entry) : Immediate (deleteWork e) := fun s => by
  unfold deleteWork
  split
  · split
    · exact (reaction_refuse _ s).moment
    · exact ((reaction_setProgress _ _).trans (reaction_deleteCheck _ _)).moment
  · exact (reaction_refuse _ s).moment

theorem immediate_defineRegion (e : Entry) : Immediate (defineRegion e) := fun s => by
  have refused := fun st => (reaction_refuse st s).moment
  unfold defineRegion
  split
  · exact moment_ite (refused _) (moment_ite (refused _) (moment_ite (refused _)
      (moment_ite (reaction_setProgress _ _).moment (reaction_done _).moment)))
  · exact refused _

theorem immediate_retireRegion (e : Entry) : Immediate (retireRegion e) := fun s => by
  unfold retireRegion
  split
  · exact (reaction_refuse _ s).moment
  · exact moment_ite (reaction_refuse _ s).moment ((reaction_setProgress _ _).trans (reaction_retireCheck _)).moment

theorem immediate_armProbe (e : Entry) : Immediate (armProbe e) := fun s => by
  have refused := fun st => (reaction_refuse st s).moment
  unfold armProbe
  dsimp only
  split
  · exact moment_ite (refused _) (moment_ite (refused _) (reaction_done _).moment)
  · exact refused _

theorem immediate_disarmProbe (e : Entry) : Immediate (disarmProbe e) := fun s => by
  unfold disarmProbe
  split
  · exact (reaction_refuse _ s).moment
  · split
    · exact (reaction_finishCommand _ _ _).moment
    all_goals exact (reaction_done _).moment

theorem immediate_releaseLog (e : Entry) : Immediate (releaseLog e) := fun s =>
  moment_ite (reaction_refuse _ s).moment ((reaction_completeCommand _ _ _).moment.trans (moment_setFaults _ s))

theorem immediate_setPolicy (e : Entry) : Immediate (setPolicy e) := fun s => by
  unfold setPolicy
  split
  · exact moment_ite (reaction_completeCommand _ _ s).moment (reaction_completeCommand _ _ _).moment
  · exact (reaction_completeCommand _ _ s).moment

theorem immediate_setCleaner (e : Entry) : Immediate (setCleaner e) := fun s =>
  moment_ite (reaction_completeCommand _ _ s).moment
    ((reaction_cleanNow _).trans (reaction_completeCommand _ _ _)).moment

/-! ## Every command -/

/-- The outcome is a next state in the same moment, or it is the fault of a job's end outside the store. -/
def AnswersNow (c : Instr) (s : State) (o : Result) : Prop :=
  (∃ t, o = .next t ∧ t.moment = s.moment) ∨ (o = .fault .outsideStore ∧ endsJob c = true)

theorem AnswersNow.next (h : t.moment = s.moment) : AnswersNow c s (.next t) := .inl ⟨t, rfl, h⟩

theorem AnswersNow.withinStore {n : Nat} (job : endsJob c = true) (h : t.moment = s.moment) :
    AnswersNow c s (withinStore s n t) := by
  unfold Machine.withinStore
  split
  · exact .next h
  · exact .inr ⟨rfl, job⟩

theorem answersNow_ite {p : Prop} [Decidable p] {o o' : Result} (h : AnswersNow c s o) (h' : AnswersNow c s o') :
    AnswersNow c s (if p then o else o') := by
  split
  · exact h
  · exact h'

theorem answersNow_fillComplete (k : SlotId) (errors : Vector WordErrors 4) (s : State) :
    AnswersNow (.fillComplete k errors) s (execFillComplete k errors s) := by
  unfold execFillComplete
  split
  · exact .next rfl
  · exact answersNow_ite (.withinStore rfl (immediate_event (immediate_completeFill k _ errors) s)) (.next rfl)

theorem answersNow_fillUncorrectable (k : SlotId) (errors : Vector WordErrors 4) (s : State) :
    AnswersNow (.fillUncorrectable k errors) s (execFillUncorrectable k errors s) := by
  unfold execFillUncorrectable
  split
  · exact .next rfl
  · exact answersNow_ite (.next rfl) (.withinStore rfl (immediate_event (immediate_failFill k _ errors) s))

theorem answersNow_writeBackComplete (k : SlotId) (s : State) :
    AnswersNow (.writeBackComplete k) s (execWriteBackComplete k s) := by
  unfold execWriteBackComplete
  split
  · exact .next rfl
  · exact .withinStore rfl (immediate_event (immediate_completeWriteBack k _ _ _) s)

theorem answersNow_regionFillComplete (s : State) : AnswersNow .regionFillComplete s (execRegionFillComplete s) := by
  unfold execRegionFillComplete
  split
  · exact .next rfl
  · exact answersNow_ite (.next rfl) (.withinStore rfl (immediate_event (immediate_completeRegionFill _ _ _ _) s))

theorem answersNow_regionFillStopped (current : Nat) (s : State) :
    AnswersNow (.regionFillStopped current) s (execRegionFillStopped current s) := by
  unfold execRegionFillStopped
  split
  · exact .next rfl
  · exact answersNow_ite (.withinStore (t := stopRegionFill _ _ current s) rfl rfl) (.next rfl)

/-- Every command answers a next state in the moment of its state, the ends of jobs outside the store apart. -/
theorem answersNow_exec (c : Instr) (s : State) : AnswersNow c s (exec c s) := by
  cases c with
  | powerOnReset sz1 sz0 => exact .next rfl
  | powerOnReady => exact .next (moment_ite rfl rfl)
  | linkReset => exact .next (moment_ite (immediate_functionReset s) rfl)
  | reset enable msgEn => exact .next (moment_ite (immediate_functionReset _) rfl)
  | resetEnd => exact .next (moment_ite rfl rfl)
  | enable msgEn => exact .next (immediate_registerWrite (immediate_writeDevControl true msgEn) s)
  | adminMsgEn msgEn => exact .next (immediate_registerWrite (immediate_writeDevControl false msgEn) s)
  | registerWrite offset width v => exact .next (immediate_registerWrite (immediate_writeConfig offset width v) s)
  | post r v => exact .next (immediate_registerWrite (immediate_of_reaction (reaction_writePost r v)) s)
  | adminPost v => exact .next (immediate_registerWrite (immediate_of_reaction (reaction_writeAdminPost v)) s)
  | release rr v => exact .next (immediate_registerWrite (immediate_of_reaction (reaction_writeRelease rr v)) s)
  | adminRelease v => exact .next (immediate_registerWrite (immediate_of_reaction (reaction_writeAdminRelease v)) s)
  | pendingNoticePost => exact .next (immediate_event (immediate_of_reaction reaction_postPending) s)
  | fetchReadIssue r => exact .next (reaction_issueFetch r s).moment
  | fetchReadComplete xfer entries =>
    exact .next (moment_ite (immediate_event (immediate_onReadComplete
      (fun r => immediate_of_reaction (reaction_completeFetch entries r)) xfer) s) rfl)
  | fetchReadFailure xfer => exact .next (immediate_report reaction_failFetch xfer s)
  | update | fetch | store | fence | nop | bundle | unknownOpcode => exact .next (immediate_takeUnit _ s)
  | slotGrant => exact .next (reaction_grantHead s).moment
  | storeReadComplete xfer data =>
    exact .next (immediate_event (immediate_onReadComplete
      (fun c => immediate_of_reaction (reaction_acceptStoreData data c)) xfer) s)
  | storeReadFailure xfer => exact .next (immediate_event (immediate_onReport immediate_failStoreRead xfer) s)
  | fillComplete k errors => exact answersNow_fillComplete k errors s
  | fillUncorrectable k errors => exact answersNow_fillUncorrectable k errors s
  | updateCommit c => exact .next (immediate_commitOn immediate_commitUpdate c s)
  | fetchCommit c => exact .next (immediate_commitOn immediate_commitFetch c s)
  | storeCommit c => exact .next (immediate_commitOn immediate_commitStore c s)
  | bundleCommit c => exact .next (immediate_commitOn immediate_commitBundle c s)
  | hostBufferWriteComplete xfer => exact .next (immediate_report reaction_completeBuffer xfer s)
  | hostBufferWriteFailure xfer => exact .next (immediate_report reaction_failBuffer xfer s)
  | resultWriteFailure xfer => exact .next (immediate_report (fun _ => reaction_raiseSettled _) xfer s)
  | statusWriteComplete xfer =>
    exact .next (immediate_report (fun w : Fin 16 × Nat => reaction_statusWritten w.1) xfer s)
  | statusWriteFailure xfer =>
    exact .next (immediate_report
      (fun w : Fin 16 × Nat => reaction_statusFailed w.1 (statusWriteFault w.1 w.2)) xfer s)
  | coalescingExpiry rr => exact .next (immediate_event (immediate_of_reaction (reaction_expireCoalescing rr)) s)
  | stallExpiry rr => exact .next (immediate_event (immediate_of_reaction (reaction_expireStall rr)) s)
  | cleanerExpiry k =>
    exact .next (moment_ite (immediate_event (immediate_of_reaction fun s =>
      (reaction_startWriteBack k s).trans (reaction_settle _)) s) rfl)
  | writeBackComplete k => exact answersNow_writeBackComplete k s
  | regionFillComplete => exact answersNow_regionFillComplete s
  | regionFillStopped current => exact answersNow_regionFillStopped current s
  | adminReadIssue => exact .next (immediate_event (immediate_of_reaction reaction_considerAdminRead) s)
  | adminReadFailure xfer => exact .next (immediate_event (immediate_onReport immediate_failAdminRead xfer) s)
  | invalidCommand xfer e =>
    exact .next (immediate_takeCommand (fun _ => immediate_of_reaction (reaction_refuse _)) xfer e s)
  | identify xfer e | readFaultLog xfer e | listPoison xfer e =>
    exact .next (immediate_takeCommand (fun e s => (reaction_writeAdminBuffer e _ _ s).moment) xfer e s)
  | createResultRing xfer e =>
    exact .next (immediate_operatingCommand (fun e => immediate_of_reaction (reaction_createResult e)) xfer e s)
  | createWorkRing xfer e =>
    exact .next (immediate_operatingCommand (fun e => immediate_of_reaction (reaction_createWork e)) xfer e s)
  | deleteWorkRing xfer e => exact .next (immediate_operatingCommand immediate_deleteWork xfer e s)
  | deleteResultRing xfer e =>
    exact .next (immediate_operatingCommand (fun e => immediate_of_reaction (reaction_deleteResult e)) xfer e s)
  | pauseRing xfer e =>
    exact .next (immediate_operatingCommand (fun e => immediate_of_reaction (reaction_pauseRing e)) xfer e s)
  | resumeRing xfer e =>
    exact .next (immediate_operatingCommand (fun e => immediate_of_reaction (reaction_resumeRing e)) xfer e s)
  | defineRegion xfer e => exact .next (immediate_operatingCommand immediate_defineRegion xfer e s)
  | retireRegion xfer e => exact .next (immediate_operatingCommand immediate_retireRegion xfer e s)
  | flushRegion xfer e =>
    exact .next (immediate_operatingCommand (fun e => immediate_of_reaction (reaction_flushRegion e)) xfer e s)
  | armProbe xfer e => exact .next (immediate_operatingCommand immediate_armProbe xfer e s)
  | disarmProbe xfer e => exact .next (immediate_operatingCommand immediate_disarmProbe xfer e s)
  | releaseFaultLog xfer e => exact .next (immediate_operatingCommand immediate_releaseLog xfer e s)
  | setFaultPolicy xfer e =>
    exact .next (immediate_takeCommand (fun e s => moment_whileOperating (immediate_setPolicy e) _ s) xfer e s)
  | setCleaner xfer e =>
    exact .next (immediate_takeCommand (fun e s => moment_whileOperating (immediate_setCleaner e) _ s) xfer e s)
  | adminBufferWriteComplete xfer =>
    exact .next (immediate_report (fun _ s => reaction_bufferWritten (bufferValue s) s) xfer s)
  | adminBufferWriteFailure xfer =>
    exact .next (immediate_report (fun _ s => reaction_bufferFailed (adminBufferFault s) (bufferValue s) s) xfer s)
  | adminResultWriteFailure xfer => exact .next (immediate_report (fun _ => reaction_raiseSettled _) xfer s)

/-- Settles O10: every operation takes no time, and a command answers the state that its operation leaves, or the fault
of a job's end that names a record outside the store. -/
theorem nothingRefused : Obligations.NothingRefused := by
  intro c s
  refine (answersNow_exec c s).imp_left ?_
  rintro ⟨t, next, moment⟩
  obtain ⟨pending, now⟩ := Prod.mk.inj moment
  exact ⟨t, next, pending, now⟩

end NothingRefused

end Sys2Proof.Machine

/-! # IDENTIFY, READ_FAULT_LOG and LIST_POISON (R116, R154, R157, R179, R193) -/

namespace Sys2Proof.Machine

section BufferCommands

variable {s : State} {xfer : Nat} {e : Entry}

/-! ## The copies (R193) -/

theorem identifyBytes_eq (size : Nat) : identifyBytes size =
    [0x5C, 0x01, 0x6C, 0x12] ++ leBytes 4 size ++ [64, 0, 16, 15, 15, 4, 64, 0, 0x00, 0x10, 0, 0, 0, 0, 0, 0] := rfl

/-- A flag at place `i` of a set of flags, as a number. -/
def flagAt (b : Bool) (i : Nat) : Nat := if b then 2 ^ i else 0

theorem flagAt_eq (b : Bool) (i : Nat) : flagAt b i = 2 ^ i * b.toNat := by
  cases b <;> simp [flagAt]

/-- The presence flags of the details of a fault. -/
theorem flagBits_seven (a b c d e f g : Bool) : flagBits [a, b, c, d, e, f, g] =
    flagAt a 0 + flagAt b 1 + flagAt c 2 + flagAt d 3 + flagAt e 4 + flagAt f 5 + flagAt g 6 := by
  simp only [flagBits, flagAt_eq]
  omega

theorem flagBits_two (a b : Bool) : flagBits [a, b] = flagAt a 0 + flagAt b 1 := by
  simp only [flagBits, flagAt_eq]
  omega

/-- The bytes of a captured fault: its class, its source, which details it has, and the details (R193). -/
def loggedBytes (f : RaisedFault) : List Byte :=
  [BitVec.ofNat 8 f.cls.index.val,
    f.source.kind,
    match f.source with
    | .workRing r | .resultRing r => BitVec.ofNat 8 (r.val + 1)
    | _ => 0,
    BitVec.ofNat 8 (flagAt f.slotIndex.isSome 0 + flagAt f.tag.isSome 1 + flagAt f.region.isSome 2 +
      flagAt f.record.isSome 3 + flagAt f.image.isSome 4 + flagAt f.code.isSome 5 + flagAt f.value.isSome 6)] ++
    leBytes 2 (f.slotIndex.getD 0) ++ leBytes 2 ((f.tag.getD 0).toNat) ++
    [BitVec.ofNat 8 (f.region.elim 0 Fin.val), f.code.getD 0, 0, 0] ++ leBytes 4 (f.record.getD 0) ++
    leBytes 4 ((f.value.getD 0).toNat) ++ f.image.elim (List.replicate 32 0) Vector.toList

theorem captureLogBytes_eq (o : Option RaisedFault) :
    captureLogBytes o = o.elim (List.replicate 52 0) loggedBytes := by
  cases o with
  | none => rfl
  | some f =>
    rw [captureLogBytes, flagBits_seven, Option.elim_some, loggedBytes]
    cases f.source <;> rfl

theorem policyLogByte_eq (p : Policy) : p.logByte = BitVec.ofNat 8 (flagAt p.masked 0 + 2 * p.severity.code) := by
  rw [Policy.logByte, flagAt_eq, pow_zero, one_mul]

theorem captureLogBytes_length (o : Option RaisedFault) : (captureLogBytes o).length = 52 := by
  cases o with
  | none => exact List.length_replicate
  | some f => cases h : f.image <;> simp [captureLogBytes, h]

/-- The fault log: what is captured, the seen classes, the captured fault, and a byte for each policy (R193). -/
theorem faultLogBytes_eq (u : FaultUnit) : faultLogBytes u =
    [BitVec.ofNat 8 (flagAt u.capture.isSome 0 + flagAt u.later 1), 0] ++ leBytes 2 u.seen.toNat ++
      u.capture.elim (List.replicate 52 0) loggedBytes ++
      u.policies.toList.map fun p => BitVec.ofNat 8 (flagAt p.masked 0 + 2 * p.severity.code) := by
  rw [faultLogBytes, flagBits_two, captureLogBytes_eq, List.map_congr_left fun p _ => policyLogByte_eq p]

theorem faultLogBytes_length (u : FaultUnit) : (faultLogBytes u).length = 69 := by
  simp [faultLogBytes, captureLogBytes_length]

/-! ## The commands at their take -/

/-- The value of READ_FAULT_LOG tells whether a fault is captured. -/
theorem captureValue_eq (o : Option RaisedFault) :
    (if o.isSome = true then 1 else 0 : BitVec 32) = if o = none then 0 else 1 := by
  cases o <;> rfl

/-- IDENTIFY, also in FAILED (R154, R157). -/
theorem exec_identify (h : commandArrives s xfer = true) (ho : entryField e 0x00 1 = 0x01) :
    exec (.identify xfer e) s = .next (afterEvent s
      (writeAdminBuffer e (identifyBytes s.store.size) 0 (commandTaken xfer e s)) []) := by
  rw [← commandTaken_store xfer e s]
  exact congrArg Host.Outcome.next (takeCommand_of_arrives _ h (by rw [ho]; rfl))

/-- READ_FAULT_LOG, also in FAILED (R154, R179). -/
theorem exec_readFaultLog (h : commandArrives s xfer = true) (ho : entryField e 0x00 1 = 0x0D) :
    exec (.readFaultLog xfer e) s = .next (afterEvent s (writeAdminBuffer e (faultLogBytes s.faults)
      (if s.faults.capture.isSome = true then 1 else 0) (commandTaken xfer e s)) []) := by
  rw [← commandTaken_faults e h]
  exact congrArg Host.Outcome.next (takeCommand_of_arrives _ h (by rw [ho]; rfl))

/-- LIST_POISON, also in FAILED (R116, R154). -/
theorem exec_listPoison (h : commandArrives s xfer = true) (ho : entryField e 0x00 1 = 0x10) :
    exec (.listPoison xfer e) s = .next (afterEvent s (writeAdminBuffer e (poisonBytes s.store.poison)
      (BitVec.ofNat 32 s.store.poison.length) (commandTaken xfer e s)) []) := by
  rw [← commandTaken_store xfer e s]
  exact congrArg Host.Outcome.next (takeCommand_of_arrives _ h (by rw [ho]; rfl))

/-! ## The ends of their host buffer writes -/

/-- The result value of a running host-buffer command is the one held with it. -/
theorem bufferValue_of_running {a : AdminRings} {value : BitVec 32} (ha : s.admin.rings = some a)
    (hc : a.command = .running e (.hostBuffer value)) : bufferValue s = value := by
  simp only [bufferValue, runningProgress, ha, hc]

/-- The fault of a failed admin host buffer write names the running command (R157). -/
theorem adminBufferFault_of_running {a : AdminRings} {p : Progress} (ha : s.admin.rings = some a)
    (hc : a.command = .running e p) : adminBufferFault s =
      { cls := .hostBufferWrite, source := .adminRing, tag := some (AdminEntry.tag e),
        code := some (BitVec.ofNat 8 (entryField e 0x00 1)) } := by
  simp only [adminBufferFault, runningEntry, ha, hc]
  rfl

theorem exec_adminBufferWriteComplete (h : awaits s xfer .adminBuffer = true) :
    exec (.adminBufferWriteComplete xfer) s =
      .next (afterEvent s (completeCommand .done (bufferValue s) (dropTransfer xfer s)) []) :=
  congrArg (fun u => Host.Outcome.next (adminMessage s.link.next u)) (onReport_of_awaits _ h rfl)

theorem exec_adminBufferWriteFailure (h : awaits s xfer .adminBuffer = true) :
    exec (.adminBufferWriteFailure xfer) s =
      .next (afterEvent s (completeCommand .hostFault (bufferValue s) (dropTransfer xfer s))
        [adminBufferFault s]) :=
  congrArg (fun u => Host.Outcome.next (adminMessage s.link.next u)) (onReport_of_awaits _ h rfl)

/-- Settles O40: at its take each command writes the bytes of its copy, which R193 gives, and the report of that write
ends it with the value and the entry held with it. -/
theorem bufferCommandsRun : Obligations.BufferCommandsRun := by
  refine ⟨fun s xfer e arrives => ?_, fun s xfer a e value awaited ha hc => ⟨?_, ?_⟩⟩
  · intro t written bit logged log
    have log_eq : faultLogBytes s.faults = log := faultLogBytes_eq s.faults
    refine ⟨fun ho => ?_, fun ho => ⟨log_eq ▸ faultLogBytes_length s.faults, ?_⟩, fun ho => ?_⟩
    · rw [exec_identify arrives ho, identifyBytes_eq]
      rfl
    · rw [exec_readFaultLog arrives ho, captureValue_eq, log_eq]
      rfl
    · exact exec_listPoison arrives ho
  · rw [exec_adminBufferWriteComplete awaited, bufferValue_of_running ha hc]
  · rw [exec_adminBufferWriteFailure awaited, bufferValue_of_running ha hc, adminBufferFault_of_running ha hc]

end BufferCommands

end Sys2Proof.Machine

/-! # Indexes that go round a ring (R119, R136) -/

namespace Sys2Proof.Machine

section RingIndexes

variable {size a b c n : Nat}

theorem ringGap_eq (ha : a < size) (hb : b < size) : ringGap size a b = if a ≤ b then b - a else b + size - a := by
  unfold ringGap
  split
  · next h => rw [show b + size - a = b - a + size by omega, Nat.add_mod_right, Nat.mod_eq_of_lt (by omega)]
  · exact Nat.mod_eq_of_lt (by omega)

theorem ringGap_lt (ha : a < size) (b : Nat) : ringGap size a b < size := Nat.mod_lt _ (by omega)

theorem ringGap_self (ha : a < size) : ringGap size a a = 0 := by rw [ringGap_eq ha ha]; simp

theorem ringGap_inj (ha : a < size) (hb : b < size) (hc : c < size) (h : ringGap size a b = ringGap size a c) :
    b = c := by
  rw [ringGap_eq ha hb, ringGap_eq ha hc] at h
  split at h <;> split at h <;> omega

/-- The gap between two indexes, seen from a third that lies before both. -/
theorem ringGap_sub (ha : a < size) (hb : b < size) (hc : c < size) (h : ringGap size a b ≤ ringGap size a c) :
    ringGap size b c = ringGap size a c - ringGap size a b := by
  rw [ringGap_eq ha hb, ringGap_eq ha hc] at *
  rw [ringGap_eq hb hc]
  split at h <;> split at h <;> split <;> omega

theorem ringAdd_mod (hb : b < size) (hn : n ≤ size) : (b + n) % size = if b + n < size then b + n else b + n - size := by
  split
  · next h => exact Nat.mod_eq_of_lt h
  · rw [Nat.mod_eq_sub_mod (by omega), Nat.mod_eq_of_lt (by omega)]

theorem ringAdd_lt (hb : b < size) (n : Nat) : (b + n) % size < size := Nat.mod_lt _ (by omega)

/-- An index that moves on by less than the rest of the ring lies as much further from where the ring is looked at. -/
theorem ringGap_add (ha : a < size) (hb : b < size) (h : ringGap size a b + n < size) :
    ringGap size a ((b + n) % size) = ringGap size a b + n := by
  rw [ringGap_eq ha hb] at *
  rw [ringGap_eq ha (ringAdd_lt hb n), ringAdd_mod hb (by omega)]
  split at h <;> split <;> split <;> omega

theorem ringGap_forward (ha : a < size) (h : n < size) : ringGap size a ((a + n) % size) = n := by
  rw [ringGap_add ha ha (by rw [ringGap_self ha]; omega), ringGap_self ha, Nat.zero_add]

theorem add_ringGap (ha : a < size) (hb : b < size) : (a + ringGap size a b) % size = b :=
  ringGap_inj ha (ringAdd_lt ha _) hb (ringGap_forward ha (ringGap_lt ha b))

theorem ringNext_add (a n : Nat) : ringNext size ((a + n) % size) = (a + (n + 1)) % size := by
  rw [ringNext, Nat.mod_add_mod, Nat.add_assoc]

end RingIndexes

end Sys2Proof.Machine

/-! # A posting event (R129, R130, R139, R144, R145) -/

namespace Sys2Proof.Machine

section PostingEvents

variable {s : State} {r rr : RingId} {w : WorkRing} {q : ResultRing}

/-! ## The results (R139) -/

theorem resultEntryBytes_length (tag : BitVec 16) (r : RingId) (slot : Nat) (o : MemberOutcome) (member count : Nat)
    (serial : Serial) : (resultEntryBytes tag r slot o member count serial).length = 16 := by
  simp [resultEntryBytes]

/-- The write of one result of a posting event whose first write has number `first`: its posting, with its place. -/
def resultWrite (r rr : RingId) (q : ResultRing) (count now first member : Nat) (x : Posting × Nat) : Transfer :=
  { xfer := first + x.2
    kind := .result rr (q.postedMany now x.2).produce (q.postedMany now x.2).serial
    addr := itemAddr q.base 16 (q.postedMany now x.2).produce
    length := 16
    body := resultEntryBytes x.1.tag r x.1.ringSlot x.1.outcome (member + x.2) count (q.postedMany now x.2).serial
    issued := now
    heeded := true }

/-- The writes of the results of a posting event, in member order. -/
def resultWrites (r rr : RingId) (q : ResultRing) (count now first member : Nat) (posts : List Posting) :
    List Transfer :=
  posts.zipIdx.map (resultWrite r rr q count now first member)

theorem resultWrites_cons (count now first member : Nat) (p : Posting) (rest : List Posting) :
    resultWrites r rr q count now first member (p :: rest) =
      resultWrite r rr q count now first member (p, 0) ::
        resultWrites r rr (q.posted now) count now (first + 1) (member + 1) rest := by
  have later : ∀ x : Posting × Nat, resultWrite r rr q count now first member (x.1, x.2 + 1) =
      resultWrite r rr (q.posted now) count now (first + 1) (member + 1) x := fun x => by
    simp only [resultWrite, ResultRing.postedMany, Nat.add_assoc, Nat.add_comm 1]
    rfl
  rw [resultWrites, resultWrites, List.zipIdx_cons', List.map_cons, List.map_map]
  exact congrArg _ (List.map_congr_left fun x _ => later x)

/-- The state in which results have left: their writes are issued, their slots are no longer outstanding, and their
result ring has moved on. -/
def resultsLeft (r rr : RingId) (w : WorkRing) (q : ResultRing) (count member : Nat) (posts : List Posting)
    (s : State) : State :=
  { s with
    link :=
      { transfers := s.link.transfers ++ resultWrites r rr q count s.now s.link.next member posts
        next := s.link.next + posts.length }
    rings := { s.rings with
      work := s.rings.work.set r (some { w with
        outstanding := w.outstanding.filter fun i => !(posts.map Posting.ringSlot).contains i })
      results := s.rings.results.set rr (some (q.postedMany s.now posts.length)) } }

theorem postResult_eq (hw : s.rings.work[r] = some w) (hq : s.rings.results[rr] = some q) (member count : Nat)
    (p : Posting) : postResult r rr member count p s = { s with
      link :=
        { transfers := s.link.transfers ++ [resultWrite r rr q count s.now s.link.next member (p, 0)]
          next := s.link.next + 1 }
      rings := { s.rings with
        work := s.rings.work.set r (some { w with outstanding := w.outstanding.filter (· != p.ringSlot) })
        results := s.rings.results.set rr (some (q.posted s.now)) } } := by
  unfold postResult
  rw [hq]
  dsimp only
  unfold endOutstanding
  rw [State.setResult_work, show (issueWrite _ _ _ s).rings.work[r] = some w from hw]
  unfold issueWrite
  rw [resultEntryBytes_length]
  rfl

theorem filter_slots (l : List Nat) (p : Posting) (rest : List Posting) :
    (l.filter (· != p.ringSlot)).filter (fun i => !(rest.map Posting.ringSlot).contains i) =
      l.filter fun i => !((p :: rest).map Posting.ringSlot).contains i := by
  rw [List.filter_filter]
  refine List.filter_congr fun i _ => ?_
  rw [List.map_cons, List.contains_cons, Bool.not_or, Bool.and_comm]
  rfl

theorem postFrom_eq (hw : s.rings.work[r] = some w) (hq : s.rings.results[rr] = some q) (count member : Nat)
    (posts : List Posting) : postFrom r rr count member posts s = resultsLeft r rr w q count member posts s := by
  induction posts generalizing s w q member with
  | nil =>
    have work : s.rings.work.set r (some w) = s.rings.work := by rw [← hw]; exact Vector.set_getElem_self _
    have results : s.rings.results.set rr (some q) = s.rings.results := by rw [← hq]; exact Vector.set_getElem_self _
    simp [postFrom, resultsLeft, resultWrites, ResultRing.postedMany, work, results]
  | cons p rest ih =>
    rw [postFrom, postResult_eq hw hq, ih (by rw [getElem_set_fin, if_pos rfl]) (by rw [getElem_set_fin, if_pos rfl])]
    simp only [resultsLeft, resultWrites_cons, filter_slots, Vector.set_set, List.append_assoc, List.singleton_append,
      List.length_cons, ResultRing.postedMany, Nat.add_assoc, Nat.add_comm 1]

/-! ## What a result ring is after its results (R138, R139) -/

/-- A result ring after `n` results, where its produce index is one of its slots. -/
theorem postedMany_eq (h : q.produce < q.size) (now n : Nat) : q.postedMany now n = { q with
    produce := (q.produce + n) % q.size
    reserved := q.reserved - n
    serial := q.serial + BitVec.ofNat 24 n
    unsignalled := q.unsignalled + n
    firstUnsignalled := if q.unsignalled = 0 ∧ 0 < n then some now else q.firstUnsignalled } := by
  induction n generalizing q with
  | zero => simp [ResultRing.postedMany, Nat.mod_eq_of_lt h]
  | succ n ih =>
    have moved : (q.posted now).produce < (q.posted now).size := Nat.mod_lt _ (by show 0 < q.size; omega)
    rw [ResultRing.postedMany, ih moved]
    simp only [ResultRing.posted, ringNext, Nat.mod_add_mod, ResultRing.mk.injEq, true_and, and_true]
    refine ⟨by rw [Nat.add_assoc, Nat.add_comm 1], by omega, ?_, by omega, ?_⟩
    · rw [BitVec.add_assoc, Nat.add_comm n 1, BitVec.ofNat_add]
      rfl
    · simp

/-! ## Retirement (R129, R130) -/

/-- How far the retire index gets: past slots that are not outstanding, up to the take index or to one that is. -/
structure RetiresBy (w : WorkRing) (d : Nat) : Prop where
  retired : w.retired = (w.retire + d) % w.size
  within : d ≤ ringGap w.size w.retire w.take
  passed : ∀ i, i < d → (w.retire + i) % w.size ∉ w.outstanding
  stops : d < ringGap w.size w.retire w.take → (w.retire + d) % w.size ∈ w.outstanding

theorem retireFrom_spec (hr : w.retire < w.size) (fuel k : Nat)
    (hk : k + fuel = ringGap w.size w.retire w.take) (passed : ∀ i, i < k → (w.retire + i) % w.size ∉ w.outstanding) :
    ∃ d, retireFrom w fuel ((w.retire + k) % w.size) = (w.retire + d) % w.size ∧
      d ≤ ringGap w.size w.retire w.take ∧ (∀ i, i < d → (w.retire + i) % w.size ∉ w.outstanding) ∧
      (d < ringGap w.size w.retire w.take → (w.retire + d) % w.size ∈ w.outstanding) := by
  induction fuel generalizing k with
  | zero => exact ⟨k, rfl, by omega, passed, fun h => absurd h (by omega)⟩
  | succ fuel ih =>
    have gap := ringGap_lt hr w.take
    have before : (w.retire + k) % w.size ≠ w.take := fun e => by
      have := ringGap_forward hr (n := k) (by omega)
      rw [e] at this
      omega
    unfold retireFrom
    split
    · next h =>
      exact ⟨k, rfl, by omega, passed, fun _ => by simpa using h.resolve_left before⟩
    · next h =>
      rw [ringNext_add]
      refine ih (k + 1) (by omega) fun i hi => ?_
      by_cases e : i = k
      · rw [e]; simpa using fun hm => h (.inr (by simpa using hm))
      · exact passed i (by omega)

theorem exists_retiresBy (hr : w.retire < w.size) : ∃ d, RetiresBy w d := by
  obtain ⟨d, retired, within, passed, stops⟩ := retireFrom_spec hr _ 0 (Nat.zero_add _) (by simp)
  rw [Nat.add_zero, Nat.mod_eq_of_lt hr] at retired
  exact ⟨d, retired, within, passed, stops⟩

theorem RetiresBy.moved_iff {d : Nat} (h : RetiresBy w d) (hr : w.retire < w.size) : w.retired ≠ w.retire ↔ 0 < d := by
  have gap := ringGap_lt hr w.take
  have within := h.within
  rw [h.retired, ne_eq, Nat.pos_iff_ne_zero, not_iff_not]
  constructor
  · intro e
    have := ringGap_forward hr (n := d) (by omega)
    rwa [e, ringGap_self hr, eq_comm] at this
  · rintro rfl
    exact Nat.mod_eq_of_lt hr

/-- The status block's part in a retirement of a work ring: the transfers issued, and the state of the entries'
writes. -/
structure StatusWritten (s : State) (r : RingId) (w : WorkRing) (status : List Transfer)
    (writes : Vector StatusWrite 16) : Prop where
  stayed : w.retired = w.retire → status = [] ∧ writes = s.rings.status
  issued : w.retired ≠ w.retire → s.rings.status[statusEntryOf r] = .idle →
    writes = s.rings.status.set (statusEntryOf r) (.inFlight none) ∧ status = [{
      xfer := s.link.next, kind := .status (statusEntryOf r) w.retired
      addr := itemAddr (statusBase s) 8 (ringNumber r), length := 8, body := statusEntryBytes w.retired
      issued := s.now, heeded := true }]
  waits : w.retired ≠ w.retire → ∀ p, s.rings.status[statusEntryOf r] = .inFlight p →
    status = [] ∧ writes = s.rings.status.set (statusEntryOf r) (.inFlight (some w.retired))

theorem retireRing_spec (hw : s.rings.work[r] = some w) : ∃ status writes, StatusWritten s r w status writes ∧
    retireRing r s = { s with
      link := { transfers := s.link.transfers ++ status, next := s.link.next + status.length }
      rings := { s.rings with work := s.rings.work.set r (some { w with retire := w.retired }), status := writes } } := by
  unfold retireRing
  rw [hw]
  dsimp only
  split
  · next stayed =>
    refine ⟨[], s.rings.status, ⟨fun _ => ⟨rfl, rfl⟩, fun h => absurd stayed h, fun h => absurd stayed h⟩, ?_⟩
    have work : s.rings.work.set r (some { w with retire := w.retired }) = s.rings.work := by
      rw [stayed, show ({ w with retire := w.retire } : WorkRing) = w from rfl, ← hw]
      exact Vector.set_getElem_self _
    rw [work, List.append_nil]
    rfl
  · next moved =>
    unfold writeStatus
    rw [State.setWork_status]
    cases idle : s.rings.status[statusEntryOf r] with
    | idle =>
      exact ⟨_, _, ⟨fun h => absurd h moved, fun _ _ => ⟨rfl, rfl⟩, fun _ p h => absurd (idle.symm.trans h) (by simp)⟩, rfl⟩
    | inFlight p =>
      refine ⟨[], _, ⟨fun h => absurd h moved, fun _ h => absurd (idle.symm.trans h) (by simp), fun _ _ _ => ⟨rfl, rfl⟩⟩, ?_⟩
      rw [List.append_nil]
      rfl

/-! ## The message (R144, R145) -/

/-- The message of a coalescing check. -/
structure MessageCaused (s : State) (rr : RingId) (q : ResultRing) (message : List Transfer) : Prop where
  caused : q.messageDue = true → q.msgEnabled = true → message = [{
    xfer := s.link.next, kind := .message (some rr), addr := q.msgAddr, length := 4
    body := leBytes 4 q.msgData.toNat, issued := s.now, heeded := true }]
  none : q.messageDue = false ∨ q.msgEnabled = false → message = []

theorem coalesceCheck_spec (hq : s.rings.results[rr] = some q) : ∃ message, MessageCaused s rr q message ∧
    coalesceCheck rr s = { s with
      link := { transfers := s.link.transfers ++ message, next := s.link.next + message.length }
      rings := { s.rings with results := s.rings.results.set rr (some q.signalled) } } := by
  unfold coalesceCheck ResultRing.signalled
  rw [hq]
  dsimp only
  by_cases due : q.messageDue = true
  · simp only [if_pos due]
    by_cases enabled : q.msgEnabled = true
    · refine ⟨_, ⟨fun _ _ => rfl, fun h => ?_⟩, ?_⟩
      · rw [due, enabled] at h; cases h <;> contradiction
      · rw [causeMessage_enabled enabled]
        rfl
    · refine ⟨[], ⟨fun _ h => absurd h enabled, fun _ => rfl⟩, ?_⟩
      rw [causeMessage_disabled (Bool.eq_false_iff.2 enabled), List.append_nil]
      rfl
  · simp only [if_neg due]
    refine ⟨[], ⟨fun h => absurd h due, fun _ => rfl⟩, ?_⟩
    have results : s.rings.results.set rr (some q) = s.rings.results := by rw [← hq]; exact Vector.set_getElem_self _
    rw [results, List.append_nil]
    rfl

/-! ## The event -/

/-- A work ring whose results of these slots have left, before it retires. -/
def WorkRing.answered (w : WorkRing) (slots : List Nat) : WorkRing :=
  { w with outstanding := w.outstanding.filter fun i => !slots.contains i }

theorem finished_eq (w : WorkRing) (slots : List Nat) :
    w.finished slots = { w.answered slots with retire := (w.answered slots).retired } := rfl

/-- What a posting event makes of the state: the transfers that it issues, and the rings. -/
structure UnitPosted (s : State) (r : RingId) (w : WorkRing) (q : ResultRing) (posts : List Posting) (t : State)
    (status message : List Transfer) (writes : Vector StatusWrite 16) : Prop where
  state : t = { s with
    link :=
      { transfers := s.link.transfers ++ resultWrites r w.boundTo q posts.length s.now s.link.next 1 posts ++ status ++
          message
        next := s.link.next + posts.length + status.length + message.length }
    rings := { s.rings with
      work := s.rings.work.set r (some (w.finished (posts.map Posting.ringSlot)))
      results := s.rings.results.set w.boundTo (some (q.postedMany s.now posts.length).signalled)
      status := writes } }
  written : StatusWritten (resultsLeft r w.boundTo w q posts.length 1 posts s) r (w.answered (posts.map Posting.ringSlot))
    status writes
  caused : MessageCaused
    { s with link := { s.link with next := s.link.next + posts.length + status.length } } w.boundTo
      (q.postedMany s.now posts.length) message

theorem postUnit_spec (hw : s.rings.work[r] = some w) (hq : s.rings.results[w.boundTo] = some q)
    (posts : List Posting) : ∃ status message writes,
      UnitPosted s r w q posts (postUnit r posts s) status message writes := by
  unfold postUnit
  rw [hw]
  dsimp only
  rw [postFrom_eq hw hq]
  obtain ⟨status, writes, written, retired⟩ := retireRing_spec
    (s := resultsLeft r w.boundTo w q posts.length 1 posts s) (r := r) (w := w.answered (posts.map Posting.ringSlot))
    (by simp only [resultsLeft]; rw [getElem_set_fin, if_pos rfl]; rfl)
  obtain ⟨message, caused, checked⟩ := coalesceCheck_spec (s := retireRing r _) (rr := w.boundTo)
    (q := q.postedMany s.now posts.length) (by
      rw [retired]; simp only [resultsLeft]; rw [getElem_set_fin, if_pos rfl])
  refine ⟨status, message, writes, ?_, written, ?_⟩
  · rw [checked, retired]
    simp only [resultsLeft, Vector.set_set, finished_eq]
  · rw [retired] at caused
    exact ⟨caused.caused, caused.none⟩

theorem messageDue_iff (q : ResultRing) : q.messageDue = true ↔
    q.coalesceCount ≤ q.unsignalled ∨ (q.coalesceTime = 0 ∧ 0 < q.unsignalled) := by
  simp [ResultRing.messageDue]

end PostingEvents

end Sys2Proof.Machine

namespace Sys2Proof.Machine

section PostingEventsSettled

variable {s t : State} {r : RingId} {w : WorkRing} {q : ResultRing} {posts : List Posting}
  {status message : List Transfer} {writes : Vector StatusWrite 16}

theorem UnitPosted.work (h : UnitPosted s r w q posts t status message writes) (n : RingId) :
    t.rings.work[n] = if n = r then some (w.finished (posts.map Posting.ringSlot)) else s.rings.work[n] := by
  rw [h.state]; exact getElem_set_fin _ _ _ _

theorem UnitPosted.results (h : UnitPosted s r w q posts t status message writes) (n : RingId) :
    t.rings.results[n] =
      if n = w.boundTo then some (q.postedMany s.now posts.length).signalled else s.rings.results[n] := by
  rw [h.state]; exact getElem_set_fin _ _ _ _

/-- The write of each result stands among the transfers. -/
theorem UnitPosted.mem_results (h : UnitPosted s r w q posts t status message writes) {i : Nat} {p : Posting}
    (hp : posts[i]? = some p) :
    resultWrite r w.boundTo q posts.length s.now s.link.next 1 (p, i) ∈ t.link.transfers := by
  rw [h.state]
  refine List.mem_append_left _ (List.mem_append_left _ (List.mem_append_right _ (List.mem_map_of_mem ?_)))
  exact List.mem_zipIdx_iff_getElem?.2 hp

theorem signalled_eq (q : ResultRing) : q.signalled = { q with
    unsignalled := if q.messageDue then 0 else q.unsignalled
    firstUnsignalled := if q.messageDue then none else q.firstUnsignalled } := by
  unfold ResultRing.signalled
  split <;> rfl

/-- The result writes, with their indexes and serials as numbers. -/
theorem resultWrites_eq (hp : q.produce < q.size) (r rr : RingId) (count now first : Nat) (posts : List Posting) :
    resultWrites r rr q count now first 1 posts = posts.zipIdx.map fun x =>
      { xfer := first + x.2
        kind := .result rr ((q.produce + x.2) % q.size) (q.serial + BitVec.ofNat 24 x.2)
        addr := itemAddr q.base 16 ((q.produce + x.2) % q.size)
        length := 16
        body := resultEntryBytes x.1.tag r x.1.ringSlot x.1.outcome (x.2 + 1) count (q.serial + BitVec.ofNat 24 x.2)
        issued := now
        heeded := true } := by
  refine List.map_congr_left fun x _ => ?_
  simp only [resultWrite, postedMany_eq hp, Nat.add_comm 1]

theorem mem_answered (w : WorkRing) (posts : List Posting) (i : Nat) :
    i ∈ (w.answered (posts.map Posting.ringSlot)).outstanding ↔ i ∈ w.outstanding ∧ ∀ p ∈ posts, p.ringSlot ≠ i := by
  simp [WorkRing.answered]

theorem postedMany_messageDue (hp : q.produce < q.size) (now n : Nat) : (q.postedMany now n).messageDue = true ↔
    q.coalesceCount ≤ q.unsignalled + n ∨ (q.coalesceTime = 0 ∧ 0 < q.unsignalled + n) := by
  rw [messageDue_iff, postedMany_eq hp]

/-- A result ring after the results and the message check. -/
theorem postedMany_signalled_eq (hp : q.produce < q.size) (now n : Nat) : (q.postedMany now n).signalled = { q with
    produce := (q.produce + n) % q.size
    reserved := q.reserved - n
    serial := q.serial + BitVec.ofNat 24 n
    unsignalled := if (q.postedMany now n).messageDue then 0 else q.unsignalled + n
    firstUnsignalled := if (q.postedMany now n).messageDue then none
      else if q.unsignalled = 0 ∧ 0 < n then some now else q.firstUnsignalled } := by
  rw [signalled_eq]
  generalize (q.postedMany now n).messageDue = due
  rw [postedMany_eq hp]

/-- What a retirement writes to the status block, by how far the retire index gets. -/
theorem StatusWritten.of_retiresBy {s : State} {w : WorkRing} {d : Nat} (h : StatusWritten s r w status writes)
    (moves : RetiresBy w d) (hr : w.retire < w.size) :
    (d = 0 → status = [] ∧ writes = s.rings.status) ∧
    (0 < d → s.rings.status[statusEntryOf r] = .idle →
      writes = s.rings.status.set (statusEntryOf r) (.inFlight none) ∧ status = [{
        xfer := s.link.next, kind := .status (statusEntryOf r) w.retired
        addr := itemAddr (statusBase s) 8 (ringNumber r), length := 8, body := statusEntryBytes w.retired
        issued := s.now, heeded := true }]) ∧
    (0 < d → ∀ p, s.rings.status[statusEntryOf r] = .inFlight p →
      status = [] ∧ writes = s.rings.status.set (statusEntryOf r) (.inFlight (some w.retired))) :=
  ⟨fun still => h.stayed (not_not.1 (mt (moves.moved_iff hr).1 (by omega))),
    fun moved => h.issued ((moves.moved_iff hr).2 moved), fun moved => h.waits ((moves.moved_iff hr).2 moved)⟩

/-- Settles O26: a posting event posts the results, retires what it can and checks for a message, and each of the three
is said by its own equation. -/
theorem postingEvent : Obligations.PostingEvent := by
  intro s r posts w q hw hq
  obtain ⟨status, message, writes, posted⟩ := postUnit_spec hw hq posts
  generalize postUnit r posts s = t at posted ⊢
  have state := posted.state
  refine ⟨by rw [posted.work, if_pos rfl], by rw [posted.results, if_pos rfl],
    fun m hm => by rw [posted.work, if_neg hm], fun m hm => by rw [posted.results, if_neg hm], by rw [state], by rw [state],
    by rw [state], by rw [state], by rw [state], by rw [state], by rw [state], by rw [state], by rw [state],
    by rw [state], fun i p hp => ⟨_, posted.mem_results hp, _, rfl, rfl, rfl, ?_⟩, fun retire _ produce => ?_⟩
  · rw [resultWrite, Nat.add_comm 1]
  · obtain ⟨d, moves⟩ := exists_retiresBy (w := w.answered (posts.map Posting.ringSlot)) retire
    obtain ⟨stayed, issued, waits⟩ := posted.written.of_retiresBy moves retire
    refine ⟨w.finished (posts.map Posting.ringSlot), _, d, (q.postedMany s.now posts.length).messageDue, status, message, by rw [posted.work, if_pos rfl], ?_,
      mem_answered w posts, moves.within, moves.passed, moves.stops, by rw [posted.results, if_pos rfl],
      postedMany_messageDue produce _ _, postedMany_signalled_eq produce _ _, ?_, fun still => ?_, fun moved idle => ?_,
      fun moved p inFlight => ?_, fun due enabled => ?_, fun none => posted.caused.none ?_⟩
    · rw [finished_eq, moves.retired]
      rfl
    · rw [state, resultWrites_eq produce]
    · rw [state]
      exact stayed still
    · rw [state]
      exact issued moved idle
    · rw [state]
      exact (waits moved p inFlight)
    · have enabled' : (q.postedMany s.now posts.length).msgEnabled = true := by rw [postedMany_eq produce]; exact enabled
      rw [posted.caused.caused due enabled', postedMany_eq produce]
    · rw [postedMany_eq produce] at none ⊢
      exact none

end PostingEventsSettled

end Sys2Proof.Machine

/-! # What the ring operations do to the order of a ring (R122 to R124, R128, R129, R138, R143) -/

namespace Sys2Proof.Machine

section RingOrder

variable {w : WorkRing} {q : ResultRing} {n p d : Nat}

/-! ## Work rings -/

theorem WorkRing.Ordered.gap_lt (h : w.Ordered) (i : Nat) : ringGap w.size w.retire i < w.size := ringGap_lt h.retire i

/-- The gaps that begin at the take index, from those that begin at the retire index. -/
theorem WorkRing.Ordered.gap_take (h : w.Ordered) {i : Nat} (hi : i < w.size)
    (le : ringGap w.size w.retire w.take ≤ ringGap w.size w.retire i) :
    ringGap w.size w.take i = ringGap w.size w.retire i - ringGap w.size w.retire w.take :=
  ringGap_sub h.retire h.take hi le

theorem WorkRing.Ordered.answered (h : w.Ordered) (slots : List Nat) : (w.answered slots).Ordered :=
  { h with
    distinct := h.distinct.filter _
    outstanding := fun i hi => h.outstanding i (List.mem_filter.1 hi).1 }

/-- The retire index moves on; every other gap shrinks by as much. -/
theorem WorkRing.Ordered.retired (h : w.Ordered) (moves : RetiresBy w d) :
    WorkRing.Ordered { w with retire := w.retired } := by
  have within := moves.within
  have ahead : ringGap w.size w.retire w.retired = d := by
    rw [moves.retired]
    exact ringGap_forward h.retire (within.trans_lt (h.gap_lt _))
  have below : w.retired < w.size := by
    rw [moves.retired]
    exact Nat.mod_lt _ (by have := h.retire; omega)
  have shrinks : ∀ i, i < w.size → d ≤ ringGap w.size w.retire i →
      ringGap w.size w.retired i = ringGap w.size w.retire i - d := fun i hi le => by
    rw [ringGap_sub h.retire below hi (by omega), ahead]
  have takeFetch := h.takeFetch
  have fetchPost := h.fetchPost
  have prefetch := h.prefetch
  have take := shrinks w.take h.take within
  have fetch := shrinks w.fetch h.fetch (within.trans takeFetch)
  have post := shrinks w.post h.post ((within.trans takeFetch).trans fetchPost)
  refine { h with retire := below, takeFetch := ?_, fetchPost := ?_, prefetch := ?_, inFlight := fun f hf hs => ?_,
                  outstanding := fun i hi => ?_ }
  all_goals dsimp only
  · omega
  · omega
  · omega
  · have := h.inFlight f hf hs
    omega
  · obtain ⟨small, before⟩ := h.outstanding i hi
    refine ⟨small, ?_⟩
    have reached : d ≤ ringGap w.size w.retire i := not_lt.1 fun lt =>
      moves.passed _ lt (by rw [add_ringGap h.retire small]; exact hi)
    rw [shrinks i small reached]
    omega

theorem WorkRing.Ordered.finished (h : w.Ordered) (slots : List Nat) : (w.finished slots).Ordered := by
  obtain ⟨d, moves⟩ := exists_retiresBy (w := w.answered slots) h.retire
  exact (h.answered slots).retired moves

/-- The post index moves, and what lies behind it is withdrawn (R123). -/
theorem WorkRing.Ordered.posted (h : w.Ordered) (valid : w.validPost p = true) : (w.posted p).Ordered := by
  obtain ⟨below, ahead⟩ := Bool.and_eq_true_iff.1 valid
  have below : p < w.size := of_decide_eq_true below
  have ahead : ringGap w.size w.retire w.take ≤ ringGap w.size w.retire p := of_decide_eq_true ahead
  unfold WorkRing.posted
  split
  · next back =>
    have fetchPost := h.fetchPost
    have takeFetch := h.takeFetch
    have prefetch := h.prefetch
    have fetch := h.fetch
    have taken := h.gap_take below ahead
    have length : (w.withdraw p).prefetch.length = min (ringGap w.size w.take p) w.prefetch.length := List.length_take
    have stale : (w.withdraw p).fetchStale = false → w.fetchRead = none := fun e => by
      simp only [WorkRing.withdraw, Bool.or_eq_false_iff] at e
      exact Option.isSome_eq_false_iff.1 e.2 |> Option.isNone_iff_eq_none.1
    have moved : (w.withdraw p).fetch < w.size ∧ ringGap w.size w.retire (w.withdraw p).fetch =
        min (ringGap w.size w.retire p) (ringGap w.size w.retire w.fetch) := by
      unfold WorkRing.withdraw
      dsimp only
      split
      · exact ⟨below, by omega⟩
      · exact ⟨fetch, by omega⟩
    refine { h with
      post := below, fetch := moved.1, takeFetch := ?_, fetchPost := ?_, prefetch := ?_
      inFlight := fun f hf hs => absurd ((stale hs).symm.trans hf) (by simp) }
    · show ringGap w.size w.retire w.take ≤ ringGap w.size w.retire (w.withdraw p).fetch
      omega
    · show ringGap w.size w.retire (w.withdraw p).fetch ≤ ringGap w.size w.retire p
      omega
    · show ringGap w.size w.retire w.take + (w.withdraw p).prefetch.length ≤
        ringGap w.size w.retire (w.withdraw p).fetch
      omega
  · next forward =>
    have onward : ringGap w.size w.retire w.post ≤ ringGap w.size w.retire p := by
      simpa [WorkRing.withdraws] using forward
    exact { h with
      post := below
      fetchPost := h.fetchPost.trans onward
      inFlight := fun f hf hs => (h.inFlight f hf hs).trans onward }

/-- A fetch read asks for entries that are posted and not yet fetched (R124). -/
theorem WorkRing.Ordered.fetching (h : w.Ordered) :
    WorkRing.Ordered { w with fetchRead := some { first := w.fetch, count := w.fetchCount } } := by
  refine { h with inFlight := fun f hf _ => ?_ }
  cases hf
  have gap := ringGap_sub h.retire h.fetch h.post h.fetchPost
  have least : w.fetchCount ≤ ringGap w.size w.fetch w.post := Nat.min_le_left _ _
  have := h.fetchPost
  show ringGap w.size w.retire w.fetch + w.fetchCount ≤ ringGap w.size w.retire w.post
  omega

theorem WorkRing.Ordered.endFetch (h : w.Ordered) : w.endFetch.Ordered :=
  { h with inFlight := fun _ hf => absurd hf (by simp [WorkRing.endFetch]) }

/-- The entries of a read in flight that is not stale are appended (R124). -/
theorem WorkRing.Ordered.append (h : w.Ordered) {f : FetchRead} (hf : w.fetchRead = some f)
    (fresh : w.fetchStale = false) {entries : List Entry} (count : entries.length = f.count) :
    (w.append entries).Ordered := by
  have room := h.inFlight f hf fresh
  have post := h.gap_lt w.post
  have fetched : ringGap w.size w.retire ((w.fetch + entries.length) % w.size) =
      ringGap w.size w.retire w.fetch + entries.length := ringGap_add h.retire h.fetch (by omega)
  have takeFetch := h.takeFetch
  have prefetch := h.prefetch
  refine { h with
    fetch := Nat.mod_lt _ (by have := h.retire; show 0 < w.size; omega), takeFetch := ?_, fetchPost := ?_, prefetch := ?_
    inFlight := fun f hf _ => absurd hf (by simp [WorkRing.append, WorkRing.endFetch]) }
  · show ringGap w.size w.retire w.take ≤ ringGap w.size w.retire ((w.fetch + entries.length) % w.size)
    omega
  · show ringGap w.size w.retire ((w.fetch + entries.length) % w.size) ≤ ringGap w.size w.retire w.post
    omega
  · show ringGap w.size w.retire w.take + (w.prefetch ++ entries).length ≤
      ringGap w.size w.retire ((w.fetch + entries.length) % w.size)
    rw [List.length_append]
    omega

/-- A unit of entries of the prefetch buffer is taken (R128). -/
theorem WorkRing.Ordered.gap_taken (h : w.Ordered) (hn : n ≤ w.prefetch.length) :
    ringGap w.size w.retire ((w.take + n) % w.size) = ringGap w.size w.retire w.take + n :=
  ringGap_add h.retire h.take (by have := h.prefetch; have := h.gap_lt w.fetch; omega)

theorem WorkRing.Ordered.taken (h : w.Ordered) (hn : n ≤ w.prefetch.length) : (w.taken n).Ordered := by
  have taken := h.gap_taken hn
  have prefetch := h.prefetch
  refine { h with
    take := Nat.mod_lt _ (by have := h.retire; show 0 < w.size; omega), takeFetch := ?_, prefetch := ?_
    outstanding := fun i hi => ?_ }
  · show ringGap w.size w.retire ((w.take + n) % w.size) ≤ ringGap w.size w.retire w.fetch
    omega
  · show ringGap w.size w.retire ((w.take + n) % w.size) + (w.prefetch.drop n).length ≤
      ringGap w.size w.retire w.fetch
    rw [List.length_drop]
    omega
  · obtain ⟨small, before⟩ := h.outstanding i hi
    refine ⟨small, ?_⟩
    show ringGap w.size w.retire i < ringGap w.size w.retire ((w.take + n) % w.size)
    omega

/-- Entries leave the prefetch buffer. -/
theorem WorkRing.Ordered.fewer (h : w.Ordered) {l : List Entry} (hl : l.length ≤ w.prefetch.length) :
    WorkRing.Ordered { w with prefetch := l } :=
  { h with prefetch := (Nat.add_le_add_left hl _).trans h.prefetch }

theorem WorkRing.Ordered.discard (h : w.Ordered) : w.discard.Ordered := { h.fewer (l := []) (Nat.zero_le _) with }

theorem WorkRing.Ordered.dropIncomplete (h : w.Ordered) : (dropIncomplete w).Ordered := by
  unfold Machine.dropIncomplete
  split
  · exact h.fewer (Nat.zero_le _)
  · exact h

theorem validRingSize_pos (h : validRingSize n = true) : 0 < n := by
  have := List.contains_iff_mem.1 h
  simp at this
  omega

theorem createdWork_ordered {e : Entry} (h : validWorkParams e = true) (rr : RingId) : (createdWork e rr).Ordered := by
  have size : 0 < (createdWork e rr).size := by
    simp only [validWorkParams, Bool.and_eq_true] at h
    obtain ⟨⟨⟨-, valid⟩, -⟩, -⟩ := h
    exact validRingSize_pos valid
  exact ⟨size, size, size, size, le_refl _, le_refl _, le_refl _, fun f hf => (by cases hf), List.nodup_nil,
    fun i hi => (by cases hi)⟩

/-! ## Result rings -/

theorem ResultRing.CreditBounded.credit_eq (h : q.CreditBounded) :
    ringGap q.size q.release q.produce + q.reserved + q.credit = q.size - 1 := by
  have := h.credit
  unfold ResultRing.credit
  omega

/-- Results take reserved entries (R139). -/
theorem ResultRing.CreditBounded.postedMany (h : q.CreditBounded) (hn : n ≤ q.reserved) (now : Nat) :
    (q.postedMany now n).CreditBounded := by
  have credit := h.credit
  have release := h.release
  have produced : ringGap q.size q.release ((q.produce + n) % q.size) = ringGap q.size q.release q.produce + n :=
    ringGap_add h.release h.produce (by omega)
  rw [postedMany_eq h.produce]
  refine ⟨Nat.mod_lt _ (by show 0 < q.size; omega), h.release, ?_⟩
  show ringGap q.size q.release ((q.produce + n) % q.size) + (q.reserved - n) ≤ q.size - 1
  omega

theorem ResultRing.CreditBounded.signalled (h : q.CreditBounded) : q.signalled.CreditBounded := by
  rw [signalled_eq]
  exact { h with }

theorem ResultRing.CreditBounded.reserve (h : q.CreditBounded) (hn : n ≤ q.credit) :
    ResultRing.CreditBounded { q with reserved := q.reserved + n } := by
  have credit := h.credit_eq
  refine { h with credit := ?_ }
  show ringGap q.size q.release q.produce + (q.reserved + n) ≤ q.size - 1
  omega

theorem ResultRing.CreditBounded.unreserve (h : q.CreditBounded) (n : Nat) :
    ResultRing.CreditBounded { q with reserved := q.reserved - n } := by
  have credit := h.credit
  refine { h with credit := ?_ }
  show ringGap q.size q.release q.produce + (q.reserved - n) ≤ q.size - 1
  omega

/-- A valid release write brings the release index no further than the produce index (R143). -/
theorem ResultRing.CreditBounded.released (h : q.CreditBounded) (valid : q.validRelease p = true) :
    (q.released p).CreditBounded := by
  obtain ⟨below, behind⟩ := Bool.and_eq_true_iff.1 valid
  have below : p < q.size := of_decide_eq_true below
  have gap := ringGap_sub h.release below h.produce (of_decide_eq_true behind)
  have credit := h.credit
  refine ⟨h.produce, below, ?_⟩
  show ringGap q.size p q.produce + q.reserved ≤ q.size - 1
  omega

theorem createdResult_bounded {e : Entry} (h : validResultParams e = true) : (createdResult e).CreditBounded := by
  have size : 0 < (createdResult e).size := by
    simp only [validResultParams, Bool.and_eq_true] at h
    obtain ⟨⟨⟨⟨⟨-, valid⟩, -⟩, -⟩, -⟩, -⟩ := h
    exact validRingSize_pos valid
  refine ⟨size, size, ?_⟩
  show ringGap _ 0 0 + 0 ≤ _
  rw [ringGap_self size]
  exact Nat.zero_le _

end RingOrder

end Sys2Proof.Machine

/-! # What keeps the rings sound (R122, R128, R129, R138) -/

namespace Sys2Proof.Machine

section RingsStaySound

variable {s t : State} {r rr : RingId} {w w' : WorkRing} {q : ResultRing}

/-! ## The slots that contexts hold -/

/-- The ring slots of the members that a context holds for a work ring. -/
def heldIn (x : Option Context) (r : RingId) : List Nat :=
  x.elim [] fun x => if x.ring = r then x.members.map Member.ringSlot else []

theorem slotsHeld_eq (s : State) (r : RingId) :
    slotsHeld s r = (List.finRange 16).flatMap fun c : CtxId => heldIn s.contexts[c] r := by
  refine List.flatMap_congr fun c _ => ?_
  cases s.contexts[c] <;> rfl

theorem mem_slotsHeld {i : Nat} : i ∈ slotsHeld s r ↔ ∃ c : CtxId, i ∈ heldIn s.contexts[c] r := by
  rw [slotsHeld_eq, List.mem_flatMap]
  simp

theorem slotsHeld_nodup_iff : (slotsHeld s r).Nodup ↔ (∀ c : CtxId, (heldIn s.contexts[c] r).Nodup) ∧
    ∀ c d : CtxId, c ≠ d → (heldIn s.contexts[c] r).Disjoint (heldIn s.contexts[d] r) := by
  have apart : Std.Symm (Function.onFun List.Disjoint fun c : CtxId => heldIn s.contexts[c] r) :=
    ⟨fun _ _ h => h.symm⟩
  rw [slotsHeld_eq, List.nodup_flatMap]
  exact and_congr (by simp) ⟨fun h c d => List.Pairwise.forall h (List.mem_finRange c) (List.mem_finRange d),
    fun h => (List.nodup_finRange 16).imp fun e => h _ _ e⟩

theorem flatMap_sublist {α : Type} {f g : α → List Nat} (h : ∀ a, (f a).Sublist (g a)) (l : List α) :
    (l.flatMap f).Sublist (l.flatMap g) := by
  induction l with
  | nil => exact .slnil
  | cons a l ih =>
    rw [List.flatMap_cons, List.flatMap_cons]
    exact (h a).append ih

theorem slotsHeld_sublist (h : ∀ c : CtxId, (heldIn t.contexts[c] r).Sublist (heldIn s.contexts[c] r)) :
    (slotsHeld t r).Sublist (slotsHeld s r) := by
  rw [slotsHeld_eq, slotsHeld_eq]
  exact flatMap_sublist h _

/-- A context that is taken out of use. -/
theorem slotsHeld_setContext_none (c : CtxId) (s : State) (r : RingId) :
    (slotsHeld (s.setContext c none) r).Sublist (slotsHeld s r) :=
  slotsHeld_sublist fun d => by
    rw [State.setContext_contexts, getElem_set_fin]
    split
    · exact List.nil_sublist _
    · exact .refl _

/-- A context in use that goes on with its ring and its ring slots. -/
theorem slotsHeld_setContext {c : CtxId} {x x' : Context} (h : s.contexts[c] = some x) (ring : x'.ring = x.ring)
    (slots : x'.members.map Member.ringSlot = x.members.map Member.ringSlot) (r : RingId) :
    (slotsHeld (s.setContext c (some x')) r).Sublist (slotsHeld s r) :=
  slotsHeld_sublist fun d => by
    rw [State.setContext_contexts, getElem_set_fin]
    split
    · next e =>
      rw [e, h]
      simp only [heldIn, Option.elim_some, ring, slots]
      exact .refl _
    · exact .refl _

/-! ## The entries outstanding at a result ring -/

/-- How many entries of a work ring are outstanding at a result ring. -/
def share (rr : RingId) (w : Option WorkRing) : Nat :=
  w.elim 0 fun w => if w.boundTo = rr then w.outstanding.length else 0

theorem outstandingBound_eq (s : State) (rr : RingId) :
    outstandingBound s rr = ∑ r : RingId, share rr s.rings.work[r] := by
  rw [Fin.sum_univ_def]
  refine congrArg List.sum (List.map_congr_left fun r _ => ?_)
  unfold boundTo outstandingOf share
  cases s.rings.work[r] with
  | none => rfl
  | some w => simp

theorem outstandingBound_congr (h : ∀ r : RingId, share rr t.rings.work[r] = share rr s.rings.work[r]) :
    outstandingBound t rr = outstandingBound s rr := by
  rw [outstandingBound_eq, outstandingBound_eq]
  exact Finset.sum_congr rfl fun r _ => h r

/-- One work ring changes. -/
theorem outstandingBound_change (h : ∀ n : RingId, n ≠ r → t.rings.work[n] = s.rings.work[n]) (rr : RingId) :
    outstandingBound t rr + share rr s.rings.work[r] = outstandingBound s rr + share rr t.rings.work[r] := by
  rw [outstandingBound_eq, outstandingBound_eq, ← Finset.add_sum_erase _ _ (Finset.mem_univ r),
    ← Finset.add_sum_erase _ (fun r : RingId => share rr s.rings.work[r]) (Finset.mem_univ r),
    Finset.sum_congr rfl fun n hn => congrArg (share rr) (h n (Finset.ne_of_mem_erase hn))]
  omega

theorem share_le (hw : s.rings.work[r] = some w) : w.outstanding.length ≤ outstandingBound s w.boundTo := by
  have bound := Finset.single_le_sum (f := fun r : RingId => share w.boundTo s.rings.work[r]) (fun _ _ => Nat.zero_le _)
    (Finset.mem_univ r)
  rw [← outstandingBound_eq] at bound
  simpa [hw, share] using bound

theorem outstandingBound_eq_zero (h : ∀ r w, s.rings.work[(r : RingId)] = some w → w.boundTo ≠ rr) :
    outstandingBound s rr = 0 := by
  rw [outstandingBound_eq]
  refine Finset.sum_eq_zero fun r _ => ?_
  cases hw : s.rings.work[r] with
  | none => rfl
  | some w => simp [share, h r w hw]

theorem outstandingOf_eq (hw : s.rings.work[r] = some w) : outstandingOf s r = w.outstanding := by
  rw [outstandingOf, hw]
  rfl

/-! ## Rings that go on -/

/-- A work ring goes on as another: in order, with the binding, the outstanding set and the limit of before. -/
structure WorkRing.GoesOn (w w' : WorkRing) : Prop where
  boundTo : w'.boundTo = w.boundTo
  outstanding : w'.outstanding = w.outstanding
  limit : w'.inFlightLimit = w.inFlightLimit
  ordered : w.Ordered → w'.Ordered

theorem WorkRing.GoesOn.refl (w : WorkRing) : w.GoesOn w := ⟨rfl, rfl, rfl, id⟩

/-- A result ring goes on as another: within its credit, with the reservations of before. -/
structure ResultRing.GoesOn (q q' : ResultRing) : Prop where
  reserved : q'.reserved = q.reserved
  bounded : q.CreditBounded → q'.CreditBounded

theorem ResultRing.GoesOn.refl (q : ResultRing) : q.GoesOn q := ⟨rfl, id⟩

theorem rel_refl {α : Type} {R : α → α → Prop} (h : ∀ a, R a a) (o : Option α) : Option.Rel R o o := by
  cases o with
  | none => exact .none
  | some a => exact .some (h a)

theorem rel_cases {α : Type} {R : α → α → Prop} {o o' : Option α} (h : Option.Rel R o o') :
    (o = none ∧ o' = none) ∨ ∃ a a', o = some a ∧ o' = some a' ∧ R a a' := by
  cases h with
  | none => exact .inl ⟨rfl, rfl⟩
  | some h => exact .inr ⟨_, _, rfl, rfl, h⟩

theorem rel_some {α : Type} {R : α → α → Prop} {o o' : Option α} {a' : α} (h : Option.Rel R o o') (e : o' = some a') :
    ∃ a, o = some a ∧ R a a' := by
  rcases rel_cases h with ⟨-, none⟩ | ⟨a, b, ha, hb, g⟩
  · exact absurd (none.symm.trans e) (by simp)
  · cases hb.symm.trans e
    exact ⟨a, ha, g⟩

/-- The rings go on, and contexts hold no more slots than before. -/
structure RingsGoOn (s t : State) : Prop where
  work : ∀ r : RingId, Option.Rel WorkRing.GoesOn s.rings.work[r] t.rings.work[r]
  results : ∀ rr : RingId, Option.Rel ResultRing.GoesOn s.rings.results[rr] t.rings.results[rr]
  held : ∀ r : RingId, (slotsHeld t r).Sublist (slotsHeld s r)

theorem RingsGoOn.of_contexts (hw : t.rings.work = s.rings.work) (hq : t.rings.results = s.rings.results)
    (held : ∀ r : RingId, (slotsHeld t r).Sublist (slotsHeld s r)) : RingsGoOn s t :=
  ⟨fun _ => hw ▸ rel_refl .refl _, fun _ => hq ▸ rel_refl .refl _, held⟩

theorem ringsGoOn_setWork (hw : s.rings.work[r] = some w) (h : w.GoesOn w') :
    RingsGoOn s (s.setWork r (some w')) := by
  refine ⟨fun n => ?_, fun _ => rel_refl .refl _, fun _ => .refl _⟩
  rw [State.setWork_work, getElem_set_fin]
  split
  · next e => rw [e, hw]; exact .some h
  · exact rel_refl .refl _

theorem ringsGoOn_setResult {q' : ResultRing} (hq : s.rings.results[rr] = some q) (h : q.GoesOn q') :
    RingsGoOn s (s.setResult rr (some q')) := by
  refine ⟨fun _ => rel_refl .refl _, fun n => ?_, fun _ => .refl _⟩
  rw [State.setResult_results, getElem_set_fin]
  split
  · next e => rw [e, hq]; exact .some h
  · exact rel_refl .refl _

theorem RingsGoOn.inFlight (h : RingsGoOn s t) (b : InFlightBounded s) : InFlightBounded t := fun r => by
  have limit := b r
  rcases rel_cases (h.work r) with ⟨-, ht⟩ | ⟨w, w', hw, ht, g⟩
  · rw [ht]
    rfl
  · rw [hw] at limit
    rw [ht]
    unfold withinLimit at limit ⊢
    dsimp only at limit ⊢
    rw [g.outstanding, g.limit]
    exact limit

theorem RingsGoOn.outstandingOf (h : RingsGoOn s t) (r : RingId) : outstandingOf t r = outstandingOf s r := by
  unfold Machine.outstandingOf
  rcases rel_cases (h.work r) with ⟨hw, ht⟩ | ⟨w, w', hw, ht, g⟩
  · rw [hw, ht]
  · rw [hw, ht]
    exact g.outstanding

theorem RingsGoOn.outstandingBound (h : RingsGoOn s t) (rr : RingId) : outstandingBound t rr = outstandingBound s rr :=
  outstandingBound_congr fun r => by
    rcases rel_cases (h.work r) with ⟨hw, ht⟩ | ⟨w, w', hw, ht, g⟩
    · rw [hw, ht]
    · rw [hw, ht]
      simp only [share, Option.elim_some, g.boundTo, g.outstanding]

theorem RingsGoOn.sound (h : RingsGoOn s t) (sound : RingsSound s) : RingsSound t where
  ordered r w' hw' := by
    obtain ⟨w, hw, g⟩ := rel_some (h.work r) hw'
    exact g.ordered (sound.ordered r w hw)
  credit rr q' hq' := by
    obtain ⟨q, hq, g⟩ := rel_some (h.results rr) hq'
    exact g.bounded (sound.credit rr q hq)
  results :=
    { bound := fun r w' hw' => by
        obtain ⟨w, hw, g⟩ := rel_some (h.work r) hw'
        obtain ⟨q, hq⟩ := sound.results.bound r w hw
        simp only [g.boundTo]
        rcases rel_cases (h.results w.boundTo) with ⟨none, -⟩ | ⟨-, q', -, hq', -⟩
        · exact absurd (none.symm.trans hq) (by simp)
        · exact ⟨q', hq'⟩
      reserved := fun rr q' hq' => by
        obtain ⟨q, hq, g⟩ := rel_some (h.results rr) hq'
        rw [h.outstandingBound, g.reserved]
        exact sound.results.reserved rr q hq
      held := fun r => by
        obtain ⟨nodup, out⟩ := sound.results.held r
        exact ⟨nodup.sublist (h.held r), fun i hi => h.outstandingOf r ▸ out i ((h.held r).subset hi)⟩ }

/-! ## One ring changes -/

/-- A work ring that is ABSENT holds no slot of a context. -/
theorem RingsSound.held_nil (h : RingsSound s) (e : outstandingOf s r = []) : slotsHeld s r = [] := by
  obtain ⟨-, out⟩ := h.results.held r
  exact List.eq_nil_iff_forall_not_mem.2 fun i hi => absurd (out i hi) (by rw [e]; exact List.not_mem_nil)

/-- A work ring none of whose slots a context holds becomes ABSENT. -/
theorem RingsSound.dropWork (h : RingsSound s) (free : slotsHeld s r = []) : RingsSound (s.setWork r none) := by
  have work : ∀ n : RingId, (s.setWork r none).rings.work[n] = if n = r then none else s.rings.work[n] :=
    fun n => getElem_set_fin _ _ _ _
  refine ⟨fun n w hw => ?_, ⟨fun n w hw => ?_, fun rr q hq => ?_, fun n => ?_⟩, h.credit⟩
  · rw [work] at hw
    split at hw
    · cases hw
    · exact h.ordered n w hw
  · rw [work] at hw
    split at hw
    · cases hw
    · exact h.results.bound n w hw
  · have change := outstandingBound_change (s := s) (t := s.setWork r none) (r := r)
      (fun n hn => by rw [work, if_neg hn]) rr
    rw [work r, if_pos rfl] at change
    have := h.results.reserved rr q hq
    have : share rr (none : Option WorkRing) = 0 := rfl
    omega
  · by_cases hn : n = r
    · subst hn
      have none : slotsHeld (s.setWork n none) n = [] := free
      rw [none]
      exact ⟨List.nodup_nil, fun i hi => absurd hi List.not_mem_nil⟩
    · have same : outstandingOf (s.setWork r none) n = outstandingOf s n := by
        unfold outstandingOf
        rw [work, if_neg hn]
      rw [same]
      exact h.results.held n

/-- A work ring ends with its reservations (R135). -/
theorem RingsSound.endWork (h : RingsSound s) (hw : s.rings.work[r] = some w) (free : slotsHeld s r = [])
    (hq : s.rings.results[w.boundTo] = some q) : RingsSound ((s.setWork r none).setResult w.boundTo
      (some { q with reserved := q.reserved - w.outstanding.length })) := by
  have dropped := h.dropWork free
  have work : ∀ n : RingId, (s.setWork r none).rings.work[n] = if n = r then none else s.rings.work[n] :=
    fun n => getElem_set_fin _ _ _ _
  have change := outstandingBound_change (s := s) (t := s.setWork r none) (r := r)
    (fun n hn => by rw [work, if_neg hn]) w.boundTo
  rw [work r, if_pos rfl, hw] at change
  simp only [share, Option.elim_some, if_true, Option.elim_none] at change
  have results : ∀ n : RingId, ((s.setWork r none).setResult w.boundTo
      (some { q with reserved := q.reserved - w.outstanding.length })).rings.results[n] =
      if n = w.boundTo then some { q with reserved := q.reserved - w.outstanding.length } else s.rings.results[n] :=
    fun n => getElem_set_fin _ _ _ _
  refine ⟨dropped.ordered, ⟨fun n w' hw' => ?_, fun n q' hq' => ?_, dropped.results.held⟩, fun n q' hq' => ?_⟩
  · rw [results]
    split
    · exact ⟨_, rfl⟩
    · exact dropped.results.bound n w' hw'
  · show outstandingBound (s.setWork r none) n ≤ _
    rw [results] at hq'
    split at hq'
    · next e =>
      cases hq'
      subst e
      have := h.results.reserved _ q hq
      show _ ≤ q.reserved - w.outstanding.length
      omega
    · exact dropped.results.reserved n q' hq'
  · rw [results] at hq'
    split at hq'
    · cases hq'; exact (h.credit _ q hq).unreserve _
    · exact h.credit n q' hq'

/-- A work ring is created, with nothing outstanding, on a result ring that exists (R121). -/
theorem RingsSound.createWork (h : RingsSound s) (absent : s.rings.work[r] = none) (ordered : w.Ordered)
    (out : w.outstanding = []) (hq : s.rings.results[w.boundTo] = some q) : RingsSound (s.setWork r (some w)) := by
  have work : ∀ n : RingId, (s.setWork r (some w)).rings.work[n] = if n = r then some w else s.rings.work[n] :=
    fun n => getElem_set_fin _ _ _ _
  refine ⟨fun n w' hw => ?_, ⟨fun n w' hw => ?_, fun rr q hq => ?_, fun n => ?_⟩, h.credit⟩
  · rw [work] at hw
    split at hw
    · cases hw; exact ordered
    · exact h.ordered n w' hw
  · rw [work] at hw
    split at hw
    · cases hw; exact ⟨q, hq⟩
    · exact h.results.bound n w' hw
  · rw [outstandingBound_congr (s := s) fun n => ?_]
    · exact h.results.reserved rr q hq
    · rw [work]
      split
      · next e => rw [e, absent]; simp [share, out]
      · rfl
  · have same : outstandingOf (s.setWork r (some w)) n = outstandingOf s n := by
      unfold outstandingOf
      rw [work]
      split
      · next e => rw [e, absent]; exact out
      · rfl
    rw [same]
    exact h.results.held n

/-- A result ring to which no work ring is bound is created or deleted (R137, R147). -/
theorem RingsSound.setResult (h : RingsSound s) (unbound : ∀ n w, s.rings.work[(n : RingId)] = some w → w.boundTo ≠ rr)
    {x : Option ResultRing} (bounded : ∀ q, x = some q → q.CreditBounded) : RingsSound (s.setResult rr x) := by
  have results : ∀ n : RingId, (s.setResult rr x).rings.results[n] = if n = rr then x else s.rings.results[n] :=
    fun n => getElem_set_fin _ _ _ _
  refine ⟨h.ordered, ⟨fun n w hw => ?_, fun n q hq => ?_, h.results.held⟩, fun n q hq => ?_⟩
  · rw [results, if_neg (unbound n w hw)]
    exact h.results.bound n w hw
  · have same : outstandingBound (s.setResult rr x) n = outstandingBound s n := rfl
    rw [same]
    rw [results] at hq
    split at hq
    · next e => rw [e, outstandingBound_eq_zero unbound]; exact Nat.zero_le _
    · exact h.results.reserved n q hq
  · rw [results] at hq
    split at hq
    · exact bounded q hq
    · exact h.credit n q hq

/-! ## Results are posted -/

/-- A posting event with results for slots that no context holds, each backed by a reservation: of an entry that it
takes out of the outstanding set, or of a further one (R128, R138, R139). -/
theorem RingsSound.postUnit (h : RingsSound s) (posts : List Posting)
    (free : ∀ p ∈ posts, p.ringSlot ∉ slotsHeld s r)
    (backed : ∀ w q, s.rings.work[r] = some w → s.rings.results[w.boundTo] = some q →
      outstandingBound s w.boundTo + (w.answered (posts.map Posting.ringSlot)).outstanding.length + posts.length ≤
        q.reserved + w.outstanding.length) : RingsSound (postUnit r posts s) := by
  cases hw : s.rings.work[r] with
  | none =>
    unfold Machine.postUnit
    rw [hw]
    exact h
  | some w =>
    obtain ⟨q, hq⟩ := h.results.bound r w hw
    obtain ⟨status, message, writes, posted⟩ := postUnit_spec hw hq posts
    have backed := backed w q hw hq
    generalize Machine.postUnit r posts s = t at posted ⊢
    have work := posted.work
    have results := posted.results
    have held : ∀ n, slotsHeld t n = slotsHeld s n := fun n => by rw [posted.state]; rfl
    have change := outstandingBound_change (s := s) (t := t) (r := r) fun n hn => by rw [work, if_neg hn]
    rw [work r, if_pos rfl, hw] at change
    have fewer : (w.answered (posts.map Posting.ringSlot)).outstanding.length ≤ w.outstanding.length :=
      List.length_filter_le _ _
    have finished : (w.finished (posts.map Posting.ringSlot)).boundTo = w.boundTo := rfl
    have outstanding : (w.finished (posts.map Posting.ringSlot)).outstanding =
      (w.answered (posts.map Posting.ringSlot)).outstanding := rfl
    have reserved := share_le hw
    refine ⟨fun n w' hw' => ?_, ⟨fun n w' hw' => ?_, fun rr q' hq' => ?_, fun n => ?_⟩, fun rr q' hq' => ?_⟩
    · rw [work] at hw'
      split at hw'
      · cases hw'; exact (h.ordered r w hw).finished _
      · exact h.ordered n w' hw'
    · have bound : ∃ q', s.rings.results[w'.boundTo] = some q' := by
        rw [work] at hw'
        split at hw'
        · cases hw'; exact ⟨q, hq⟩
        · exact h.results.bound n w' hw'
      rw [results]
      split
      · exact ⟨_, rfl⟩
      · exact bound
    · have change := change rr
      rw [results] at hq'
      split at hq'
      · next e =>
        cases hq'
        subst e
        simp only [share, Option.elim_some, finished, if_true, outstanding] at change
        rw [signalled_eq, postedMany_eq (h.credit _ q hq).produce]
        dsimp only
        omega
      · next e =>
        have e' : ¬ w.boundTo = rr := fun h => e h.symm
        simp only [share, Option.elim_some, finished, if_neg e'] at change
        have := h.results.reserved rr q' hq'
        omega
    · rw [held]
      obtain ⟨nodup, out⟩ := h.results.held n
      refine ⟨nodup, fun i hi => ?_⟩
      have before := out i hi
      by_cases hn : n = r
      · subst hn
        rw [outstandingOf_eq hw] at before
        rw [outstandingOf, work, if_pos rfl]
        exact (mem_answered w posts i).2 ⟨before, fun p hp e => free p hp (e ▸ hi)⟩
      · rw [outstandingOf, work, if_neg hn]
        exact before
    · rw [results] at hq'
      split at hq'
      · cases hq'
        exact ((h.credit _ q hq).postedMany (by omega) _).signalled
      · exact h.credit rr q' hq'

end RingsStaySound

end Sys2Proof.Machine

/-! # The take of a unit keeps the rings sound (R126, R128, R129, R138) -/

namespace Sys2Proof.Machine

section TakesKeepRings

variable {s t : State} {r rr : RingId} {w : WorkRing} {q : ResultRing} {ps : List Placed} {ms : List Member}
  {regions : Vector Region 16} {limit : Nat} {posts : List Posting} {faults : List RaisedFault}

/-! ## The slots of a unit (R31) -/

theorem unit_length_le (h : w.take < w.size) (hu : w.unit = some ps) : 1 ≤ ps.length ∧ ps.length ≤ w.prefetch.length := by
  obtain ⟨whole, -⟩ := (unit_eq_some h).1 hu
  obtain ⟨some, -, within, -⟩ := unitLength_eq_some.1 whole
  exact ⟨some, within⟩

/-- The slots of a unit are those from the take index on. -/
theorem unit_slots (h : w.take < w.size) (hu : w.unit = some ps) :
    ps.map Placed.slot = (List.range ps.length).map fun i => (w.take + i) % w.size := by
  obtain ⟨-, placed⟩ := (unit_eq_some h).1 hu
  refine List.ext_getElem? fun i => ?_
  rw [List.getElem?_map, List.getElem?_map]
  cases hp : ps[i]? with
  | none => rw [List.getElem?_eq_none (by simpa using List.getElem?_eq_none_iff.1 hp)]; rfl
  | some p =>
    rw [List.getElem?_range (List.getElem?_eq_some_iff.1 hp).1]
    exact congrArg some (placed i p hp).1

/-- Slots that may become outstanding in a ring whose unit of them is taken: distinct, and between the take index of
before and that of after. -/
structure SlotsToTake (w : WorkRing) (n : Nat) (slots : List Nat) : Prop where
  distinct : slots.Nodup
  length : slots.length = n
  inUnit : ∀ i ∈ slots, i < w.size ∧ ringGap w.size w.retire w.take ≤ ringGap w.size w.retire i ∧
    ringGap w.size w.retire i < ringGap w.size w.retire ((w.take + n) % w.size)

theorem WorkRing.Ordered.slotsToTake (h : w.Ordered) (hu : w.unit = some ps) :
    SlotsToTake w ps.length (ps.map Placed.slot) := by
  obtain ⟨-, within⟩ := unit_length_le h.take hu
  have taken := h.gap_taken within
  have gap : ∀ i, i < ps.length → ringGap w.size w.retire ((w.take + i) % w.size) = ringGap w.size w.retire w.take + i :=
    fun i hi => h.gap_taken (hi.le.trans within)
  refine ⟨?_, List.length_map _, fun i hi => ?_⟩
  · rw [unit_slots h.take hu]
    refine List.nodup_range.map_on fun i hi j hj e => ?_
    have := gap i (List.mem_range.1 hi)
    have := gap j (List.mem_range.1 hj)
    rw [e] at *
    omega
  · rw [unit_slots h.take hu] at hi
    obtain ⟨j, hj, rfl⟩ := List.mem_map.1 hi
    have := gap j (List.mem_range.1 hj)
    have := List.mem_range.1 hj
    exact ⟨Nat.mod_lt _ (by have := h.take; omega), by omega, by omega⟩

/-- The slots of a unit are not outstanding before its take. -/
theorem SlotsToTake.unclaimed {n : Nat} {slots : List Nat} (h : SlotsToTake w n slots) (ordered : w.Ordered) :
    ∀ i ∈ slots, i ∉ w.outstanding := fun i hi out => by
  obtain ⟨-, after, -⟩ := h.inUnit i hi
  obtain ⟨-, before⟩ := ordered.outstanding i out
  omega

/-! ## The judgement (R28 to R36) -/

theorem answers_slots (f : Placed → Status) (ps : List Placed) :
    (ps.map fun p => answer (f p) p).map Posting.ringSlot = ps.map Placed.slot := by
  rw [List.map_map]
  rfl

theorem judgeMembers_slots {first : Placed} (h : judgeMembers r regions first ps = .answered posts faults) :
    posts.map Posting.ringSlot = ps.map Placed.slot := by
  unfold judgeMembers at h
  dsimp only at h
  split at h
  · cases h; exact answers_slots (fun _ => .bundleConflict) ps
  · cases h

/-- A unit that is answered has a result for each of its slots. -/
theorem judge_answered_slots (h : judge r regions limit ps = .answered posts faults) :
    posts.map Posting.ringSlot = ps.map Placed.slot := by
  unfold judge at h
  split at h
  · cases h; rfl
  · unfold judgeSingle at h
    split at h
    · cases h; rfl
    · split at h
      · cases h
      · cases h; rfl
  · split at h
    · cases h; exact answers_slots (fun _ => .malformed) _
    · split at h
      · cases h; exact answers_slots (fun _ => .malformed) _
      · unfold judgeBundle at h
        dsimp only at h
        split at h
        · exact judgeMembers_slots h
        · cases h
          rw [List.map_map]
          refine List.map_congr_left fun p _ => ?_
          show Posting.ringSlot (match checkMember regions p.entry with
            | some x => answer x.status p
            | none => answer .bundleAbandoned p) = p.slot
          split <;> rfl

theorem judge_accepted_slots (h : judge r regions limit ps = .accepted ms) :
    ms.map Member.ringSlot = ps.map Placed.slot := by
  rw [(judge_accepted h).1, List.map_map]
  rfl

/-! ## Reservations (R128, R138) -/

theorem reserve_eq (hq : s.rings.results[rr] = some q) (n : Nat) :
    reserve rr n s = s.setResult rr (some { q with reserved := q.reserved + n }) := by
  unfold reserve
  rw [hq]

theorem RingsSound.reserve (h : RingsSound s) (hq : s.rings.results[rr] = some q) {n : Nat} (hn : n ≤ q.credit) :
    RingsSound (reserve rr n s) := by
  rw [reserve_eq hq]
  have results : ∀ m : RingId, (s.setResult rr (some { q with reserved := q.reserved + n })).rings.results[m] =
      if m = rr then some { q with reserved := q.reserved + n } else s.rings.results[m] :=
    fun m => getElem_set_fin _ _ _ _
  refine ⟨h.ordered, ⟨fun m w hw => ?_, fun m q' hq' => ?_, h.results.held⟩, fun m q' hq' => ?_⟩
  · rw [results]
    split
    · exact ⟨_, rfl⟩
    · exact h.results.bound m w hw
  · have bound : outstandingBound (s.setResult rr (some { q with reserved := q.reserved + n })) m =
        outstandingBound s m := rfl
    rw [bound]
    rw [results] at hq'
    split at hq'
    · next e =>
      cases hq'
      subst e
      exact (h.results.reserved m q hq).trans (Nat.le_add_right _ _)
    · exact h.results.reserved m q' hq'
  · rw [results] at hq'
    split at hq'
    · cases hq'; exact (h.credit rr q hq).reserve hn
    · exact h.credit m q' hq'

/-- The state in which an eligible unit is taken and reserved is sound, and reserves a result for each of its entries
beyond those that are outstanding. -/
theorem RingsSound.unitTaken (h : RingsSound s) (hw : s.rings.work[r] = some w) (hu : w.unit = some ps)
    (hq : s.rings.results[w.boundTo] = some q) (credit : ps.length ≤ q.credit) :
    RingsSound (unitTaken r w ps.length s) ∧
      (unitTaken r w ps.length s).rings.work[r] = some (w.taken ps.length) ∧
      ∀ q', (unitTaken r w ps.length s).rings.results[w.boundTo] = some q' →
        outstandingBound (unitTaken r w ps.length s) w.boundTo + ps.length ≤ q'.reserved := by
  have ordered := h.ordered r w hw
  obtain ⟨-, within⟩ := unit_length_le ordered.take hu
  have onward : RingsGoOn s ((s.setWork r (some (w.taken ps.length))).setLastServed r) := by
    obtain ⟨work, results, held⟩ := ringsGoOn_setWork hw (w' := w.taken ps.length)
      ⟨rfl, rfl, rfl, fun h => h.taken within⟩
    exact ⟨work, results, held⟩
  have there : ((s.setWork r (some (w.taken ps.length))).setLastServed r).rings.results[w.boundTo] = some q := hq
  refine ⟨(onward.sound h).reserve there credit, ?_, fun q' hq' => ?_⟩
  · unfold Machine.unitTaken
    rw [reserve_eq there]
    exact (getElem_set_fin _ _ _ _).trans (if_pos rfl)
  · have bound : outstandingBound (Machine.unitTaken r w ps.length s) w.boundTo = outstandingBound s w.boundTo := by
      unfold Machine.unitTaken
      rw [reserve_eq there]
      exact onward.outstandingBound w.boundTo
    unfold Machine.unitTaken at hq'
    rw [reserve_eq there, State.setResult_results, getElem_set_fin, if_pos rfl] at hq'
    cases hq'
    rw [bound]
    exact Nat.add_le_add_right (h.results.reserved _ q hq) _

/-! ## A unit that is handed to a context (R60) -/

theorem handToContext_lists (hw : s.rings.work[r] = some w) {c : CtxId} (hc : lowestFree s = some c) (ms : List Member) :
    (handToContext r ms s).rings.results = s.rings.results ∧
    (∀ n : RingId, (handToContext r ms s).rings.work[n] =
      if n = r then some { w with outstanding := w.outstanding ++ ms.map Member.ringSlot } else s.rings.work[n]) ∧
    ∀ d : CtxId, (handToContext r ms s).contexts[d] = if d = c then some (newContext r ms) else s.contexts[d] := by
  unfold handToContext
  rw [hw, hc]
  dsimp only
  have rings := fun t => (beginStoreRead_linkOnly c ms t).rings
  have contexts := fun t => (beginStoreRead_linkOnly c ms t).contexts
  refine ⟨by rw [rings]; rfl, fun n => ?_, fun d => ?_⟩
  · rw [rings]
    exact getElem_set_fin _ _ _ _
  · rw [contexts]
    exact getElem_set_fin _ _ _ _

/-- A context comes into use with slots that no context holds. -/
theorem slotsHeld_given {c : CtxId} {x : Context}
    (contexts : ∀ d : CtxId, t.contexts[d] = if d = c then some x else s.contexts[d])
    (distinct : (x.members.map Member.ringSlot).Nodup)
    (apart : ∀ i ∈ x.members.map Member.ringSlot, i ∉ slotsHeld s x.ring) (n : RingId)
    (before : (slotsHeld s n).Nodup) : (slotsHeld t n).Nodup ∧
      ∀ i ∈ slotsHeld t n, i ∈ slotsHeld s n ∨ (x.ring = n ∧ i ∈ x.members.map Member.ringSlot) := by
  have held : ∀ d : CtxId, heldIn t.contexts[d] n =
      if d = c then (if x.ring = n then x.members.map Member.ringSlot else []) else heldIn s.contexts[d] n := fun d => by
    rw [contexts]
    split <;> rfl
  have old : ∀ {d : CtxId} {i : Nat}, d ≠ c → i ∈ heldIn t.contexts[d] n → i ∈ heldIn s.contexts[d] n :=
    fun hd hi => by rwa [held, if_neg hd] at hi
  have new : ∀ {i : Nat}, i ∈ heldIn t.contexts[c] n → x.ring = n ∧ i ∈ x.members.map Member.ringSlot := fun hi => by
    rw [held, if_pos rfl] at hi
    split at hi
    · next e => exact ⟨e, hi⟩
    · cases hi
  have clash : ∀ {d : CtxId} {i : Nat}, d ≠ c → i ∈ heldIn t.contexts[d] n → i ∉ heldIn t.contexts[c] n :=
    fun hd hi hc => by
      obtain ⟨rfl, hm⟩ := new hc
      exact apart _ hm (mem_slotsHeld.2 ⟨_, old hd hi⟩)
  obtain ⟨each, disjoint⟩ := slotsHeld_nodup_iff.1 before
  refine ⟨slotsHeld_nodup_iff.2 ⟨fun d => ?_, fun d d' hd i hi hi' => ?_⟩, fun i hi => ?_⟩
  · rw [held]
    split
    · split
      · exact distinct
      · exact List.nodup_nil
    · exact each d
  · by_cases e : d = c
    · exact clash (fun e' => hd (e.trans e'.symm)) hi' (e ▸ hi)
    · by_cases e' : d' = c
      · exact clash e hi (e' ▸ hi')
      · exact disjoint d d' hd (old e hi) (old e' hi')
  · obtain ⟨d, hd⟩ := mem_slotsHeld.1 hi
    by_cases e : d = c
    · exact .inr (new (e ▸ hd))
    · exact .inl (mem_slotsHeld.2 ⟨d, old e hd⟩)

/-- Slots of a unit become outstanding and are held by a context, where results are reserved for them. -/
theorem RingsSound.handToContext (h : RingsSound s) (hw : s.rings.work[r] = some w)
    (distinct : (ms.map Member.ringSlot).Nodup)
    (between : ∀ i ∈ ms.map Member.ringSlot, i < w.size ∧ ringGap w.size w.retire i < ringGap w.size w.retire w.take)
    (unclaimed : ∀ i ∈ ms.map Member.ringSlot, i ∉ w.outstanding)
    (backed : ∀ q, s.rings.results[w.boundTo] = some q → outstandingBound s w.boundTo + ms.length ≤ q.reserved) :
    RingsSound (handToContext r ms s) := by
  cases hc : lowestFree s with
  | none =>
    unfold Machine.handToContext
    rw [hw, hc]
    exact h
  | some c =>
    obtain ⟨results, work, contexts⟩ := handToContext_lists hw hc ms
    generalize Machine.handToContext r ms s = t at *
    have ordered := h.ordered r w hw
    have change := outstandingBound_change (s := s) (t := t) (r := r) fun n hn => by rw [work, if_neg hn]
    rw [work r, if_pos rfl, hw] at change
    have outstanding : ∀ n : RingId, outstandingOf t n =
        if n = r then w.outstanding ++ ms.map Member.ringSlot else outstandingOf s n := fun n => by
      unfold outstandingOf
      rw [work]
      split <;> rfl
    have given := fun n : RingId => slotsHeld_given (s := s) contexts distinct (fun i hi held => by
      obtain ⟨-, out⟩ := h.results.held r
      exact unclaimed i hi (outstandingOf_eq hw ▸ out i held)) n
    refine ⟨fun n w' hw' => ?_, ⟨fun n w' hw' => ?_, fun rr q hq => ?_, fun n => ?_⟩,
      fun rr q hq => h.credit rr q (results ▸ hq)⟩
    · rw [work] at hw'
      split at hw'
      · cases hw'
        refine { ordered with
          distinct := List.nodup_append.2 ⟨ordered.distinct, distinct, fun a ha b hb e => unclaimed b hb (e ▸ ha)⟩
          outstanding := fun i hi => ?_ }
        rcases List.mem_append.1 hi with old | new
        · exact ordered.outstanding i old
        · exact between i new
      · exact h.ordered n w' hw'
    · rw [results]
      rw [work] at hw'
      split at hw'
      · cases hw'; exact h.results.bound r w hw
      · exact h.results.bound n w' hw'
    · have change := change rr
      rw [results] at hq
      simp only [share, Option.elim_some, List.length_append, List.length_map] at change
      split at change
      · next e =>
        subst e
        have := backed q hq
        omega
      · have := h.results.reserved rr q hq
        omega
    · obtain ⟨nodup, out⟩ := h.results.held n
      obtain ⟨nodup', mem⟩ := given n nodup
      refine ⟨nodup', fun i hi => ?_⟩
      rw [outstanding]
      rcases mem i hi with old | ⟨rfl, new⟩
      · have before := out i old
        split
        · next e => rw [e, outstandingOf_eq hw] at before; exact List.mem_append_left _ before
        · exact before
      · exact (if_pos rfl).symm ▸ List.mem_append_right _ new

/-! ## The take (R128) -/

/-- The unit of an eligible ring is answered or handed to a context. -/
theorem RingsSound.carryOut (h : RingsSound s) (hw : s.rings.work[r] = some w) (hu : w.unit = some ps)
    (hq : s.rings.results[w.boundTo] = some q) (credit : ps.length ≤ q.credit) :
    match judge r s.regions w.inFlightLimit ps with
    | .answered posts _ => RingsSound (Machine.postUnit r posts (Machine.unitTaken r w ps.length s))
    | .accepted ms => RingsSound (Machine.handToContext r ms (Machine.unitTaken r w ps.length s)) := by
  have ordered := h.ordered r w hw
  have slots := ordered.slotsToTake hu
  obtain ⟨taken, work, reserved⟩ := h.unitTaken hw hu hq credit
  have unclaimed : ∀ i ∈ ps.map Placed.slot, i ∉ (w.taken ps.length).outstanding := slots.unclaimed ordered
  split
  · next posts faults hj =>
    have same := judge_answered_slots hj
    refine taken.postUnit posts (fun p hp held => ?_) fun w' q' hw' hq' => ?_
    · have out := (taken.results.held r).2 _ held
      rw [outstandingOf_eq work] at out
      exact unclaimed _ (same ▸ List.mem_map_of_mem hp) out
    · cases work.symm.trans hw'
      have length : posts.length = ps.length := by
        rw [← List.length_map (f := Posting.ringSlot), same, List.length_map]
      have fewer : ((w.taken ps.length).answered (posts.map Posting.ringSlot)).outstanding.length ≤
          (w.taken ps.length).outstanding.length := List.length_filter_le _ _
      have := reserved q' hq'
      have bound : (w.taken ps.length).boundTo = w.boundTo := rfl
      rw [bound]
      omega
  · next ms hj =>
    have same := judge_accepted_slots hj
    refine taken.handToContext work (same ▸ slots.distinct) (fun i hi => ?_) (fun i hi => unclaimed i (same ▸ hi))
      fun q' hq' => ?_
    · obtain ⟨small, -, before⟩ := slots.inUnit i (same ▸ hi)
      exact ⟨small, before⟩
    · have length : ms.length = ps.length := by rw [← List.length_map (f := Member.ringSlot), same, List.length_map]
      rw [length]
      exact reserved q' hq'

end TakesKeepRings

end Sys2Proof.Machine

/-! # The lists and the sets that have bounds: what the reactions of an event keep of them -/

namespace Sys2Proof.Machine

section ListsBounded

/-- What O9 says, from one state to another: the notices, the outstanding sets, the rings and the probes stay sound,
each by itself. -/
structure ListsKept (s t : State) : Prop where
  notices : NoticesProper s → NoticesProper t
  inFlight : InFlightBounded s → InFlightBounded t
  rings : RingsSound s → RingsSound t
  probes : ProbesWatchActive s → ProbesWatchActive t

variable {s t u : State}

theorem ListsKept.refl (s : State) : ListsKept s s := ⟨id, id, id, id⟩

theorem ListsKept.trans (h : ListsKept s t) (h' : ListsKept t u) : ListsKept s u :=
  ⟨h'.notices ∘ h.notices, h'.inFlight ∘ h.inFlight, h'.rings ∘ h.rings, h'.probes ∘ h.probes⟩

/-- `trans` with its second part first, for a chain that is read from its end. -/
theorem ListsKept.after (h' : ListsKept t u) (h : ListsKept s t) : ListsKept s u := h.trans h'

theorem ListsKept.foldl {α : Type} {f : State → α → State} (h : ∀ s a, ListsKept s (f s a)) (l : List α) (s : State) :
    ListsKept s (l.foldl f s) :=
  List.foldlRecOn (motive := ListsKept s) l f (.refl s) fun _ kept a _ => kept.trans (h _ a)

theorem listsKept_ite {c : Prop} [Decidable c] (ht : ListsKept s t) (hu : ListsKept s u) :
    ListsKept s (if c then t else u) := by
  split
  · exact ht
  · exact hu

/-! ## What keeps the probes -/

/-- A command that retires a region. -/
def Command.retires (c : Command) (rg : RegionId) : Prop :=
  ∃ n, c.progress = some (.retireWait rg n) ∨ c.progress = some (.retireRelease rg n)

/-- The running command retires a region. -/
def Retires (s : State) (rg : RegionId) : Prop :=
  ∃ n, runningProgress s = some (.retireWait rg n) ∨ runningProgress s = some (.retireRelease rg n)

theorem retires_iff (s : State) (rg : RegionId) :
    Retires s rg ↔ ∃ a, s.admin.rings = some a ∧ a.command.retires rg := by
  unfold Retires Command.retires
  rw [runningProgress_eq]
  cases s.admin.rings <;> simp

theorem ProbesWatchActive.retiring_phase (h : ProbesWatchActive s) {rg : RegionId} (hr : Retires s rg) :
    s.regions[rg].phase ≠ .active := by
  obtain ⟨n, hn⟩ := hr
  exact h.retiring rg n hn

/-- Nothing but regions that are not ACTIVE changes, and no command comes to retire a region. -/
theorem ProbesWatchActive.keep (h : ProbesWatchActive s) (probes : t.probes = s.probes)
    (regions : ∀ n : RegionId, t.regions[n] = s.regions[n] ∨
      s.regions[n].phase ≠ .active ∧ t.regions[n].phase ≠ .active)
    (retires : ∀ rg, Retires t rg → Retires s rg) : ProbesWatchActive t where
  watch p rg first last watched := by
    rw [probes] at watched
    obtain ⟨active, within⟩ := h.watch p rg first last watched
    rcases regions rg with same | ⟨inactive, -⟩
    · rw [same]
      exact ⟨active, within⟩
    · exact absurd active inactive
  retiring rg n running := by
    have inactive := h.retiring_phase (retires rg ⟨n, running⟩)
    rcases regions rg with same | ⟨-, inactive'⟩
    · rw [same]; exact inactive
    · exact inactive'

/-! ## Ways to keep them all -/

/-- The fields that the four speak of. -/
def State.lists (s : State) : List PendingNotice × Vector (Option WorkRing) 15 × Vector (Option ResultRing) 15 ×
    Vector (Option Context) 16 × Vector Probe 4 × Vector Region 16 × Option AdminRings :=
  (s.admin.notices, s.rings.work, s.rings.results, s.contexts, s.probes, s.regions, s.admin.rings)

/-- The notices, the probes, the regions and the admin rings. -/
def State.watched (s : State) : List PendingNotice × Vector Probe 4 × Vector Region 16 × Option AdminRings :=
  (s.admin.notices, s.probes, s.regions, s.admin.rings)

theorem probes_of_watched (h : t.watched = s.watched) (p : ProbesWatchActive s) : ProbesWatchActive t := by
  simp only [State.watched, Prod.mk.injEq] at h
  obtain ⟨-, probes, regions, rings⟩ := h
  refine p.keep probes (fun n => .inl (by rw [regions])) fun rg => ?_
  rw [retires_iff, retires_iff, rings]
  exact id

theorem notices_of_watched (h : t.watched = s.watched) (p : NoticesProper s) : NoticesProper t := by
  simp only [State.watched, Prod.mk.injEq] at h
  obtain ⟨notices, -⟩ := h
  unfold NoticesProper
  rw [notices]
  exact p

/-- The rings go on, and no other field of the four changes. -/
theorem RingsGoOn.lists (h : RingsGoOn s t) (same : t.watched = s.watched) : ListsKept s t :=
  ⟨notices_of_watched same, h.inFlight, h.sound, probes_of_watched same⟩

theorem ListsKept.of_lists (h : t.lists = s.lists) : ListsKept s t := by
  simp only [State.lists, Prod.mk.injEq] at h
  obtain ⟨notices, work, results, contexts, probes, regions, admin⟩ := h
  refine (RingsGoOn.of_contexts work results fun r => ?_).lists (by simp only [State.watched, *])
  rw [slotsHeld_eq, slotsHeld_eq, contexts]

/-- A reaction that leaves the rings and the contexts alone. -/
theorem Reaction.lists (h : Reaction s t) (rings : t.rings.work = s.rings.work ∧ t.rings.results = s.rings.results ∧
    t.contexts = s.contexts) (probes : ProbesWatchActive s → ProbesWatchActive t) : ListsKept s t := by
  obtain ⟨work, results, contexts⟩ := rings
  refine ⟨h.notices, h.bounded, (RingsGoOn.of_contexts work results fun r => ?_).sound, probes⟩
  rw [slotsHeld_eq, slotsHeld_eq, contexts]

/-- Nothing is left that could be unsound. -/
theorem listsKept_emptied (notices : t.admin.notices = []) (work : ∀ r : RingId, t.rings.work[r] = none)
    (results : ∀ r : RingId, t.rings.results[r] = none) (contexts : ∀ c : CtxId, t.contexts[c] = none)
    (probes : ∀ p : ProbeId, t.probes[p] = .disarmed) (admin : t.admin.rings = none) : ListsKept s t where
  notices _ := by
    unfold NoticesProper
    rw [notices]
    simp
  inFlight _ r := by
    rw [work]
    rfl
  rings _ :=
    { ordered := fun r w hw => by rw [work] at hw; cases hw
      credit := fun r q hq => by rw [results] at hq; cases hq
      results :=
        { bound := fun r w hw => by rw [work] at hw; cases hw
          reserved := fun r q hq => by rw [results] at hq; cases hq
          held := fun r => by
            have none : slotsHeld t r = [] := List.eq_nil_iff_forall_not_mem.2 fun i hi => by
              obtain ⟨c, hc⟩ := mem_slotsHeld.1 hi
              rw [contexts] at hc
              cases hc
            rw [none]
            exact ⟨List.nodup_nil, fun i hi => absurd hi List.not_mem_nil⟩ } }
  probes _ :=
    { watch := fun p rg first last watched => by rw [probes] at watched; cases watched
      retiring := fun rg n running => by
        obtain ⟨a, ha, -⟩ := (retires_iff t rg).1 ⟨n, running⟩
        rw [admin] at ha
        cases ha }

/-! ## The fields, one by one -/

variable {r rr : RingId} {w w' : WorkRing} {q q' : ResultRing}

theorem listsKept_setWork (hw : s.rings.work[r] = some w) (h : w.GoesOn w') : ListsKept s (s.setWork r (some w')) :=
  (ringsGoOn_setWork hw h).lists rfl

theorem listsKept_setResult (hq : s.rings.results[rr] = some q) (h : q.GoesOn q') :
    ListsKept s (s.setResult rr (some q')) :=
  (ringsGoOn_setResult hq h).lists rfl

theorem listsKept_dropWork (r : RingId) (h : RingsSound s → slotsHeld s r = []) : ListsKept s (s.setWork r none) :=
  ⟨id, (reaction_setWorkNone r s).bounded, fun sound => sound.dropWork (h sound), probes_of_watched rfl⟩

theorem listsKept_setContext {c : CtxId} {x x' : Context} (h : s.contexts[c] = some x) (ring : x'.ring = x.ring)
    (slots : x'.members.map Member.ringSlot = x.members.map Member.ringSlot) : ListsKept s (s.setContext c (some x')) :=
  (RingsGoOn.of_contexts (s := s) (t := s.setContext c (some x')) rfl rfl fun r => slotsHeld_setContext h ring slots r).lists rfl

theorem listsKept_setAdminRings {a a' : AdminRings} (h : s.admin.rings = some a)
    (hc : ∀ rg, a'.command.retires rg → a.command.retires rg) : ListsKept s (s.setAdminRings (some a')) := by
  refine (reaction_setAdminRings _).lists ⟨rfl, rfl, rfl⟩ fun p => p.keep rfl (fun _ => .inl rfl) fun rg => ?_
  rw [retires_iff, retires_iff]
  rintro ⟨b, hb, hr⟩
  cases hb
  exact ⟨a, h, hc rg hr⟩

/-- Regions that are not ACTIVE change, and do not become ACTIVE. -/
theorem listsKept_regions {v : Vector Region 16} (h : ProbesWatchActive s → ∀ n : RegionId, v[n] = s.regions[n] ∨
    s.regions[n].phase ≠ .active ∧ v[n].phase ≠ .active) : ListsKept s { s with regions := v } :=
  ⟨id, id, (RingsGoOn.of_contexts (s := s) (t := { s with regions := v }) rfl rfl fun _ => .refl _).sound,
    fun p => p.keep rfl (h p) fun _ => id⟩

/-! ## Notices and the end of a command -/

theorem listsKept_writeStatus (e : Fin 16) (index : Nat) (s : State) : ListsKept s (writeStatus e index s) := by
  unfold writeStatus
  split <;> exact .of_lists rfl

theorem listsKept_endStatusWrite (e : Fin 16) (s : State) : ListsKept s (endStatusWrite e s) := by
  unfold endStatusWrite
  split <;> exact .of_lists rfl

theorem listsKept_postAdmin (body : List Byte) (kind : Byte) (s : State) : ListsKept s (postAdmin body kind s) := by
  unfold postAdmin
  split
  · exact .refl s
  · next a h =>
    exact ListsKept.after (listsKept_setAdminRings (s := issueWrite _ _ _ s) h fun _ => id) (.of_lists rfl)

theorem listsKept_setNotices {x : List PendingNotice} (h : NoticesProper s → NoticesProper (s.setNotices x)) :
    ListsKept s (s.setNotices x) :=
  (reaction_setNotices h).lists ⟨rfl, rfl, rfl⟩ fun p => p.keep rfl (fun _ => .inl rfl) fun _ => id

theorem listsKept_raiseNotice (n : Notice) (s : State) : ListsKept s (raiseNotice n s) := by
  have reacted := (reaction_raiseNotice n s).notices
  unfold raiseNotice at reacted ⊢
  split at reacted
  · next room => rw [if_pos room]; exact listsKept_postAdmin _ _ s
  · next full => rw [if_neg full]; exact listsKept_setNotices reacted

theorem listsKept_postPendingList (l : List PendingNotice) (s : State) (h : l <:+ s.admin.notices) :
    ListsKept s (postPendingList l s) := by
  induction l generalizing s with
  | nil => exact listsKept_setNotices (reaction_setNoticesSuffix h).notices
  | cons p rest ih =>
    refine listsKept_ite ?_ (listsKept_setNotices (reaction_setNoticesSuffix h).notices)
    exact (listsKept_postAdmin _ _ s).trans (ih _ (by simpa using (List.suffix_cons p rest).trans h))

theorem listsKept_postPending (s : State) : ListsKept s (postPending s) :=
  listsKept_postPendingList _ s List.suffix_rfl

theorem listsKept_considerAdminRead (s : State) : ListsKept s (considerAdminRead s) := by
  unfold considerAdminRead
  split
  · exact .refl s
  · next a h =>
    refine listsKept_ite ?_ (.refl s)
    refine ListsKept.after (listsKept_setAdminRings (s := issueRead _ _ _ s) h ?_) (.of_lists rfl)
    rintro rg ⟨n, hr | hr⟩ <;> cases hr

theorem listsKept_setProgress {p : Progress} (hp : ∀ rg n, p ≠ .retireWait rg n ∧ p ≠ .retireRelease rg n) (s : State) :
    ListsKept s (setProgress p s) := by
  unfold setProgress
  split
  · next a h =>
    split
    · refine listsKept_setAdminRings h ?_
      rintro rg ⟨n, hr | hr⟩
      · exact absurd (Option.some.inj hr) (hp rg n).1
      · exact absurd (Option.some.inj hr) (hp rg n).2
    · exact .refl s
  · exact .refl s

theorem listsKept_passCommand (s : State) : ListsKept s (passCommand s) := by
  unfold passCommand
  split
  · exact .refl s
  · next a h =>
    refine listsKept_setAdminRings h ?_
    rintro rg ⟨n, hr | hr⟩ <;> cases hr

theorem listsKept_finishCommand (body : List Byte) (kind : Byte) (s : State) : ListsKept s (finishCommand body kind s) :=
  (listsKept_considerAdminRead _).after
    ((listsKept_writeStatus 0 _ _).after ((listsKept_passCommand _).after (listsKept_postAdmin body kind s)))

theorem listsKept_completeCommand (st : AdminStatus) (value : BitVec 32) (s : State) :
    ListsKept s (completeCommand st value s) := by
  unfold completeCommand
  split
  · exact .refl s
  · exact listsKept_finishCommand _ _ s

/-! ## Rings -/

theorem stall_goesOn (x : Stall) (q : ResultRing) : q.GoesOn { q with stall := x } := ⟨rfl, fun h => { h with }⟩

theorem listsKept_stallCheckOne (s : State) (rr : RingId) : ListsKept s (stallCheckOne s rr) := by
  unfold stallCheckOne
  split
  · exact .refl s
  · next q hq =>
    split
    · exact listsKept_ite (listsKept_setResult hq (stall_goesOn _ q)) (.refl s)
    · exact listsKept_ite (.refl s) (listsKept_setResult hq (stall_goesOn _ q))
    · exact .refl s

theorem listsKept_stallCheck (s : State) : ListsKept s (stallCheck s) := .foldl listsKept_stallCheckOne _ s

theorem listsKept_completeDelete (r : RingId) (s : State) : ListsKept s (completeDelete r s) := by
  unfold completeDelete
  split
  · exact listsKept_ite (listsKept_completeCommand _ _ s) (.refl s)
  · exact .refl s

theorem dropIncomplete_goesOn (w : WorkRing) : w.GoesOn (dropIncomplete w) := by
  refine ⟨?_, ?_, ?_, WorkRing.Ordered.dropIncomplete⟩ <;> unfold dropIncomplete <;> split <;> rfl

theorem outstanding_of_deletionOver {st : StatusWrite} (h : deletionOver w st = true) : w.outstanding = [] := by
  simp only [deletionOver, Bool.and_eq_true] at h
  obtain ⟨⟨⟨-, empty⟩, -⟩, -⟩ := h
  exact List.isEmpty_iff.1 empty

theorem listsKept_deleteCheck (r : RingId) (s : State) : ListsKept s (deleteCheck r s) := by
  unfold deleteCheck
  split
  · exact .refl s
  · next w hw =>
    have onward := dropIncomplete_goesOn w
    dsimp only
    split
    · next ends =>
      refine (listsKept_completeDelete r _).after (listsKept_dropWork r fun sound => sound.held_nil ?_)
      rw [outstandingOf_eq hw, ← onward.outstanding]
      exact outstanding_of_deletionOver ends
    · exact listsKept_setWork hw onward

theorem listsKept_deleteCheckRunning (s : State) : ListsKept s (deleteCheckRunning s) := by
  unfold deleteCheckRunning
  split
  · exact listsKept_deleteCheck _ s
  · exact .refl s

theorem discard_goesOn (w : WorkRing) : w.GoesOn w.discard := ⟨rfl, rfl, rfl, WorkRing.Ordered.discard⟩

theorem phase_goesOn (w : WorkRing) (ph : RingPhase) (held : Bool) :
    w.GoesOn { w with phase := ph, fetchHeld := held } := ⟨rfl, rfl, rfl, fun h => { h with }⟩

theorem listsKept_haltRing (r : RingId) (s : State) : ListsKept s (haltRing r s) := by
  unfold haltRing
  split
  · exact .refl s
  · next w hw =>
    split
    · exact (listsKept_raiseNotice _ _).after (listsKept_setWork hw (phase_goesOn w _ _))
    · exact (listsKept_raiseNotice _ _).after (listsKept_setWork hw (phase_goesOn w _ _))
    · exact (listsKept_deleteCheck r _).after
        ((listsKept_raiseNotice _ _).after (listsKept_setWork hw (discard_goesOn w)))
    · exact .refl s
    · exact .refl s

/-! ## Slots -/

theorem listsKept_freeSlot (k : SlotId) (s : State) : ListsKept s (freeSlot k s) := .of_lists rfl

theorem listsKept_unawait (k : SlotId) (s : State) : ListsKept s (unawait k s) := by
  unfold unawait
  split
  · exact listsKept_setProgress (by simp) s
  · exact .refl s

theorem listsKept_dropUnsound (k : SlotId) (record : Nat) (s : State) : ListsKept s (dropUnsound k record s) := by
  unfold dropUnsound
  split
  · exact listsKept_ite ((listsKept_freeSlot k _).after (listsKept_unawait k s)) (.refl s)
  · exact .refl s

variable {raise : RaisedFault → State → State}

theorem listsKept_startWriteBackWith (hr : ∀ f s, ListsKept s (raise f s)) (k : SlotId) (s : State) :
    ListsKept s (startWriteBackWith raise k s) := by
  unfold startWriteBackWith
  split
  · split
    · exact listsKept_ite (.refl s) (listsKept_ite (.of_lists rfl) ((listsKept_dropUnsound k _ _).after (hr _ s)))
    · exact .refl s
  · exact .refl s

theorem listsKept_releaseSlotWith (hr : ∀ f s, ListsKept s (raise f s)) (k : SlotId) (s : State) :
    ListsKept s (releaseSlotWith raise k s) := by
  unfold releaseSlotWith
  split
  · split
    · exact listsKept_ite (.refl s) (listsKept_ite (listsKept_freeSlot k s) (listsKept_startWriteBackWith hr k s))
    · exact .refl s
  · exact .refl s

theorem listsKept_releaseSlotsWith (hr : ∀ f s, ListsKept s (raise f s)) (p : Slot → Bool) (s : State) :
    ListsKept s (releaseSlotsWith raise p s) :=
  .foldl (fun s k => by
    split
    · exact listsKept_ite (listsKept_releaseSlotWith hr k s) (.refl s)
    · exact .refl s) _ s

/-! ## Retire and flush -/

/-- The region that a RETIRE_REGION retires is not ACTIVE, and becomes UNDEFINED (R11, R12). -/
theorem listsKept_retireFinish (s : State) : ListsKept s (retireFinish s) := by
  unfold retireFinish
  split
  · next rg probes h =>
    refine listsKept_ite (.refl s) ((listsKept_completeCommand _ _ _).after
      (listsKept_regions (v := s.regions.set rg Region.cleared) fun sound n => ?_))
    rw [getElem_set_fin]
    split
    · next e => exact .inr ⟨e ▸ sound.retiring_phase ⟨probes, .inr h⟩, by simp [Region.cleared]⟩
    · exact .inl rfl
  · exact .refl s

/-- A retire that goes on to its second phase retires the same region. -/
theorem listsKept_setRelease {rg : RegionId} {n : Nat} (h : runningProgress s = some (.retireWait rg n)) :
    ListsKept s (setProgress (.retireRelease rg n) s) := by
  unfold setProgress
  split
  · next a ha =>
    split
    · refine listsKept_setAdminRings ha fun rg' hr => ?_
      have same : rg' = rg := by
        obtain ⟨m, hr | hr⟩ := hr <;> cases hr
        rfl
      subst same
      obtain ⟨b, hb, retires⟩ := (retires_iff s rg').1 ⟨n, .inl h⟩
      cases ha.symm.trans hb
      exact retires
    · exact .refl s
  · exact .refl s

theorem listsKept_retireCheckWith (hr : ∀ f s, ListsKept s (raise f s)) (s : State) :
    ListsKept s (retireCheckWith raise s) := by
  unfold retireCheckWith
  split
  · next h =>
    exact listsKept_ite (.refl s) ((listsKept_retireFinish _).after
      ((listsKept_releaseSlotsWith hr _ _).after (listsKept_setRelease h)))
  · exact listsKept_retireFinish s
  · exact .refl s

theorem listsKept_flushCheck (s : State) : ListsKept s (flushCheck s) := by
  unfold flushCheck
  split
  · exact listsKept_completeCommand _ _ s
  · exact .refl s

theorem listsKept_drainingCheck (s : State) : ListsKept s (drainingCheck s) := by
  refine listsKept_ite (listsKept_regions fun _ n => ?_) (.refl s)
  rw [getElem_ofFn_fin]
  split
  · next h =>
    obtain ⟨draining, -⟩ := h
    exact .inr ⟨by rw [draining]; simp, by simp [Region.cleared]⟩
  · exact .inl rfl

/-! ## The entry into FAILED -/

theorem listsKept_abandonContexts (s : State) : ListsKept s (abandonContexts s) :=
  (RingsGoOn.of_contexts (s := s) (t := abandonContexts s) rfl rfl fun r => slotsHeld_sublist fun c => by
    rw [abandonContexts_contexts]
    exact List.nil_sublist _).lists rfl

/-- A DELETING ring ends once no context is left (R78, R135). -/
theorem listsKept_failDeleting (h : ∀ c : CtxId, s.contexts[c] = none) (r : RingId) :
    ListsKept s (failDeleting s r) := by
  have free : slotsHeld s r = [] := List.eq_nil_iff_forall_not_mem.2 fun i hi => by
    obtain ⟨c, hc⟩ := mem_slotsHeld.1 hi
    rw [h] at hc
    cases hc
  unfold failDeleting
  split
  · exact .refl s
  · next w hw =>
    split
    · refine (listsKept_completeDelete r _).after ?_
      have dropped : ListsKept s (unheed (fun k => k.asFetchRead == some r) (s.setWork r none)) :=
        ListsKept.trans (listsKept_dropWork r fun _ => free) (.of_lists rfl)
      split
      · next q hq =>
        have unheeded : ∀ q', ListsKept ((s.setWork r none).setResult w.boundTo (some q'))
            ((unheed (fun k => k.asFetchRead == some r) (s.setWork r none)).setResult w.boundTo (some q')) :=
          fun q' => .of_lists rfl
        exact ⟨dropped.notices, dropped.inFlight, fun sound => (unheeded _).rings (sound.endWork hw free hq),
          probes_of_watched rfl⟩
      · exact dropped
    · exact .refl s

theorem listsKept_failDeletings (l : List RingId) (h : ∀ c : CtxId, s.contexts[c] = none) :
    ListsKept s (l.foldl failDeleting s) := by
  induction l generalizing s with
  | nil => exact .refl s
  | cons r l ih =>
    obtain ⟨contexts, -⟩ := failDeleting_rest s r
    exact (listsKept_failDeleting h r).trans (ih fun c => by rw [contexts]; exact h c)

theorem stopTiming_goesOn (q : ResultRing) : q.GoesOn q.stopTiming := by
  unfold ResultRing.stopTiming
  split
  · exact stall_goesOn _ q
  · exact .refl q

theorem listsKept_stopTiming (s : State) : ListsKept s (stopTiming s) := by
  refine RingsGoOn.lists ⟨fun _ => rel_refl .refl _, fun rr => ?_, fun _ => .refl _⟩ rfl
  have mapped : (stopTiming s).rings.results[rr] = (s.rings.results[rr]).map ResultRing.stopTiming :=
    getElem_map_fin _ _ _
  rw [mapped]
  cases s.rings.results[rr] with
  | none => exact .none
  | some q => exact .some (stopTiming_goesOn q)

theorem listsKept_noteFault (f : RaisedFault) (s : State) : ListsKept s (noteFault f s) := .of_lists rfl

theorem listsKept_enterFailed (s : State) : ListsKept s (enterFailed s) := by
  have abandoned : ListsKept s (abandonContexts (s.setFaults { s.faults with failed := true })) :=
    ListsKept.after (listsKept_abandonContexts _) (.of_lists rfl)
  have ended := abandoned.trans (listsKept_failDeletings (List.finRange 15) (abandonContexts_contexts _))
  exact (ended.trans (listsKept_stopTiming _)).trans (listsKept_retireCheckWith listsKept_noteFault _)

/-! ## The fault unit -/

theorem listsKept_haltBound (rr : RingId) (s : State) : ListsKept s (haltBound rr s) :=
  .foldl (fun s r => listsKept_ite (listsKept_haltRing r s) (.refl s)) _ s

theorem listsKept_applySeverity (f : RaisedFault) (s : State) : ListsKept s (applySeverity f s) := by
  unfold applySeverity
  split
  · exact .refl s
  · exact listsKept_enterFailed s
  · split
    · exact listsKept_haltRing _ s
    · exact listsKept_haltBound _ s
    all_goals exact .refl s

theorem listsKept_captureFault (f : RaisedFault) (s : State) : ListsKept s (captureFault f s) := by
  refine listsKept_ite (.refl s) ?_
  split
  · exact (listsKept_raiseNotice _ _).after (.of_lists rfl)
  · exact .of_lists rfl

theorem listsKept_raiseFault (f : RaisedFault) (s : State) : ListsKept s (raiseFault f s) :=
  listsKept_ite (.of_lists rfl)
    ((listsKept_applySeverity f _).after ((listsKept_captureFault f _).after (.of_lists rfl)))

theorem listsKept_raiseFaults (fs : List RaisedFault) (s : State) : ListsKept s (raiseFaults fs s) :=
  .foldl (fun s f => listsKept_raiseFault f s) fs s

theorem listsKept_startWriteBack (k : SlotId) (s : State) : ListsKept s (startWriteBack k s) :=
  listsKept_startWriteBackWith listsKept_raiseFault k s

theorem listsKept_retireCheck (s : State) : ListsKept s (retireCheck s) :=
  listsKept_retireCheckWith listsKept_raiseFault s

/-! ## Results and contexts -/

theorem endOutstanding_watched (r : RingId) (slot : Nat) (s : State) :
    (endOutstanding r slot s).watched = s.watched := by
  unfold endOutstanding
  split <;> rfl

theorem postFrom_watched (r rr : RingId) (count member : Nat) (posts : List Posting) (s : State) :
    (postFrom r rr count member posts s).watched = s.watched := by
  induction posts generalizing member s with
  | nil => rfl
  | cons p rest ih =>
    refine (ih (member + 1) _).trans ?_
    unfold postResult
    split
    · rfl
    · exact endOutstanding_watched _ _ _

theorem retireRing_watched (r : RingId) (s : State) : (retireRing r s).watched = s.watched := by
  unfold retireRing
  split
  · rfl
  · split
    · rfl
    · unfold writeStatus
      split <;> rfl

theorem coalesceCheck_watched (rr : RingId) (s : State) : (coalesceCheck rr s).watched = s.watched := by
  unfold coalesceCheck
  split
  · rfl
  · split
    · unfold causeMessage
      dsimp only
      split <;> rfl
    · rfl

theorem postUnit_watched (r : RingId) (posts : List Posting) (s : State) : (postUnit r posts s).watched = s.watched := by
  unfold postUnit
  split
  · rfl
  · rw [coalesceCheck_watched, retireRing_watched, postFrom_watched]

/-- The slots of a context are outstanding, distinct, and held by no other context. -/
theorem RingsSound.held (sound : RingsSound s) {c : CtxId} {x : Context} (hc : s.contexts[c] = some x) :
    (x.members.map Member.ringSlot).Nodup ∧
      ∀ i ∈ x.members.map Member.ringSlot, i ∈ outstandingOf s x.ring ∧ i ∉ slotsHeld (s.setContext c none) x.ring := by
  obtain ⟨nodup, out⟩ := sound.results.held x.ring
  obtain ⟨each, disjoint⟩ := slotsHeld_nodup_iff.1 nodup
  have own : heldIn s.contexts[c] x.ring = x.members.map Member.ringSlot := by rw [hc]; simp [heldIn]
  refine ⟨own ▸ each c, fun i hi => ⟨out i (mem_slotsHeld.2 ⟨c, own ▸ hi⟩), fun held => ?_⟩⟩
  obtain ⟨d, hd⟩ := mem_slotsHeld.1 held
  rw [State.setContext_contexts, getElem_set_fin] at hd
  split at hd
  · cases hd
  · next other => exact disjoint d c other hd (own ▸ hi)

/-- Distinct elements that a list holds, and what is left of it without them. -/
theorem length_filter_add_le {l slots : List Nat} (distinct : slots.Nodup) (sub : ∀ i ∈ slots, i ∈ l) :
    (l.filter fun i => !slots.contains i).length + slots.length ≤ l.length := by
  have found : slots.length ≤ (l.filter fun i => slots.contains i).length :=
    (distinct.subperm fun i hi => List.mem_filter.2 ⟨sub i hi, List.contains_iff_mem.2 hi⟩).length_le
  have parts := List.length_eq_length_filter_add (l := l) fun i => slots.contains i
  omega

theorem listsKept_endContext (c : CtxId) (s : State) : ListsKept s (endContext c s) := by
  cases hc : s.contexts[c] with
  | none =>
    unfold endContext
    rw [hc]
    exact .refl s
  | some x =>
    have ends : endContext c s = postUnit x.ring (x.members.map Member.posting)
        (unheed (fun k => k.asStoreRead == some c) (withdrawRequest c (leaveQueues c (s.setContext c none)))) := by
      unfold endContext
      rw [hc]
    have left : ListsKept (s.setContext c none)
        (unheed (fun k => k.asStoreRead == some c) (withdrawRequest c (leaveQueues c (s.setContext c none)))) :=
      .of_lists rfl
    have reacted := reaction_endContext c s
    have slots : (x.members.map Member.posting).map Posting.ringSlot = x.members.map Member.ringSlot := by
      rw [List.map_map]
      rfl
    refine ⟨reacted.notices, reacted.bounded, fun sound => ?_, probes_of_watched ?_⟩
    · obtain ⟨distinct, each⟩ := sound.held hc
      have ended : RingsSound (s.setContext c none) :=
        (RingsGoOn.of_contexts (s := s) (t := s.setContext c none) rfl rfl (slotsHeld_setContext_none c s)).sound sound
      rw [ends]
      refine (left.rings ended).postUnit _ (fun p hp => ?_) fun w q hw hq => ?_
      · exact (each _ (slots ▸ List.mem_map_of_mem hp)).2
      · have reserved : outstandingBound s w.boundTo ≤ q.reserved := sound.results.reserved _ q hq
        have fewer := length_filter_add_le distinct fun i hi => outstandingOf_eq (s := s) hw ▸ (each i hi).1
        rw [slots]
        rw [List.length_map] at fewer ⊢
        exact (Nat.add_assoc _ _ _).trans_le (Nat.add_le_add reserved fewer)
    · rw [ends]
      exact postUnit_watched _ _ _

theorem failMembers_slots (records : List Nat) (st : Status) (ms : List Member) :
    (failMembers records st ms).map Member.ringSlot = ms.map Member.ringSlot := by
  unfold failMembers
  rw [List.map_map]
  rfl

theorem listsKept_failContext (records : List Nat) (st : Status) (c : CtxId) (s : State) :
    ListsKept s (failContext records st c s) := by
  unfold failContext
  split
  · exact .refl s
  · next x hc =>
    exact (listsKept_endContext c _).after (listsKept_setContext hc rfl (failMembers_slots records st x.members))

theorem listsKept_readyCheck (s : State) : ListsKept s (readyCheck s) := by
  refine (RingsGoOn.of_contexts (s := s) (t := readyCheck s) rfl rfl fun r => slotsHeld_sublist fun c => ?_).lists rfl
  have same : heldIn (readyCheck s).contexts[c] r = heldIn s.contexts[c] r := by
    unfold readyCheck
    rw [getElem_ofFn_fin]
    cases s.contexts[c] with
    | none => rfl
    | some x =>
      dsimp only
      split <;> rfl
  rw [same]

/-! ## The allocator -/

theorem listsKept_joinSlot (k : SlotId) (c : CtxId) (s : State) : ListsKept s (joinSlot k c s) := by
  unfold joinSlot
  split
  · exact .refl s
  · dsimp only
    split <;> exact .of_lists rfl

theorem listsKept_giveSlot (k : SlotId) (c : CtxId) (i : RecordItem) (s : State) : ListsKept s (giveSlot k c i s) :=
  listsKept_ite (.of_lists rfl) (.of_lists rfl)

theorem listsKept_grantItem (x : Context) (c : CtxId) (i : RecordItem) (s : State) :
    ListsKept s (grantItem x c i s).2 := by
  unfold grantItem
  split
  · exact listsKept_joinSlot _ c s
  · split
    · exact listsKept_giveSlot _ c i s
    · exact .refl s

theorem listsKept_grantItems (x : Context) (c : CtxId) (is : List RecordItem) (s : State) :
    ListsKept s (grantItems x c is s).2 := by
  induction is generalizing s with
  | nil => exact .refl s
  | cons i rest ih => exact (listsKept_grantItem x c i s).trans (ih _)

theorem listsKept_grantSlots {c : CtxId} {x : Context} (h : s.contexts[c] = some x) :
    ListsKept s (grantSlots c x s) := by
  have held : (grantItems x c x.records s).2.contexts[c] = some x := by rw [grantItems_contexts]; exact h
  exact (listsKept_grantItems x c x.records s).trans (listsKept_setContext held rfl rfl)

theorem listsKept_grant (c : CtxId) (s : State) : ListsKept s (grant c s) := by
  have withdrawn : ListsKept s (withdrawRequest c s) := .of_lists rfl
  unfold grant
  split
  · exact withdrawn
  · next x hc =>
    refine (listsKept_readyCheck _).after (listsKept_ite ?_ ?_)
    · exact withdrawn.trans (listsKept_grantSlots (s := withdrawRequest c s) hc)
    · exact (listsKept_raiseFaults _ _).after ((listsKept_failContext _ _ c _).after withdrawn)

theorem listsKept_evaluateFrom (fuel : Nat) (s : State) : ListsKept s (evaluateFrom fuel s) := by
  induction fuel generalizing s with
  | zero => exact .refl s
  | succ n ih =>
    unfold evaluateFrom
    split
    · exact .refl s
    · split
      · exact (ih _).after (.of_lists rfl)
      · refine listsKept_ite ((ih _).after (listsKept_grant _ s)) ?_
        exact .foldl (fun s k => listsKept_ite (.refl s) (listsKept_startWriteBack k s)) _ s

theorem listsKept_evaluate (s : State) : ListsKept s (evaluate s) := listsKept_evaluateFrom _ s

theorem listsKept_settle (s : State) : ListsKept s (settle s) := by
  have draining : ListsKept s (settledToDraining s) :=
    ((((listsKept_readyCheck s).trans (listsKept_retireCheck _)).trans (listsKept_evaluate _)).trans
      (listsKept_retireCheck _)).trans ((listsKept_evaluate _).trans (listsKept_flushCheck _))
  rw [settle_eq]
  exact (listsKept_stallCheck _).after ((listsKept_deleteCheckRunning _).after
    ((listsKept_drainingCheck _).after draining))

end ListsBounded

end Sys2Proof.Machine

/-! # The lists and the sets that have bounds, over one step (R122, R129, R138, R160, R165) -/

namespace Sys2Proof.Machine

section ListsStayBounded

variable {s t u : State} {r rr : RingId} {w : WorkRing} {q : ResultRing}

/-! ## Reports, events and commands -/

theorem listsKept_event {f : State → State} (h : ListsKept s (f s)) : ListsKept s (event f s) := by
  refine h.trans ?_
  unfold event adminMessage
  split
  · exact .of_lists rfl
  · exact .refl _

theorem listsKept_onReport {α : Type} {kind : TransferKind → Option α} {handle : α → State → State} {xfer : Nat}
    (h : ∀ x a, findTransfer xfer s = some x → kind x.kind = some a → x.heeded = true →
      ListsKept (dropTransfer xfer s) (handle a (dropTransfer xfer s))) :
    ListsKept s (onReport kind handle xfer s) := by
  have dropped : ListsKept s (dropTransfer xfer s) := .of_lists rfl
  unfold onReport
  split
  · exact .refl s
  · next x hx =>
    split
    · exact .refl s
    · next a ha =>
      split
      · next heeded => exact dropped.trans (h x a hx ha heeded)
      · exact dropped

/-- A report whose handling keeps the lists from any state, as an event. -/
theorem listsKept_report {α : Type} {kind : TransferKind → Option α} {handle : α → State → State}
    (h : ∀ a s, ListsKept s (handle a s)) (xfer : Nat) (s : State) :
    ListsKept s (event (onReport kind handle xfer) s) :=
  listsKept_event (listsKept_onReport fun _ _ _ _ _ => h _ _)

theorem listsKept_readComplete {α : Type} {kind : TransferKind → Option α} {handle : α → State → State}
    (h : ∀ a s, ListsKept s (handle a s)) (xfer : Nat) (s : State) :
    ListsKept s (event (onReadComplete kind handle xfer) s) :=
  listsKept_event (listsKept_ite (listsKept_onReport fun _ _ _ _ _ => h _ _) (.refl s))

/-- No command retires a region, as where a command has just been taken. -/
def RetiresNone (s : State) : Prop := ∀ rg, ¬ Retires s rg

theorem retiresNone_beginCommand (e : Entry) (s : State) : RetiresNone (beginCommand e s) := fun rg h => by
  obtain ⟨a, ha, n, hn⟩ := (retires_iff _ rg).1 h
  unfold beginCommand at ha
  split at ha
  · cases ha
    rcases hn with hn | hn <;> cases hn
  · next none => exact absurd (ha.symm.trans none) (by simp)

theorem retiresNone_of_progress {p : Progress} (h : runningProgress s = some p)
    (hp : ∀ rg n, p ≠ .retireWait rg n ∧ p ≠ .retireRelease rg n) : RetiresNone s := by
  rintro rg ⟨n, hn | hn⟩
  · exact (hp rg n).1 (Option.some.inj (h.symm.trans hn))
  · exact (hp rg n).2 (Option.some.inj (h.symm.trans hn))

theorem listsKept_beginCommand (e : Entry) (s : State) : ListsKept s (beginCommand e s) := by
  unfold beginCommand
  split
  · next a h =>
    refine listsKept_setAdminRings h ?_
    rintro rg ⟨n, hr | hr⟩ <;> cases hr
  · exact .refl s

theorem listsKept_takeCommand {row : Nat → Bool} {run : Entry → State → State}
    (h : ∀ e s, RetiresNone s → ListsKept s (run e s)) (xfer : Nat) (e : Entry) (s : State) :
    ListsKept s (takeCommand row run xfer e s) :=
  listsKept_ite (listsKept_readComplete (fun _ t => (listsKept_settle _).after
    ((h e _ (retiresNone_beginCommand e t)).after (listsKept_beginCommand e t))) xfer s) (.refl s)

theorem listsKept_whileOperating {run : State → State} (value : BitVec 32) (h : ListsKept s (run s)) :
    ListsKept s (whileOperating value run s) :=
  listsKept_ite (listsKept_completeCommand _ _ s) h

/-- A command that a FAILED device refuses with result value 0. -/
theorem listsKept_operatingCommand {row : Nat → Bool} {run : Entry → State → State}
    (h : ∀ e s, RetiresNone s → ListsKept s (run e s)) (xfer : Nat) (e : Entry) (s : State) :
    ListsKept s (takeCommand row (fun e => whileOperating 0 (run e)) xfer e s) :=
  listsKept_takeCommand (fun e s fresh => listsKept_whileOperating 0 (h e s fresh)) xfer e s

theorem listsKept_refuse (st : AdminStatus) (s : State) : ListsKept s (refuse st s) := listsKept_completeCommand _ _ s

theorem listsKept_done (s : State) : ListsKept s (done s) := listsKept_completeCommand _ _ s

theorem listsKept_raiseSettled (f : RaisedFault) (s : State) : ListsKept s (settle (raiseFault f s)) :=
  (listsKept_raiseFault f s).trans (listsKept_settle _)

/-! ## Resets and registers -/

theorem listsKept_powerOn (sz1 sz0 : Bool) (s : State) : ListsKept s (powerOn sz1 sz0 s) := by
  have reset : ∀ {α : Type} {n : Nat} (x : α) (i : Fin n), (Vector.replicate n x)[i] = x := fun x i =>
    Vector.getElem_replicate i.isLt
  exact listsKept_emptied rfl (reset _) (reset _) (reset _) (reset _) rfl

theorem listsKept_dropAtReset (s : State) : ListsKept s (dropAtReset s) := by
  have reset : ∀ {α : Type} {n : Nat} (x : α) (i : Fin n), (Vector.replicate n x)[i] = x := fun x i =>
    Vector.getElem_replicate i.isLt
  exact listsKept_emptied rfl (reset _) (reset _) (reset _) (reset _) rfl

theorem listsKept_functionReset (s : State) : ListsKept s (functionReset s) := by
  have dropped : ListsKept s (dropAtReset (s.setResetPhase .functionReset)) :=
    (listsKept_dropAtReset _).after (.of_lists rfl)
  exact (dropped.trans (listsKept_releaseSlotsWith listsKept_raiseFault _ _)).trans (listsKept_drainingCheck _)

theorem listsKept_registerWrite {f : State → State} (h : ListsKept s (f s)) : ListsKept s (registerWrite f s) :=
  listsKept_ite (listsKept_event h) (.refl s)

/-- The admin rings open with no command, or are none. -/
theorem listsKept_openAdmin (s : State) : ListsKept s (openAdmin s) := by
  have fresh : ∀ {x : Option AdminRings}, (∀ a, x = some a → a.command = .none) → ListsKept s (s.setAdminRings x) :=
    fun {x} hx => (reaction_setAdminRings x).lists ⟨rfl, rfl, rfl⟩ fun p => p.keep rfl (fun _ => .inl rfl) fun rg h => by
      obtain ⟨a, ha, n, hn⟩ := (retires_iff _ rg).1 h
      rw [hx a ha] at hn
      rcases hn with hn | hn <;> cases hn
  have opened : ListsKept (s.setAdminRings (some (openedRings s.regs)))
      (((s.setAdminPhase .opened).setAdminRings (some (openedRings s.regs))).setStatus 0 .idle) := .of_lists rfl
  have halted : ListsKept (s.setAdminRings none)
      (((s.setAdminPhase .halted).setAdminRings none).setRegs { s.regs with adminHalted := true }) := .of_lists rfl
  refine listsKept_ite ?_ ((fresh fun a ha => by cases ha).trans halted)
  exact (((fresh fun a ha => by cases ha; rfl).trans opened).trans (listsKept_postPending _)).trans
    (listsKept_considerAdminRead _)

theorem listsKept_writeDevControl (enable msgEn : Bool) (s : State) : ListsKept s (writeDevControl enable msgEn s) :=
  listsKept_ite ((listsKept_openAdmin _).after (.of_lists rfl)) (.of_lists rfl)

theorem listsKept_writeConfig (offset : Nat) (width : AccessWidth) (v : BitVec 64) (s : State) :
    ListsKept s (writeConfig offset width v s) :=
  listsKept_ite (.refl s) (.of_lists rfl)

theorem posted_goesOn {p : Nat} (valid : w.validPost p = true) : w.GoesOn (w.posted p) := by
  refine ⟨?_, ?_, ?_, fun h => h.posted valid⟩ <;> unfold WorkRing.posted <;> split <;> rfl

theorem listsKept_writePost (r : RingId) (v : BitVec 32) (s : State) : ListsKept s (writePost r v s) := by
  unfold writePost
  split
  · exact .refl s
  · next w hw =>
    split
    · exact .refl s
    · split
      · next valid => exact (listsKept_setWork hw (posted_goesOn valid)).trans (listsKept_stallCheck _)
      · exact listsKept_raiseSettled _ s

theorem released_goesOn {p : Nat} (valid : q.validRelease p = true) : q.GoesOn (q.released p) :=
  ⟨rfl, fun h => h.released valid⟩

theorem listsKept_writeRelease (rr : RingId) (v : BitVec 32) (s : State) : ListsKept s (writeRelease rr v s) := by
  unfold writeRelease
  split
  · exact .refl s
  · next q hq =>
    split
    · next valid => exact (listsKept_setResult hq (released_goesOn valid)).trans (listsKept_stallCheck _)
    · exact listsKept_raiseSettled _ s

theorem listsKept_writeAdminPost (v : BitVec 32) (s : State) : ListsKept s (writeAdminPost v s) := by
  unfold writeAdminPost
  split
  · exact .refl s
  · next a h =>
    exact listsKept_ite ((listsKept_considerAdminRead _).after (listsKept_setAdminRings h fun _ => id))
      (listsKept_raiseSettled _ s)

theorem listsKept_writeAdminRelease (v : BitVec 32) (s : State) : ListsKept s (writeAdminRelease v s) := by
  unfold writeAdminRelease
  split
  · exact .refl s
  · next a h =>
    exact listsKept_ite ((listsKept_considerAdminRead _).after ((listsKept_postPending _).after
      (listsKept_setAdminRings h fun _ => id))) (listsKept_raiseSettled _ s)

/-! ## Fetches -/

theorem listsKept_issueFetch (r : RingId) (s : State) : ListsKept s (issueFetch r s) := by
  unfold issueFetch
  split
  · exact .refl s
  · next w hw =>
    refine listsKept_ite ?_ (.refl s)
    exact ListsKept.after (listsKept_setWork (s := issueRead _ _ _ s) hw ⟨rfl, rfl, rfl, fun h => h.fetching⟩)
      (.of_lists rfl)

theorem endFetch_goesOn (w : WorkRing) : w.GoesOn w.endFetch := ⟨rfl, rfl, rfl, fun h => h.endFetch⟩

/-- A read that completes brings the entries that it asked for. -/
theorem listsKept_completeFetch {entries : List Entry} (h : ∀ w f, s.rings.work[r] = some w → w.fetchRead = some f →
    entries.length = f.count) : ListsKept s (completeFetch entries r s) := by
  unfold completeFetch
  split
  · exact .refl s
  · next w hw =>
    split
    · exact .refl s
    · next f hf =>
      refine ListsKept.trans (listsKept_setWork hw ?_) ((listsKept_issueFetch r _).trans (listsKept_settle _))
      split
      · exact endFetch_goesOn w
      · next kept =>
        simp only [Bool.or_eq_true, not_or, Bool.not_eq_true] at kept
        obtain ⟨fresh, -⟩ := kept
        exact ⟨rfl, rfl, rfl, fun ordered => ordered.append hf fresh (h w f hw hf)⟩

theorem listsKept_fetchReadComplete (xfer : Nat) (entries : List Entry) (s : State)
    (count : fetchCountIs xfer entries.length s = true) :
    ListsKept s (event (onReadComplete TransferKind.asFetchRead (completeFetch entries) xfer) s) := by
  refine listsKept_event (listsKept_ite (listsKept_onReport fun x r hx hr heeded => ?_) (.refl s))
  refine listsKept_completeFetch fun w f hw hf => ?_
  have hw : s.rings.work[r] = some w := hw
  unfold fetchCountIs at count
  rw [hx] at count
  dsimp only at count
  rw [heeded, hr] at count
  simp only [Bool.not_true, Bool.false_or, Option.bind_some, hw, hf, Option.all_some, beq_iff_eq] at count
  exact count.symm

theorem listsKept_drainToDiscard (r : RingId) (s : State) : ListsKept s (drainToDiscard r s) := by
  unfold drainToDiscard
  split
  · exact .refl s
  · next w hw => exact listsKept_ite (listsKept_setWork hw (discard_goesOn w)) (.refl s)

theorem listsKept_failFetch (r : RingId) (s : State) : ListsKept s (failFetch r s) := by
  unfold failFetch
  split
  · exact .refl s
  · next w hw =>
    have ended := listsKept_setWork hw (endFetch_goesOn w)
    have held : w.GoesOn { w.endFetch with fetchHeld := true } := ⟨rfl, rfl, rfl, fun h => { h.endFetch with }⟩
    split
    · exact .refl s
    · exact listsKept_ite ((ended.trans (listsKept_issueFetch r _)).trans (listsKept_settle _))
        (listsKept_ite (ended.trans (listsKept_settle _))
          ((((listsKept_setWork hw held).trans (listsKept_raiseFault _ _)).trans (listsKept_drainToDiscard r _)).trans
            (listsKept_settle _)))

/-! ## Takes -/

theorem unitTaken_watched (r : RingId) (w : WorkRing) (n : Nat) (s : State) :
    (unitTaken r w n s).watched = s.watched := by
  unfold unitTaken reserve
  split <;> rfl

theorem handToContext_watched (r : RingId) (ms : List Member) (s : State) :
    (handToContext r ms s).watched = s.watched := by
  unfold handToContext
  split
  · unfold beginStoreRead
    split
    · split <;> rfl
    · rfl
  · rfl

theorem unitTaken_inFlight (hw : s.rings.work[r] = some w) (n : Nat) (b : InFlightBounded s) :
    InFlightBounded (unitTaken r w n s) := by
  have set : InFlightBounded (s.setWork r (some (w.taken n))) :=
    (reaction_setWork r (s := s) (x := some (w.taken n)) (fun _ h => by rw [hw] at h; exact h)
      fun h => by rw [hw] at h; exact h).bounded b
  unfold unitTaken reserve
  split <;> exact set

theorem handToContext_inFlight {ms : List Member} (hw : s.rings.work[r] = some w)
    (room : w.outstanding.length + ms.length ≤ w.inFlightLimit) (b : InFlightBounded s) :
    InFlightBounded (handToContext r ms s) := fun n => by
  cases hc : lowestFree s with
  | none =>
    unfold handToContext
    rw [hw, hc]
    exact b n
  | some c =>
    obtain ⟨-, work, -⟩ := handToContext_lists hw hc ms
    rw [work]
    split
    · simpa [withinLimit] using room
    · exact b n

/-- The take of an eligible ring's unit. -/
theorem listsKept_takeFrom (h : eligible s r = true) : ListsKept s (takeFrom r s) := by
  obtain ⟨-, -, w, q, ps, hw, -, hu, hq, credit, room⟩ := (eligible_iff s r).1 h
  have takes : takeFrom r s =
      settle (carryOut r (judge r s.regions w.inFlightLimit ps) (unitTaken r w ps.length s)) := by
    unfold takeFrom
    rw [hw]
    dsimp only
    rw [hu]
    rfl
  rw [takes]
  refine (listsKept_settle _).after ?_
  have sound := fun h : RingsSound s => h.carryOut hw hu hq credit
  cases hj : judge r s.regions w.inFlightLimit ps with
  | answered posts faults =>
    rw [hj] at sound
    have posted := reaction_postUnit r posts (unitTaken r w ps.length s)
    have same := (postUnit_watched r posts _).trans (unitTaken_watched r w ps.length s)
    exact (listsKept_raiseFaults faults _).after ⟨notices_of_watched same,
      fun b => posted.bounded (unitTaken_inFlight hw _ b), sound, probes_of_watched same⟩
  | accepted ms =>
    rw [hj] at sound room
    have same := (handToContext_watched r ms _).trans (unitTaken_watched r w ps.length s)
    refine ⟨notices_of_watched same, fun b => ?_, sound, probes_of_watched same⟩
    obtain ⟨within, -⟩ := (unitMayGo_iff s w ps (.accepted ms)).1 room
    have work : (unitTaken r w ps.length s).rings.work[r] = some (w.taken ps.length) := by
      unfold unitTaken
      rw [reserve_eq (s := (s.setWork r _).setLastServed r) hq]
      exact (getElem_set_fin _ _ _ _).trans (if_pos rfl)
    have length : ms.length = ps.length := by
      rw [← List.length_map (f := Member.ringSlot), judge_accepted_slots hj, List.length_map]
    exact handToContext_inFlight work (length ▸ within) (unitTaken_inFlight hw _ b)

theorem listsKept_reloadCredits (s : State) : ListsKept s (reloadCredits s) := by
  refine RingsGoOn.lists ⟨fun r => ?_, fun _ => rel_refl .refl _, fun _ => .refl _⟩ rfl
  rw [reloadCredits_work]
  cases s.rings.work[r] with
  | none => exact .none
  | some w => exact .some ⟨rfl, rfl, rfl, fun h => { h with }⟩

theorem listsKept_takeUnit (k : UnitKind) (s : State) : ListsKept s (takeUnit k s) := by
  unfold takeUnit
  split
  · next r s1 h =>
    have chosen : ListsKept s s1 := by
      rcases arbitrate_state h with rfl | rfl
      · exact .refl _
      · exact listsKept_reloadCredits s
    exact listsKept_ite (chosen.trans (listsKept_event (listsKept_takeFrom (eligible_of_arbitrate h)))) (.refl s)
  · exact .refl s

/-! ## Contexts -/

theorem listsKept_grantHead (s : State) : ListsKept s (grantHead s) := by
  unfold grantHead
  split
  · exact .refl s
  · split
    · exact .refl s
    · exact listsKept_ite (listsKept_event ((listsKept_grant _ s).trans (listsKept_settle _))) (.refl s)

theorem listsKept_acceptStoreData (data : Vector Byte 32) (c : CtxId) (s : State) :
    ListsKept s (acceptStoreData data c s) := by
  unfold acceptStoreData
  split
  · exact .refl s
  · next x hc =>
    exact (listsKept_settle _).after (listsKept_setContext hc
      (x' := { x with storeRead := false, storeData := some (recordAt data.toList 0) }) rfl rfl)

theorem listsKept_failContexts (records : List Nat) (st : Status) (cs : List CtxId) (s : State) :
    ListsKept s (cs.foldl (fun acc c => failContext records st c acc) s) :=
  .foldl (fun s c => listsKept_failContext records st c s) cs s

theorem listsKept_failStoreRead (c : CtxId) (s : State) : ListsKept s (failStoreRead c s) := by
  unfold failStoreRead
  split
  · exact .refl s
  · next x hc =>
    have slots : x.hostFaulted.members.map Member.ringSlot = x.members.map Member.ringSlot := by
      unfold Context.hostFaulted
      rw [List.map_map]
      rfl
    have ended := (listsKept_setContext hc (x' := x.hostFaulted) rfl slots).trans (listsKept_endContext c _)
    refine (listsKept_settle _).after ?_
    split
    · exact ended.trans (listsKept_raiseFaults _ _)
    · exact (listsKept_raiseFaults _ _).after ((listsKept_freeSlot _ _).after (ended.trans (listsKept_failContexts _ _ _ _)))

theorem endWrite_slots (x : Context) (j : Nat) (finish : MemberOutcome → MemberOutcome) :
    (x.endWrite j finish).members.map Member.ringSlot = x.members.map Member.ringSlot := by
  refine List.ext_getElem? fun i => ?_
  simp only [Context.endWrite, List.getElem?_map, List.getElem?_modify]
  split
  · cases x.members[i]? <;> rfl
  · simp

theorem listsKept_endBuffer (finish : MemberOutcome → MemberOutcome) (c : CtxId) (j : Nat) (s : State) :
    ListsKept s (endBuffer finish c j s) := by
  unfold endBuffer
  split
  · exact .refl s
  · next x hc =>
    have set := listsKept_setContext hc (x' := x.endWrite j finish) rfl (endWrite_slots x j finish)
    exact listsKept_ite (set.trans (listsKept_endContext c _)) set

theorem listsKept_completeBuffer (cm : CtxId × Nat) (s : State) : ListsKept s (completeBuffer cm s) :=
  (listsKept_endBuffer _ _ _ s).trans (listsKept_settle _)

theorem listsKept_failBuffer (cm : CtxId × Nat) (s : State) : ListsKept s (failBuffer cm s) :=
  ((listsKept_endBuffer _ _ _ s).trans (listsKept_raiseFaults _ _)).trans (listsKept_settle _)

/-! ## Probes (R165 to R170) -/

/-- The probes watch what they watched, or ACTIVE regions. -/
theorem listsKept_setProbes {v : Vector Probe 4} (h : ProbesWatchActive s → ∀ (p : ProbeId) rg first last,
    (v[p]).watch = some (rg, first, last) →
      s.regions[rg].phase = .active ∧ first ≤ last ∧ last < s.regions[rg].count) : ListsKept s (s.setProbes v) :=
  ⟨id, id, (RingsGoOn.of_contexts (s := s) (t := s.setProbes v) rfl rfl fun _ => .refl _).sound,
    fun sound => ⟨h sound, sound.retiring⟩⟩

theorem listsKept_setProbe {p : ProbeId} {x : Probe} (h : ProbesWatchActive s → ∀ rg first last,
    x.watch = some (rg, first, last) →
      s.regions[rg].phase = .active ∧ first ≤ last ∧ last < s.regions[rg].count) : ListsKept s (s.setProbe p x) :=
  listsKept_setProbes (v := s.probes.set p x) fun sound n rg first last watched => by
    rw [getElem_set_fin] at watched
    split at watched
    · exact h sound rg first last watched
    · exact sound.watch n rg first last watched

theorem listsKept_disarm (p : ProbeId) (s : State) : ListsKept s (s.setProbe p .disarmed) :=
  listsKept_setProbe fun _ _ _ _ watched => by cases watched

theorem examined_watch (r : RingId) (vs : List Evaluated) (q : Probe) : (q.examined r vs).watch = q.watch := by
  unfold Probe.examined
  cases q with
  | disarmed => rfl
  | hit => rfl
  | armed rg first last =>
    dsimp only
    split <;> rfl

theorem listsKept_consultProbes (r : RingId) (vs : List Evaluated) (s : State) : ListsKept s (consultProbes r vs s) := by
  obtain ⟨probes, spec⟩ := consultProbes_spec r vs s
  rw [spec]
  refine ListsKept.trans (listsKept_setProbes fun sound p rg first last watched => ?_)
    (.foldl (fun _ _ => listsKept_raiseNotice _ _) _ _)
  rw [probes, examined_watch] at watched
  exact sound.watch p rg first last watched

/-! ## Commits -/

theorem listsKept_writeImage (x : Context) (record : Nat) (image : Record) (set : LaneSet) (s : State) :
    ListsKept s (writeImage x record image set s) := by
  unfold writeImage
  split
  · exact .refl s
  · split
    · exact .of_lists rfl
    · exact .refl s

theorem listsKept_applyMember (x : Context) (s : State) (v : Evaluated) : ListsKept s (applyMember x s v) := by
  unfold applyMember
  split
  · exact listsKept_writeImage ..
  · exact .refl s

theorem applyMembers_contexts (x : Context) (vs : List Evaluated) (s : State) :
    (vs.foldl (applyMember x) s).contexts = s.contexts :=
  List.foldlRecOn (motive := fun t : State => t.contexts = s.contexts) vs _ rfl fun t h v _ => by
    refine Eq.trans ?_ h
    unfold applyMember writeImage
    split
    · split
      · rfl
      · split <;> rfl
    · rfl

theorem consultProbes_contexts (r : RingId) (vs : List Evaluated) (s : State) :
    (consultProbes r vs s).contexts = s.contexts := by
  rw [(consultProbes_spec r vs s).2]
  exact List.foldlRecOn (motive := fun t : State => t.contexts = s.contexts) _ _ rfl
    fun _ h _ _ => (raiseNotice_contexts _ _).trans h

theorem listsKept_issueImages (c : CtxId) (j : Nat) (ms : List Member) (s : State) :
    ListsKept s (issueImages c j ms s) := by
  induction ms generalizing j s with
  | nil => exact .refl s
  | cons m rest ih =>
    refine ListsKept.trans ?_ (ih (j + 1) _)
    split
    · exact .of_lists rfl
    · exact .refl s

theorem listsKept_finishCommit {c : CtxId} {x : Context} {ms : List Member} (hc : s.contexts[c] = some x)
    (slots : ms.map Member.ringSlot = x.members.map Member.ringSlot) : ListsKept s (finishCommit c x ms s) := by
  have left : ListsKept s (leaveQueues c (s.setContext c (some (x.committed ms)))) :=
    (listsKept_setContext hc (x' := x.committed ms) rfl slots).trans (.of_lists rfl)
  exact (listsKept_settle _).after (listsKept_ite (left.trans (listsKept_endContext c _))
    (left.trans (listsKept_issueImages c 0 ms _)))

variable {c : CtxId} {x : Context} {vs : List Evaluated}

theorem listsKept_applyAll (hc : s.contexts[c] = some x) (members : vs.map Evaluated.member = x.members) :
    ListsKept s (applyAll c x vs s) := by
  have applied := (ListsKept.foldl (listsKept_applyMember x) vs s).trans (listsKept_consultProbes x.ring vs _)
  refine applied.trans (listsKept_finishCommit ?_ ?_)
  · rw [consultProbes_contexts, applyMembers_contexts]
    exact hc
  · rw [← members, List.map_map, List.map_map]
    rfl

theorem evaluateMembers_members (h : evaluateMembers s x = some vs) : vs.map Evaluated.member = x.members :=
  (mapM_evaluateMember h).1

theorem listsKept_commitUpdate (hc : s.contexts[c] = some x) : ListsKept s (commitUpdate c x s) := by
  unfold commitUpdate
  split
  · next vs hv => exact listsKept_applyAll hc (evaluateMembers_members hv)
  · exact .refl s

theorem listsKept_commitFetch (hc : s.contexts[c] = some x) : ListsKept s (commitFetch c x s) := by
  unfold commitFetch
  split
  · next vs hv =>
    refine listsKept_finishCommit hc ?_
    rw [← evaluateMembers_members hv, List.map_map, List.map_map]
    rfl
  · exact .refl s

theorem listsKept_commitBundle (hc : s.contexts[c] = some x) : ListsKept s (commitBundle c x s) := by
  unfold commitBundle
  split
  · next vs hv =>
    refine listsKept_ite (listsKept_applyAll hc (evaluateMembers_members hv)) (listsKept_finishCommit hc ?_)
    rw [← evaluateMembers_members hv, List.map_map, List.map_map]
    rfl
  · exact .refl s

theorem listsKept_commitStore (hc : s.contexts[c] = some x) : ListsKept s (commitStore c x s) := by
  unfold commitStore
  split
  · next m data hm _ =>
    obtain ⟨cache, image⟩ := storeImage_cache x m.source data s
    have stored : ListsKept s ((storeImage x m.source data s).setStore
        ((storeImage x m.source data s).store.removePoison m.source)) := by
      rw [image]
      exact .of_lists rfl
    refine stored.trans (listsKept_finishCommit ?_ (by rw [hm]; rfl))
    rw [image]
    exact hc
  · exact .refl s

theorem listsKept_commitOn {kind : Context → Bool} {effect : CtxId → Context → State → State}
    (h : ∀ {c x s}, s.contexts[(c : CtxId)] = some x → ListsKept s (effect c x s)) (c : CtxId) (s : State) :
    ListsKept s (commitOn kind effect c s) := by
  unfold commitOn
  split
  · exact .refl s
  · next x hc =>
    refine listsKept_ite (listsKept_event ?_) (.refl s)
    split
    · exact listsKept_raiseSettled _ s
    · exact h hc

/-! ## Expiries -/

theorem causeMessage_goesOn (q : ResultRing) : q.GoesOn { q with unsignalled := 0, firstUnsignalled := none } :=
  ⟨rfl, fun h => { h with }⟩

theorem listsKept_expireCoalescing (rr : RingId) (s : State) : ListsKept s (expireCoalescing rr s) := by
  unfold expireCoalescing
  split
  · exact .refl s
  · next q hq =>
    have set := listsKept_setResult hq (causeMessage_goesOn q)
    exact listsKept_ite (listsKept_ite (set.trans (.of_lists rfl)) set) (.refl s)

theorem listsKept_expireStall (rr : RingId) (s : State) : ListsKept s (expireStall rr s) := by
  unfold expireStall
  split
  · exact .refl s
  · next q hq =>
    exact listsKept_ite ((((listsKept_setResult hq (stall_goesOn _ q)).trans (listsKept_raiseFault _ _)).trans
      (listsKept_raiseNotice _ _)).trans (listsKept_settle _)) (.refl s)

/-! ## The ends of jobs -/

theorem listsKept_residentFill (k : SlotId) (y : Slot) (image : Record) (corrected : Bool) (s : State) :
    ListsKept s (residentFill k y image corrected s) := listsKept_ite (.of_lists rfl) (.of_lists rfl)

theorem listsKept_completeFill (k : SlotId) (n : Nat) (errors : Vector WordErrors 4) (s : State) :
    ListsKept s (completeFill k n errors s) := by
  have ended : ListsKept s (s.setStore (s.store.endFill k n errors)) := .of_lists rfl
  unfold completeFill
  dsimp only
  split
  · exact ended
  · have resident := fun y image corrected => ended.trans (listsKept_residentFill k y image corrected _)
    exact (listsKept_settle _).after
      (listsKept_ite (resident _ _ _) ((listsKept_raiseFault _ _).after (resident _ _ _)))

theorem listsKept_failFill (k : SlotId) (n : Nat) (errors : Vector WordErrors 4) (s : State) :
    ListsKept s (failFill k n errors s) := by
  unfold failFill
  dsimp only
  split
  · exact .of_lists rfl
  · exact (listsKept_settle _).after ((listsKept_raiseFaults _ _).after ((listsKept_failContexts _ _ _ _).after
      (.of_lists rfl)))

theorem listsKept_awaitedEnd (k : SlotId) (s : State) : ListsKept s (awaitedEnd k s) := by
  refine listsKept_ite ?_ (listsKept_unawait k s)
  split
  · exact listsKept_setProgress (by simp) s
  · exact .refl s

theorem listsKept_afterWriteBack (k : SlotId) (y : Slot) (content : Resident) (s : State) :
    ListsKept s (afterWriteBack k y content s) := by
  have ended := listsKept_awaitedEnd k s
  exact listsKept_ite (listsKept_ite (ended.trans (listsKept_freeSlot k _)) ended)
    (listsKept_ite (ended.trans (listsKept_startWriteBack k _)) ended)

theorem listsKept_completeWriteBack (k : SlotId) (n : Nat) (lanes : Record) (set : LaneSet) (s : State) :
    ListsKept s (completeWriteBack k n lanes set s) := by
  unfold completeWriteBack
  dsimp only
  split
  · exact .of_lists rfl
  · split
    · exact (listsKept_settle _).after ((listsKept_afterWriteBack _ _ _ _).after (.of_lists rfl))
    · exact .of_lists rfl

/-- A region that is not ACTIVE changes while no command retires a region. -/
theorem listsKept_setRegion {n : RegionId} {x : Region} (h : s.regions[n].phase ≠ .active ∨ x = s.regions[n])
    (fresh : RetiresNone s) : ListsKept s (s.setRegion n x) where
  notices := id
  inFlight := id
  rings := (RingsGoOn.of_contexts (s := s) (t := s.setRegion n x) rfl rfl fun _ => .refl _).sound
  probes sound :=
    { watch := fun p rg first last watched => by
        obtain ⟨active, within⟩ := sound.watch p rg first last watched
        have same : (s.setRegion n x).regions[rg] = s.regions[rg] := by
          rw [State.setRegion_regions, getElem_set_fin]
          split
          · next e =>
            subst e
            exact h.resolve_left (not_not.2 active)
          · rfl
        rw [same]
        exact ⟨active, within⟩
      retiring := fun rg m running => absurd ⟨m, running⟩ (fresh rg) }

theorem listsKept_finishDefine (s : State) : ListsKept s (finishDefine s) := by
  unfold finishDefine
  split
  · next rg running =>
    refine (listsKept_completeCommand _ _ _).after (listsKept_setRegion ?_ (retiresNone_of_progress running (by simp)))
    unfold Region.filled
    split
    · next filling => exact .inl (by rw [filling]; simp)
    · exact .inr rfl
  · exact .refl s

theorem listsKept_completeRegionFill (first last : Nat) (pattern : Record) (next : Nat) (s : State) :
    ListsKept s (completeRegionFill first last pattern next s) :=
  (listsKept_settle _).after ((listsKept_finishDefine _).after (.of_lists rfl))

theorem listsKept_stopRegionFill (pattern : Record) (next current : Nat) (s : State) :
    ListsKept s (stopRegionFill pattern next current s) := by
  refine ListsKept.after (listsKept_regions (s := s.setStore _) fun _ n => ?_) (.of_lists rfl)
  rw [getElem_map_fin]
  split
  · next filling => exact .inr ⟨by rw [filling]; simp, by simp [Region.cleared]⟩
  · exact .inl rfl

/-! ## Admin commands -/

theorem listsKept_haltAdmin (s : State) : ListsKept s (haltAdmin s) := by
  unfold haltAdmin
  split
  · exact .refl s
  · next a h =>
    have ended : ListsKept s (s.setAdminRings (some { a with command := .none, reserved := 0 })) :=
      listsKept_setAdminRings h (by rintro rg ⟨n, hr | hr⟩ <;> cases hr)
    exact ended.trans (.of_lists rfl)

theorem listsKept_failAdminRead (a : Unit) (s : State) : ListsKept s (failAdminRead a s) :=
  ((listsKept_haltAdmin s).trans (listsKept_postPending _)).trans (listsKept_raiseSettled _ _)

theorem listsKept_writeAdminBuffer (e : Entry) (body : List Byte) (value : BitVec 32) (s : State) :
    ListsKept s (writeAdminBuffer e body value s) := ListsKept.after (listsKept_setProgress (by simp) _) (.of_lists rfl)

/-- A result ring that does not exist is bound to no work ring. -/
theorem RingsSound.unbound (h : RingsSound s) (none : s.rings.results[rr] = none) (n : RingId) (w : WorkRing)
    (hw : s.rings.work[n] = some w) : w.boundTo ≠ rr := by
  obtain ⟨q, hq⟩ := h.results.bound n w hw
  rintro rfl
  exact absurd (none.symm.trans hq) (by simp)

theorem listsKept_setResultUnbound {o : Option ResultRing} (h : RingsSound s →
    (∀ n w, s.rings.work[(n : RingId)] = some w → w.boundTo ≠ rr) ∧ ∀ q, o = some q → q.CreditBounded) :
    ListsKept s (s.setResult rr o) :=
  ⟨id, id, fun sound => sound.setResult (h sound).1 (h sound).2, probes_of_watched rfl⟩

theorem listsKept_createResult (e : Entry) (s : State) : ListsKept s (createResult e s) := by
  unfold createResult
  split
  · exact listsKept_refuse _ s
  · next rr _ =>
    split
    · exact listsKept_refuse _ s
    · next valid =>
      split
      · exact listsKept_refuse _ s
      · next absent =>
        have bounded : (createdResult e).CreditBounded := createdResult_bounded (by simpa using valid)
        have created : ListsKept s (s.setResult rr (some (createdResult e))) :=
          listsKept_setResultUnbound fun sound => ⟨sound.unbound (Option.not_isSome_iff_eq_none.1 absent),
            fun q hq => Option.some.inj hq ▸ bounded⟩
        exact (listsKept_done _).after created

theorem listsKept_createWork (e : Entry) (s : State) : ListsKept s (createWork e s) := by
  unfold createWork
  split
  · next r rr _ _ =>
    split
    · exact listsKept_refuse _ s
    · next valid =>
      split
      · exact listsKept_refuse _ s
      · next absent =>
        split
        · exact listsKept_refuse _ s
        · next there =>
          obtain ⟨q, hq⟩ := Option.ne_none_iff_exists'.1 (mt Option.isNone_iff_eq_none.2 there)
          have created : ListsKept s (s.setWork r (some (createdWork e rr))) :=
            ⟨id, (reaction_setWork r (fun _ _ => rfl) fun _ => by simp [withinLimit, createdWork]).bounded,
              fun sound => sound.createWork (Option.not_isSome_iff_eq_none.1 absent)
                (createdWork_ordered (by simpa using valid) rr) rfl hq, probes_of_watched rfl⟩
          exact (listsKept_done _).after (created.trans (.of_lists rfl))
  · exact listsKept_refuse _ s

theorem deleting_goesOn (w : WorkRing) (mode : DeleteMode) : w.GoesOn (w.deleting mode) := by
  cases mode with
  | drain => exact phase_goesOn w _ _
  | discard => exact discard_goesOn w

theorem listsKept_deleteWork (e : Entry) (s : State) : ListsKept s (deleteWork e s) := by
  unfold deleteWork
  split
  · split
    · exact listsKept_refuse _ s
    · next w hw =>
      exact ((listsKept_setWork hw (deleting_goesOn w _)).trans (listsKept_setProgress (by simp) _)).trans
        (listsKept_deleteCheck _ _)
  · exact listsKept_refuse _ s

theorem unbound_of_notInUse (h : ¬resultInUse s rr = true) (n : RingId) (w : WorkRing)
    (hw : s.rings.work[n] = some w) : w.boundTo ≠ rr := by
  rintro rfl
  refine h (List.any_eq_true.2 ⟨n, List.mem_finRange n, ?_⟩)
  unfold boundTo
  rw [hw]
  exact beq_self_eq_true _

theorem listsKept_deleteResult (e : Entry) (s : State) : ListsKept s (deleteResult e s) := by
  unfold deleteResult
  split
  · exact listsKept_refuse _ s
  · split
    · exact listsKept_refuse _ s
    · split
      · exact listsKept_refuse _ s
      · next idle =>
        exact (listsKept_done _).after (listsKept_setResultUnbound fun _ => ⟨unbound_of_notInUse idle, by simp⟩)

theorem listsKept_pauseRing (e : Entry) (s : State) : ListsKept s (pauseRing e s) := by
  unfold pauseRing
  split
  · exact listsKept_refuse _ s
  · split
    · exact listsKept_refuse _ s
    · next w hw =>
      split
      · exact listsKept_refuse _ s
      · exact (listsKept_setWork hw (phase_goesOn w _ _)).trans (listsKept_done _)
      all_goals exact listsKept_done s

theorem listsKept_resumeRing (e : Entry) (s : State) : ListsKept s (resumeRing e s) := by
  unfold resumeRing
  split
  · exact listsKept_refuse _ s
  · split
    · exact listsKept_refuse _ s
    · next w hw =>
      have resumed := (listsKept_setWork hw (phase_goesOn w .active false)).trans (listsKept_done _)
      split
      · exact resumed
      · exact resumed
      all_goals exact listsKept_done s

theorem listsKept_defineRegion (e : Entry) (s : State) (fresh : RetiresNone s) : ListsKept s (defineRegion e s) := by
  unfold defineRegion
  split
  · next n rg _ _ =>
    refine listsKept_ite (listsKept_refuse _ s) ?_
    split
    · exact listsKept_refuse _ s
    · next undefined =>
      have inactive : s.regions[n].phase ≠ .active := by rw [not_not.1 undefined]; simp
      refine listsKept_ite (listsKept_refuse _ s) (listsKept_ite ?_ ?_)
      · exact (listsKept_setProgress (by simp) _).after
          ((listsKept_setRegion (.inl inactive) fresh).trans (.of_lists rfl))
      · exact (listsKept_done _).after (listsKept_setRegion (.inl inactive) fresh)
  · exact listsKept_refuse _ s

theorem watch_of_probeIn {p : Probe} {rg : RegionId} {first last : Nat} (h : p.watch = some (rg, first, last)) :
    probeIn rg p = true := by
  cases p <;> cases h <;> exact beq_self_eq_true _

theorem setProgress_eq (p : Progress) (s : State) :
    setProgress p s = { s with admin := (setProgress p s).admin } := by
  unfold setProgress
  split
  · split <;> rfl
  · rfl

theorem retires_setProgress {p : Progress} {rg : RegionId} (h : Retires (setProgress p s) rg) :
    ∃ n, p = .retireWait rg n ∨ p = .retireRelease rg n := by
  obtain ⟨n, running⟩ := h
  refine ⟨n, ?_⟩
  cases hp : runningProgress s with
  | some p' =>
    rw [runningProgress_setProgress hp] at running
    exact running.imp Option.some.inj Option.some.inj
  | none =>
    have still : runningProgress (setProgress p s) = none := by
      unfold setProgress
      split
      · next a ha =>
        split
        · next hc => simp [runningProgress, ha, hc] at hp
        · exact hp
      · exact hp
    rw [still] at running
    exact absurd running (by simp)

/-- A region whose retire begins is DRAINING, and no probe watches it any longer (R11, R171). -/
theorem listsKept_retireBegun (n : RegionId) (s : State) : ListsKept s (retireBegun n s) := by
  have eq : retireBegun n s = _ := setProgress_eq _ _
  have reacted : Reaction _ (retireBegun n s) := reaction_setProgress _ _
  have regions : ∀ m : RegionId, (retireBegun n s).regions[m] =
      if m = n then { s.regions[n] with phase := .draining } else s.regions[m] := fun m => by
    rw [eq]
    exact getElem_set_fin _ _ _ _
  have probes : ∀ p : ProbeId, (retireBegun n s).probes[p] = if probeIn n s.probes[p] then .disarmed else s.probes[p] :=
    fun p => by
      rw [eq]
      exact getElem_map_fin _ _ _
  have onward : RingsGoOn s (retireBegun n s) := by
    rw [eq]
    exact .of_contexts rfl rfl fun _ => .refl _
  refine ⟨fun proper => reacted.notices proper, onward.inFlight, onward.sound,
    fun sound => ⟨fun p rg first last watched => ?_, fun rg m running => ?_⟩⟩
  · rw [probes] at watched
    split at watched
    · cases watched
    · next out =>
      have other : rg ≠ n := fun e => out (e ▸ watch_of_probeIn watched)
      rw [regions, if_neg other]
      exact sound.watch p rg first last watched
  · obtain ⟨k, same | same⟩ := retires_setProgress ⟨m, running⟩
    · cases same
      rw [regions, if_pos rfl]
      simp
    · cases same

theorem listsKept_retireRegion (e : Entry) (s : State) : ListsKept s (retireRegion e s) := by
  unfold retireRegion
  split
  · exact listsKept_refuse _ s
  · next n _ =>
    exact listsKept_ite (listsKept_refuse _ s) ((listsKept_retireBegun n s).trans (listsKept_retireCheck _))

theorem listsKept_beginFlush (scope : Option RegionId) (s : State) : ListsKept s (beginFlush scope s) :=
  (listsKept_setProgress (by simp) s).trans (.foldl (fun s _ => listsKept_startWriteBack _ s) _ _)

theorem listsKept_flushRegion (e : Entry) (s : State) : ListsKept s (flushRegion e s) := by
  have flushed := fun scope => (listsKept_beginFlush scope s).trans (listsKept_flushCheck _)
  unfold flushRegion
  split
  · exact listsKept_refuse _ s
  · exact flushed _
  · exact listsKept_ite (listsKept_refuse _ s) (flushed _)

/-- A probe is armed on a range of an ACTIVE region (R166). -/
theorem listsKept_armProbe (e : Entry) (s : State) : ListsKept s (armProbe e s) := by
  unfold armProbe
  dsimp only
  split
  · split
    · exact listsKept_refuse _ s
    · next valid =>
      simp only [not_or, not_lt, not_not, not_le] at valid
      obtain ⟨order, active, within⟩ := valid
      refine listsKept_ite (listsKept_refuse _ s) ((listsKept_done _).after (listsKept_setProbe ?_))
      intro _ rg first last watched
      cases watched
      exact ⟨active, order, within⟩
  · exact listsKept_refuse _ s

theorem listsKept_disarmProbe (e : Entry) (s : State) : ListsKept s (disarmProbe e s) := by
  unfold disarmProbe
  split
  · exact listsKept_refuse _ s
  · next p _ =>
    split
    · exact (listsKept_finishCommand _ _ _).after (listsKept_disarm p s)
    all_goals exact (listsKept_done _).after (listsKept_disarm p s)

theorem listsKept_releaseLog (e : Entry) (s : State) : ListsKept s (releaseLog e s) :=
  listsKept_ite (listsKept_refuse _ s) ((listsKept_completeCommand _ _ _).after (.of_lists rfl))

theorem listsKept_setPolicy (e : Entry) (s : State) : ListsKept s (setPolicy e s) := by
  unfold setPolicy
  split
  · exact listsKept_ite (listsKept_completeCommand _ _ s) ((listsKept_completeCommand _ _ _).after (.of_lists rfl))
  · exact listsKept_completeCommand _ _ s

theorem listsKept_cleanNow (s : State) : ListsKept s (cleanNow s) :=
  .foldl (fun s k => listsKept_ite (listsKept_startWriteBack k s) (.refl s)) _ s

theorem listsKept_setCleaner (e : Entry) (s : State) : ListsKept s (setCleaner e s) :=
  listsKept_ite (listsKept_completeCommand _ _ s)
    ((listsKept_completeCommand _ _ _).after ((listsKept_cleanNow _).after (.of_lists rfl)))

/-! ## Every command -/

/-- The next state that a command answers, where it answers one, keeps the lists. -/
def AnswersKept (s : State) (o : Result) : Prop := ∀ t, o = .next t → ListsKept s t

theorem AnswersKept.next (h : ListsKept s t) : AnswersKept s (.next t) := fun u e => by
  cases e
  exact h

theorem AnswersKept.withinStore {n : Nat} (h : ListsKept s u) : AnswersKept s (withinStore s n u) := fun _ e =>
  (withinStore_next e).2 ▸ h

theorem answersKept_ite {c : Prop} [Decidable c] {o o' : Result} (h : AnswersKept s o) (h' : AnswersKept s o') :
    AnswersKept s (if c then o else o') := by
  split
  · exact h
  · exact h'

theorem answersKept_fillComplete (k : SlotId) (errors : Vector WordErrors 4) (s : State) :
    AnswersKept s (execFillComplete k errors s) := by
  unfold execFillComplete
  split
  · exact .next (.refl s)
  · exact answersKept_ite (.withinStore (listsKept_event (listsKept_completeFill k _ errors s))) (.next (.refl s))

theorem answersKept_fillUncorrectable (k : SlotId) (errors : Vector WordErrors 4) (s : State) :
    AnswersKept s (execFillUncorrectable k errors s) := by
  unfold execFillUncorrectable
  split
  · exact .next (.refl s)
  · exact answersKept_ite (.next (.refl s)) (.withinStore (listsKept_event (listsKept_failFill k _ errors s)))

theorem answersKept_writeBackComplete (k : SlotId) (s : State) : AnswersKept s (execWriteBackComplete k s) := by
  unfold execWriteBackComplete
  split
  · exact .next (.refl s)
  · exact .withinStore (listsKept_event (listsKept_completeWriteBack k _ _ _ s))

theorem answersKept_regionFillComplete (s : State) : AnswersKept s (execRegionFillComplete s) := by
  unfold execRegionFillComplete
  split
  · exact .next (.refl s)
  · exact answersKept_ite (.next (.refl s)) (.withinStore (listsKept_event (listsKept_completeRegionFill _ _ _ _ s)))

theorem answersKept_regionFillStopped (current : Nat) (s : State) :
    AnswersKept s (execRegionFillStopped current s) := by
  unfold execRegionFillStopped
  split
  · exact .next (.refl s)
  · exact answersKept_ite (.withinStore (listsKept_stopRegionFill _ _ current s)) (.next (.refl s))

/-- Every command keeps the lists and the sets within their bounds. -/
theorem answersKept_exec (c : Instr) (s : State) : AnswersKept s (exec c s) := by
  cases c with
  | powerOnReset sz1 sz0 => exact .next (listsKept_powerOn sz1 sz0 s)
  | powerOnReady => exact .next (listsKept_ite (.of_lists rfl) (.refl s))
  | linkReset => exact .next (listsKept_ite (listsKept_functionReset s) (.refl s))
  | reset enable msgEn =>
    exact .next (listsKept_ite ((listsKept_functionReset _).after (.of_lists rfl)) (.refl s))
  | resetEnd => exact .next (listsKept_ite (.of_lists rfl) (.refl s))
  | enable msgEn => exact .next (listsKept_registerWrite (listsKept_writeDevControl true msgEn s))
  | adminMsgEn msgEn => exact .next (listsKept_registerWrite (listsKept_writeDevControl false msgEn s))
  | registerWrite offset width v => exact .next (listsKept_registerWrite (listsKept_writeConfig offset width v s))
  | post r v => exact .next (listsKept_registerWrite (listsKept_writePost r v s))
  | adminPost v => exact .next (listsKept_registerWrite (listsKept_writeAdminPost v s))
  | release rr v => exact .next (listsKept_registerWrite (listsKept_writeRelease rr v s))
  | adminRelease v => exact .next (listsKept_registerWrite (listsKept_writeAdminRelease v s))
  | pendingNoticePost => exact .next (listsKept_event (listsKept_postPending s))
  | fetchReadIssue r => exact .next (listsKept_issueFetch r s)
  | fetchReadComplete xfer entries =>
    refine .next ?_
    split
    · next count => exact listsKept_fetchReadComplete xfer entries s count
    · exact .refl s
  | fetchReadFailure xfer => exact .next (listsKept_report listsKept_failFetch xfer s)
  | update | fetch | store | fence | nop | bundle | unknownOpcode => exact .next (listsKept_takeUnit _ s)
  | slotGrant => exact .next (listsKept_grantHead s)
  | storeReadComplete xfer data => exact .next (listsKept_readComplete (listsKept_acceptStoreData data) xfer s)
  | storeReadFailure xfer => exact .next (listsKept_report listsKept_failStoreRead xfer s)
  | fillComplete k errors => exact answersKept_fillComplete k errors s
  | fillUncorrectable k errors => exact answersKept_fillUncorrectable k errors s
  | updateCommit c => exact .next (listsKept_commitOn listsKept_commitUpdate c s)
  | fetchCommit c => exact .next (listsKept_commitOn listsKept_commitFetch c s)
  | storeCommit c => exact .next (listsKept_commitOn listsKept_commitStore c s)
  | bundleCommit c => exact .next (listsKept_commitOn listsKept_commitBundle c s)
  | hostBufferWriteComplete xfer => exact .next (listsKept_report listsKept_completeBuffer xfer s)
  | hostBufferWriteFailure xfer => exact .next (listsKept_report listsKept_failBuffer xfer s)
  | resultWriteFailure xfer => exact .next (listsKept_report (fun _ => listsKept_raiseSettled _) xfer s)
  | statusWriteComplete xfer =>
    exact .next (listsKept_report
      (fun (w : Fin 16 × Nat) s => (listsKept_endStatusWrite w.1 s).trans (listsKept_settle _)) xfer s)
  | statusWriteFailure xfer =>
    exact .next (listsKept_report
      (fun (w : Fin 16 × Nat) s => (listsKept_endStatusWrite w.1 s).trans (listsKept_raiseSettled _ _)) xfer s)
  | coalescingExpiry rr => exact .next (listsKept_event (listsKept_expireCoalescing rr s))
  | stallExpiry rr => exact .next (listsKept_event (listsKept_expireStall rr s))
  | cleanerExpiry k =>
    exact .next (listsKept_ite (listsKept_event ((listsKept_startWriteBack k s).trans (listsKept_settle _))) (.refl s))
  | writeBackComplete k => exact answersKept_writeBackComplete k s
  | regionFillComplete => exact answersKept_regionFillComplete s
  | regionFillStopped current => exact answersKept_regionFillStopped current s
  | adminReadIssue => exact .next (listsKept_event (listsKept_considerAdminRead s))
  | adminReadFailure xfer => exact .next (listsKept_report listsKept_failAdminRead xfer s)
  | invalidCommand xfer e => exact .next (listsKept_takeCommand (fun _ s _ => listsKept_refuse _ s) xfer e s)
  | identify xfer e => exact .next (listsKept_takeCommand (fun e s _ => listsKept_writeAdminBuffer e _ _ s) xfer e s)
  | createResultRing xfer e =>
    exact .next (listsKept_operatingCommand (fun e s _ => listsKept_createResult e s) xfer e s)
  | createWorkRing xfer e => exact .next (listsKept_operatingCommand (fun e s _ => listsKept_createWork e s) xfer e s)
  | deleteWorkRing xfer e => exact .next (listsKept_operatingCommand (fun e s _ => listsKept_deleteWork e s) xfer e s)
  | deleteResultRing xfer e =>
    exact .next (listsKept_operatingCommand (fun e s _ => listsKept_deleteResult e s) xfer e s)
  | pauseRing xfer e => exact .next (listsKept_operatingCommand (fun e s _ => listsKept_pauseRing e s) xfer e s)
  | resumeRing xfer e => exact .next (listsKept_operatingCommand (fun e s _ => listsKept_resumeRing e s) xfer e s)
  | defineRegion xfer e => exact .next (listsKept_operatingCommand listsKept_defineRegion xfer e s)
  | retireRegion xfer e => exact .next (listsKept_operatingCommand (fun e s _ => listsKept_retireRegion e s) xfer e s)
  | flushRegion xfer e => exact .next (listsKept_operatingCommand (fun e s _ => listsKept_flushRegion e s) xfer e s)
  | armProbe xfer e => exact .next (listsKept_operatingCommand (fun e s _ => listsKept_armProbe e s) xfer e s)
  | disarmProbe xfer e => exact .next (listsKept_operatingCommand (fun e s _ => listsKept_disarmProbe e s) xfer e s)
  | readFaultLog xfer e =>
    exact .next (listsKept_takeCommand (fun e s _ => listsKept_writeAdminBuffer e _ _ s) xfer e s)
  | releaseFaultLog xfer e => exact .next (listsKept_operatingCommand (fun e s _ => listsKept_releaseLog e s) xfer e s)
  | setFaultPolicy xfer e =>
    exact .next (listsKept_takeCommand (fun e s _ => listsKept_whileOperating _ (listsKept_setPolicy e s)) xfer e s)
  | listPoison xfer e => exact .next (listsKept_takeCommand (fun e s _ => listsKept_writeAdminBuffer e _ _ s) xfer e s)
  | setCleaner xfer e =>
    exact .next (listsKept_takeCommand (fun e s _ => listsKept_whileOperating _ (listsKept_setCleaner e s)) xfer e s)
  | adminBufferWriteComplete xfer =>
    exact .next (listsKept_report
      (fun _ s => (listsKept_completeCommand _ _ s).trans (listsKept_settle _)) xfer s)
  | adminBufferWriteFailure xfer =>
    exact .next (listsKept_report
      (fun _ s => (listsKept_completeCommand _ _ s).trans (listsKept_raiseSettled _ _)) xfer s)
  | adminResultWriteFailure xfer => exact .next (listsKept_report (fun _ => listsKept_raiseSettled _) xfer s)

/-- A microsecond changes nothing but the slots, the record store and the time. -/
theorem listsKept_tick (s : State) : ListsKept s (tick s) := by
  have upset : ListsKept s (applyUpset (Config.imageUpset s.now) s) := by
    unfold applyUpset
    split <;> exact .of_lists rfl
  have advanced : ∀ (pace : Nat) (u : State), ListsKept u (advanceRegionFill pace u) := fun pace u => by
    unfold advanceRegionFill
    split
    · exact .refl u
    · exact listsKept_ite (.refl u) (.of_lists rfl)
  exact (upset.trans (advanced _ _)).trans (.of_lists rfl)

/-- Every step keeps the lists and the sets within their bounds. -/
theorem listsKept_step (h : step s = .next t) : ListsKept s t := by
  rcases step_cases h with rfl | ⟨c, rest, -, hc⟩
  · exact listsKept_tick s
  · have popped : ListsKept s { s with pending := rest } := .of_lists rfl
    exact popped.trans (answersKept_exec c _ t hc)

/-- Settles O9: each of the four is kept by every operation of an event, and so by every command and by a tick. -/
theorem stepKeepsListsBounded : Obligations.StepKeepsListsBounded :=
  ⟨fun _ _ proper h => (listsKept_step h).notices proper, fun _ _ bounded h => (listsKept_step h).inFlight bounded,
    fun _ _ sound h => (listsKept_step h).rings sound, fun _ _ watched h => (listsKept_step h).probes watched⟩

end ListsStayBounded

end Sys2Proof.Machine

/-! # The ends of result, status block and admin result writes (R130, R141, R142, R161) -/

namespace Sys2Proof.Machine

section RingWrites

variable {s : State} {xfer : Nat}

/-- The report of an awaited transfer, where its handling is a fault and what follows it. -/
theorem report_of_awaits {α : Type} {kind : TransferKind → Option α} {k : TransferKind} {a : α}
    {handle : α → State → State} {u : State} {faults : List RaisedFault} (h : awaits s xfer k = true)
    (hk : kind k = some a) (handled : handle a (dropTransfer xfer s) = settle (raiseFaults faults u)) :
    event (onReport kind handle xfer) s = afterEvent s u faults := by
  unfold event
  rw [onReport_of_awaits handle h hk, handled]
  rfl

/-- The ring number that stands in the admin entries, by the ring (R183). -/
theorem ringOf_statusEntryOf (r : RingId) : AdminEntry.ringOf (statusEntryOf r).val = some r := by
  have h : 1 ≤ r.val + 1 ∧ r.val + 1 ≤ 15 := by omega
  exact dif_pos h

/-- The fault of a failed status block write (R142, R161). -/
theorem statusWriteFault_fields (e : Fin 16) (index : Nat) : (statusWriteFault e index).cls = .hostRingWrite ∧
    (e = 0 → (statusWriteFault e index).source = .adminRing) ∧
    ∀ r, e = statusEntryOf r → (statusWriteFault e index).source = .workRing r ∧
      (statusWriteFault e index).value = some (BitVec.ofNat 32 index) := by
  refine ⟨?_, ?_, ?_⟩
  · unfold statusWriteFault
    split <;> rfl
  · rintro rfl
    rfl
  · rintro r rfl
    unfold statusWriteFault
    rw [ringOf_statusEntryOf]
    exact ⟨rfl, rfl⟩

/-- The end of a status write that nothing waits behind, and of one that a write waits behind (R130, R142). -/
theorem endStatusWrite_idle {e : Fin 16} (h : s.rings.status[e] = .inFlight none) :
    endStatusWrite e s = s.setStatus e .idle := by
  unfold endStatusWrite
  rw [h]

theorem endStatusWrite_pending {e : Fin 16} {index : Nat} (h : s.rings.status[e] = .inFlight (some index)) :
    endStatusWrite e s = issueStatus e index s := by
  unfold endStatusWrite
  rw [h]

theorem issueStatus_status (e : Fin 16) (index : Nat) (s : State) :
    (issueStatus e index s).rings.status[e] = .inFlight none :=
  (getElem_set_fin _ _ _ _).trans (if_pos rfl)

/-- A failed write whose report is the fault and what follows it leaves the device FAILED. -/
theorem writeFailure_of_awaits {α : Type} {kind : TransferKind → Option α} {k : TransferKind} {a : α}
    {handle : α → State → State} {u : State} {f : RaisedFault} (h : awaits s xfer k = true) (hk : kind k = some a)
    (handled : handle a (dropTransfer xfer s) = settle (raiseFault f u)) (fixed : f.cls.fixed = true) :
    ∃ t, (Host.Outcome.next (event (onReport kind handle xfer) s) : Result) = .next t ∧ t = afterEvent s u [f] ∧
      t.faults.failed = true :=
  ⟨afterEvent s u [f], congrArg _ (report_of_awaits h hk handled), rfl, afterEvent_of_fixed fixed s u⟩

/-- Settles O57: each row is the report of the awaited write, and HOST_RING_WRITE is fixed at DEVICE_FATAL. -/
theorem ringWritesEnd : Obligations.RingWritesEnd := by
  refine ⟨fun s xfer rr slot serial awaited => ?_, fun s xfer slot serial awaited => ?_,
    fun s xfer e index awaited => ⟨?_, ?_, fun idle => ?_, fun next pending => ?_⟩⟩
  · rw [BitVec.ofNat_toNat]
    exact writeFailure_of_awaits awaited rfl rfl rfl
  · rw [BitVec.ofNat_toNat]
    exact writeFailure_of_awaits awaited rfl rfl rfl
  · exact congrArg Host.Outcome.next (report_of_awaits (faults := []) awaited rfl rfl)
  · obtain ⟨cls, admin, work⟩ := statusWriteFault_fields e index
    obtain ⟨t, ends, is, failed⟩ := writeFailure_of_awaits (kind := TransferKind.asStatus)
      (handle := fun w t => settle (raiseFault (statusWriteFault w.1 w.2) (endStatusWrite w.1 t))) awaited rfl rfl
      (by rw [cls]; rfl)
    exact ⟨statusWriteFault e index, t, ends, is, failed, cls, admin, work⟩
  · exact endStatusWrite_idle idle
  · rw [endStatusWrite_pending (s := dropTransfer xfer s) pending]
    exact ⟨issueStatus_status _ _ _, _, List.mem_append_right _ (List.mem_singleton_self _), rfl, rfl, rfl, rfl⟩

end RingWrites

end Sys2Proof.Machine

/-! # The handling of a raised fault (R132, R134, R172, R174, R175, R177) -/

namespace Sys2Proof.Machine

section FaultHandling

variable {s t u : State} {r n : RingId} {w : WorkRing} {f : RaisedFault}

/-! ## The seen-class set (R174) -/

theorem see_self (v : FaultUnit) (c : FaultClass) : (v.see c).seen.getLsbD c.index.val = true := by
  have bit : (BitVec.ofNat 13 (2 ^ c.index.val)).getLsbD c.index.val = true := by
    rw [BitVec.getLsbD_ofNat, Nat.testBit_two_pow_self, Bool.and_true]
    exact decide_eq_true c.index.isLt
  exact (BitVec.getLsbD_or).trans (by rw [bit, Bool.or_true])

/-- A class that is seen stays seen in a reaction. -/
theorem Reaction.seen_of_seen (h : Reaction s t) {i : Nat} (hi : s.faults.seen.getLsbD i = true) :
    t.faults.seen.getLsbD i = true := by
  rw [← h.seen, BitVec.getLsbD_or, hi, Bool.true_or]

theorem raiseFault_of_failed (h : s.faults.failed = true) (f : RaisedFault) : raiseFault f s = noteFault f s := if_pos h

theorem raiseFault_of_operating (h : s.faults.failed = false) (f : RaisedFault) :
    raiseFault f s = applySeverity f (captureFault f (noteFault f s)) := if_neg (by rw [h]; exact Bool.false_ne_true)

theorem raiseFault_seen (f : RaisedFault) (s : State) : (raiseFault f s).faults.seen.getLsbD f.cls.index.val = true := by
  have noted : (noteFault f s).faults.seen.getLsbD f.cls.index.val = true := see_self s.faults f.cls
  unfold raiseFault
  split
  · exact noted
  · exact ((reaction_captureFault f _).trans (reaction_applySeverity f _)).seen_of_seen noted

/-! ## The capture (R174) -/

theorem captureFault_of_masked (h : (s.faults.policy f.cls).masked = true) : captureFault f s = s := if_pos h

theorem captureFault_of_first (h : (s.faults.policy f.cls).masked = false) (none : s.faults.capture = none) :
    captureFault f s = raiseNotice .faultCaptured (s.setFaults { s.faults with capture := some f }) := by
  unfold captureFault
  rw [if_neg (by rw [h]; exact Bool.false_ne_true), none]

theorem captureFault_of_later (h : (s.faults.policy f.cls).masked = false) {g : RaisedFault}
    (captured : s.faults.capture = some g) : captureFault f s = s.setFaults { s.faults with later := true } := by
  unfold captureFault
  rw [if_neg (by rw [h]; exact Bool.false_ne_true), captured]

theorem raiseNotice_rings (n : Notice) (s : State) : (raiseNotice n s).rings = s.rings := by
  unfold raiseNotice
  split
  · exact postAdmin_rings _ _ s
  · rfl

theorem captureFault_rings (f : RaisedFault) (s : State) : (captureFault f s).rings = s.rings := by
  unfold captureFault
  split
  · rfl
  · split
    · exact raiseNotice_rings _ _
    · rfl

theorem captureFault_failed (f : RaisedFault) (s : State) : (captureFault f s).faults.failed = s.faults.failed := by
  unfold captureFault
  split
  · rfl
  · split
    · rw [raiseNotice_faults]
      rfl
    · rfl

/-! ## Halts (R132) -/

theorem writeStatus_status_other {e e' : Fin 16} (h : e' ≠ e) (index : Nat) (s : State) :
    (writeStatus e index s).rings.status[e'] = s.rings.status[e'] := by
  unfold writeStatus
  split <;> exact (getElem_set_fin _ _ _ _).trans (if_neg h)

/-- The end of a command writes entry 0 of the status block, which is no work ring's (R154, R158). -/
theorem completeCommand_status (st : AdminStatus) (value : BitVec 32) (s : State) (r : RingId) :
    (completeCommand st value s).rings.status[statusEntryOf r] = s.rings.status[statusEntryOf r] := by
  unfold completeCommand
  split
  · rfl
  · have other : statusEntryOf r ≠ 0 := fun e => absurd (congrArg Fin.val e) (Nat.succ_ne_zero _)
    unfold finishCommand
    rw [considerAdminRead_rings, writeStatus_status_other other, passCommand_rings, postAdmin_rings]

theorem completeDelete_status (r n : RingId) (s : State) :
    (completeDelete r s).rings.status[statusEntryOf n] = s.rings.status[statusEntryOf n] := by
  unfold completeDelete
  split
  · split
    · exact completeCommand_status _ _ s n
    · rfl
  · rfl

theorem deleteCheck_status (r n : RingId) (s : State) :
    (deleteCheck r s).rings.status[statusEntryOf n] = s.rings.status[statusEntryOf n] := by
  unfold deleteCheck
  split
  · rfl
  · dsimp only
    split
    · exact completeDelete_status r n _
    · rfl

theorem completeDelete_workAt (r n : RingId) (s : State) : (completeDelete r s).rings.work[n] = s.rings.work[n] := by
  simp only [completeDelete_work]

theorem deleteCheck_work_other (h : n ≠ r) (s : State) : (deleteCheck r s).rings.work[n] = s.rings.work[n] := by
  unfold deleteCheck
  split
  · rfl
  · dsimp only
    split
    · exact (completeDelete_workAt r n _).trans ((getElem_set_fin _ _ _ _).trans (if_neg h))
    · exact (getElem_set_fin _ _ _ _).trans (if_neg h)

theorem deleteCheck_faults (r : RingId) (s : State) : (deleteCheck r s).faults = s.faults := by
  unfold deleteCheck
  split
  · rfl
  · dsimp only
    split
    · exact completeDelete_faults r _
    · rfl

/-- Whether a ring that is DELETING in DISCARD mode is ABSENT after its check (R134). -/
theorem deleteCheck_work_discarding (hw : s.rings.work[r] = some w) (hp : w.phase = .deleting .discard) :
    (deleteCheck r s).rings.work[r] =
      if w.outstanding = [] ∧ w.fetchRead = none ∧ s.rings.status[statusEntryOf r] = .idle then none else some w := by
  have still : dropIncomplete w = w := if_neg fun h => by rw [hp] at h; cases h.1
  have ends : deletionOver w s.rings.status[statusEntryOf r] = true ↔
      w.outstanding = [] ∧ w.fetchRead = none ∧ s.rings.status[statusEntryOf r] = .idle := by
    simp [deletionOver, hp, and_assoc]
  unfold deleteCheck
  rw [hw]
  dsimp only
  rw [still]
  split
  · next ended =>
    rw [if_pos (ends.1 ended)]
    exact (completeDelete_workAt r r _).trans ((getElem_set_fin _ _ _ _).trans (if_pos rfl))
  · next waits =>
    rw [if_neg (mt ends.2 waits)]
    exact (getElem_set_fin _ _ _ _).trans (if_pos rfl)

theorem haltRing_faults (r : RingId) (s : State) : (haltRing r s).faults = s.faults := by
  unfold haltRing
  split
  · rfl
  · split
    · exact raiseNotice_faults _ _
    · exact raiseNotice_faults _ _
    · rw [deleteCheck_faults, raiseNotice_faults]
      rfl
    · rfl
    · rfl

theorem haltRing_status (r n : RingId) (s : State) :
    (haltRing r s).rings.status[statusEntryOf n] = s.rings.status[statusEntryOf n] := by
  unfold haltRing
  split
  · rfl
  · split
    · rw [raiseNotice_rings]
      rfl
    · rw [raiseNotice_rings]
      rfl
    · rw [deleteCheck_status, raiseNotice_rings]
      rfl
    · rfl
    · rfl

theorem haltRing_work_other (h : n ≠ r) (s : State) : (haltRing r s).rings.work[n] = s.rings.work[n] := by
  have set : ∀ x, (s.setWork r x).rings.work[n] = s.rings.work[n] := fun x => (getElem_set_fin _ _ _ _).trans (if_neg h)
  unfold haltRing
  split
  · rfl
  · split
    · rw [raiseNotice_rings]
      exact set _
    · rw [raiseNotice_rings]
      exact set _
    · rw [deleteCheck_work_other h, raiseNotice_rings]
      exact set _
    · rfl
    · rfl

/-- What a halt makes of a work ring, whose status write is as given. -/
structure RingHalted (w : WorkRing) (st : StatusWrite) (o : Option WorkRing) : Prop where
  halts : w.phase = .active ∨ w.phase = .paused → o = some { w with phase := .halted }
  drains : w.phase = .deleting .drain →
    (w.outstanding = [] → w.fetchRead = none → st = .idle → o = none) ∧
    (w.outstanding ≠ [] ∨ w.fetchRead ≠ none ∨ st ≠ .idle →
      o = some { w with phase := .deleting .discard, prefetch := [] })
  stays : w.phase = .halted ∨ w.phase = .deleting .discard → o = some w

theorem haltRing_work (hw : s.rings.work[r] = some w) :
    RingHalted w s.rings.status[statusEntryOf r] (haltRing r s).rings.work[r] := by
  have set : ∀ x, (s.setWork r x).rings.work[r] = x := fun x => (getElem_set_fin _ _ _ _).trans (if_pos rfl)
  unfold haltRing
  rw [hw]
  dsimp only
  split
  · next hp =>
    rw [raiseNotice_rings, set]
    exact ⟨fun _ => rfl, fun h => (by rw [hp] at h; cases h), fun h => (by rw [hp] at h; rcases h with h | h <;> cases h)⟩
  · next hp =>
    rw [raiseNotice_rings, set]
    exact ⟨fun _ => rfl, fun h => (by rw [hp] at h; cases h), fun h => (by rw [hp] at h; rcases h with h | h <;> cases h)⟩
  · next hp =>
    have discarding : (raiseNotice (.ringHalted r) (s.setWork r (some w.discard))).rings.work[r] = some w.discard := by
      rw [raiseNotice_rings, set]
    have status : (raiseNotice (.ringHalted r) (s.setWork r (some w.discard))).rings.status[statusEntryOf r] =
        s.rings.status[statusEntryOf r] := by
      rw [raiseNotice_rings]
      rfl
    rw [deleteCheck_work_discarding discarding rfl, status]
    refine ⟨fun h => (by rw [hp] at h; rcases h with h | h <;> cases h), fun _ => ⟨fun out read idle => if_pos ⟨out, read, idle⟩,
      fun waits => if_neg ?_⟩, fun h => (by rw [hp] at h; rcases h with h | h <;> cases h)⟩
    rintro ⟨out, read, idle⟩
    rcases waits with h | h | h
    · exact h out
    · exact h read
    · exact h idle
  · next hp =>
    rw [hw]
    exact ⟨fun h => (by rw [hp] at h; rcases h with h | h <;> cases h), fun h => (by rw [hp] at h; cases h), fun _ => rfl⟩
  · next hp =>
    rw [hw]
    exact ⟨fun h => (by rw [hp] at h; rcases h with h | h <;> cases h), fun h => (by rw [hp] at h; cases h), fun _ => rfl⟩

/-! ## Halts of several rings (R175) -/

theorem haltRings_faults (l : List RingId) (s : State) :
    (l.foldl (fun v r => haltRing r v) s).faults = s.faults :=
  List.foldlRecOn (motive := fun t : State => t.faults = s.faults) l _ rfl fun _ h r _ => (haltRing_faults r _).trans h

theorem haltRings_work_other (l : List RingId) (h : n ∉ l) (s : State) :
    (l.foldl (fun v r => haltRing r v) s).rings.work[n] = s.rings.work[n] :=
  List.foldlRecOn (motive := fun t : State => t.rings.work[n] = s.rings.work[n]) l _ rfl
    fun _ same r hr => (haltRing_work_other (ne_of_mem_of_not_mem hr h).symm _).trans same

theorem haltRings_work (l : List RingId) (distinct : l.Nodup) (hr : r ∈ l) (hw : s.rings.work[r] = some w) :
    RingHalted w s.rings.status[statusEntryOf r] (l.foldl (fun v r => haltRing r v) s).rings.work[r] := by
  induction l generalizing s with
  | nil => cases hr
  | cons a l ih =>
    obtain ⟨notIn, distinct⟩ := List.nodup_cons.1 distinct
    rw [List.foldl_cons]
    by_cases e : r = a
    · subst e
      rw [haltRings_work_other l notIn]
      exact haltRing_work hw
    · rw [← haltRing_status a r s]
      exact ih distinct ((List.mem_cons.1 hr).resolve_left e) ((haltRing_work_other e s).trans hw)

/-- The rings that a fault of a result ring halts are those bound to it when the fault is raised. -/
theorem haltBound_eq (rr : RingId) (s : State) :
    haltBound rr s = ((List.finRange 15).filter fun r => boundTo s rr r).foldl (fun v r => haltRing r v) s := by
  have bound : ∀ {v : State} {r : RingId}, v.rings.work[r] = s.rings.work[r] → boundTo v rr r = boundTo s rr r :=
    fun {v r} h => by unfold boundTo; rw [h]
  have halted : ∀ (l : List RingId) (v : State), l.Nodup → (∀ r ∈ l, v.rings.work[r] = s.rings.work[r]) →
      l.foldl (fun acc r => if boundTo acc rr r then haltRing r acc else acc) v =
        (l.filter fun r => boundTo s rr r).foldl (fun v r => haltRing r v) v := by
    intro l
    induction l with
    | nil => intro v _ _; rfl
    | cons a l ih =>
      intro v distinct same
      obtain ⟨notIn, distinct⟩ := List.nodup_cons.1 distinct
      have rest : ∀ r ∈ l, v.rings.work[r] = s.rings.work[r] := fun r hr => same r (List.mem_cons_of_mem a hr)
      rw [List.foldl_cons, bound (same a List.mem_cons_self)]
      by_cases h : boundTo s rr a = true
      · rw [if_pos h, List.filter_cons_of_pos h, List.foldl_cons]
        exact ih _ distinct fun r hr => (haltRing_work_other (ne_of_mem_of_not_mem hr notIn) v).trans (rest r hr)
      · rw [if_neg h, List.filter_cons_of_neg h]
        exact ih v distinct rest
  exact halted _ s (List.nodup_finRange 15) fun _ _ => rfl

theorem boundTo_iff (rr : RingId) (hw : s.rings.work[r] = some w) : boundTo s rr r = true ↔ w.boundTo = rr := by
  unfold boundTo
  rw [hw]
  exact beq_iff_eq

/-! ## Severities (R172, R175) -/

/-- A fault in FAILED joins the seen-class set and nothing else, and so the entry into FAILED keeps the later-faults
flag. -/
theorem later_releaseKeeps (b : Bool) : ReleaseKeeps noteFault fun s => s.faults.later = b where
  raised h _ _ _ _ _ := ⟨h, rfl, rfl⟩
  unawaited k h := by rw [unawait_faults]; exact h
  freed _ h := h
  issued h _ _ := h

theorem retireFinish_later (s : State) : (retireFinish s).faults = s.faults := by
  unfold retireFinish
  split
  · split
    · rfl
    · exact completeCommand_faults _ _ _
  · rfl

theorem enterFailed_later (s : State) : (enterFailed s).faults.later = s.faults.later := by
  rw [enterFailed_eq]
  have start : (failedBlocks s).faults.later = s.faults.later := by rw [failedBlocks_faults]
  generalize failedBlocks s = v at start ⊢
  unfold retireCheckWith
  split
  · split
    · exact start
    · rw [retireFinish_later]
      exact (releaseSlotsWith_spec (later_releaseKeeps _) _ (by rw [setProgress_faults]; exact start)).1
  · rw [retireFinish_later]
    exact start
  · exact start

theorem enterFailed_capture (s : State) : (enterFailed s).faults.capture = s.faults.capture :=
  (enterFailed_unclaimed s).capture

theorem applySeverity_advisory (h : s.faults.severity f.cls = .advisory) : applySeverity f s = s := by
  unfold applySeverity
  rw [h]

theorem applySeverity_deviceFatal (h : s.faults.severity f.cls = .deviceFatal) : applySeverity f s = enterFailed s := by
  unfold applySeverity
  rw [h]

theorem applySeverity_workRing (h : s.faults.severity f.cls = .ringFatal) (source : f.source = .workRing r) :
    applySeverity f s = haltRing r s := by
  unfold applySeverity
  rw [h, source]

theorem applySeverity_resultRing {rr : RingId} (h : s.faults.severity f.cls = .ringFatal)
    (source : f.source = .resultRing rr) : applySeverity f s = haltBound rr s := by
  unfold applySeverity
  rw [h, source]

theorem applySeverity_otherSource (h : s.faults.severity f.cls = .ringFatal)
    (source : f.source = .adminRing ∨ f.source = .store ∨ f.source = .none) : applySeverity f s = s := by
  unfold applySeverity
  rw [h]
  rcases source with e | e | e <;> rw [e]

/-- Only a DEVICE_FATAL fault changes the fault unit beyond the capture. -/
theorem applySeverity_faults (h : s.faults.severity f.cls ≠ .deviceFatal) : (applySeverity f s).faults = s.faults := by
  cases hs : s.faults.severity f.cls with
  | advisory => rw [applySeverity_advisory hs]
  | deviceFatal => exact absurd hs h
  | ringFatal =>
    cases source : f.source with
    | workRing r => rw [applySeverity_workRing hs source, haltRing_faults]
    | resultRing rr => rw [applySeverity_resultRing hs source, haltBound_eq, haltRings_faults]
    | adminRing => rw [applySeverity_otherSource hs (.inl source)]
    | store => rw [applySeverity_otherSource hs (.inr (.inl source))]
    | none => rw [applySeverity_otherSource hs (.inr (.inr source))]

theorem applySeverity_captured (f : RaisedFault) (s : State) : (applySeverity f s).faults.capture = s.faults.capture ∧
    (applySeverity f s).faults.later = s.faults.later := by
  by_cases h : s.faults.severity f.cls = .deviceFatal
  · rw [applySeverity_deviceFatal h]
    exact ⟨enterFailed_capture s, enterFailed_later s⟩
  · rw [applySeverity_faults h]
    exact ⟨rfl, rfl⟩

/-! ## The handling -/

theorem severity_of_policies (h : t.faults.policies = s.faults.policies) (c : FaultClass) :
    t.faults.severity c = s.faults.severity c := by
  unfold FaultUnit.severity FaultUnit.policy
  rw [h]

/-- The state in which the severity of a fault is applied: the class is seen and the fault captured or noted (R174). -/
def faultNoted (f : RaisedFault) (s : State) : State := captureFault f (noteFault f s)

theorem faultNoted_rings (f : RaisedFault) (s : State) : (faultNoted f s).rings = s.rings := captureFault_rings f _

theorem faultNoted_failed (f : RaisedFault) (s : State) : (faultNoted f s).faults.failed = s.faults.failed :=
  captureFault_failed f _

theorem faultNoted_severity (f : RaisedFault) (s : State) (c : FaultClass) :
    (faultNoted f s).faults.severity c = s.faults.severity c :=
  severity_of_policies (reaction_captureFault f (noteFault f s)).policies c

theorem raiseFault_capture (operating : s.faults.failed = false) (f : RaisedFault) :
    (raiseFault f s).faults.capture = (faultNoted f s).faults.capture ∧
      (raiseFault f s).faults.later = (faultNoted f s).faults.later := by
  rw [raiseFault_of_operating operating]
  exact applySeverity_captured f _

theorem faultNoted_of_masked (h : (s.faults.policy f.cls).masked = true) :
    faultNoted f s = s.setFaults (s.faults.see f.cls) := captureFault_of_masked (s := noteFault f s) h

theorem faultNoted_of_first (h : (s.faults.policy f.cls).masked = false) (none : s.faults.capture = none) :
    faultNoted f s = raiseNotice .faultCaptured (s.setFaults { s.faults.see f.cls with capture := some f }) :=
  captureFault_of_first (s := noteFault f s) h none

theorem faultNoted_of_later (h : (s.faults.policy f.cls).masked = false) (captured : s.faults.capture ≠ none) :
    faultNoted f s = s.setFaults { s.faults.see f.cls with later := true } := by
  obtain ⟨g, hg⟩ := Option.ne_none_iff_exists'.1 captured
  exact captureFault_of_later (s := noteFault f s) h hg

/-- What the severity of a fault makes of the state in which it is noted. -/
structure SeverityApplied (f : RaisedFault) (s u t : State) : Prop where
  advisory : s.faults.severity f.cls = .advisory → t = u
  deviceFatal : s.faults.severity f.cls = .deviceFatal → t = enterFailed u
  workRing : s.faults.severity f.cls = .ringFatal → ∀ r, f.source = .workRing r → t = haltRing r u
  resultRing : s.faults.severity f.cls = .ringFatal → ∀ rr, f.source = .resultRing rr →
    t = ((List.finRange 15).filter fun r => boundTo s rr r).foldl (fun v r => haltRing r v) u
  otherSource : s.faults.severity f.cls = .ringFatal →
    f.source = .adminRing ∨ f.source = .store ∨ f.source = .none → t = u

theorem raiseFault_severity (operating : s.faults.failed = false) (f : RaisedFault) :
    SeverityApplied f s (faultNoted f s) (raiseFault f s) := by
  have same := faultNoted_severity f s f.cls
  have rings := faultNoted_rings f s
  rw [raiseFault_of_operating operating]
  change SeverityApplied f s _ (applySeverity f (faultNoted f s))
  generalize faultNoted f s = u at same rings ⊢
  refine ⟨fun h => applySeverity_advisory (same.trans h), fun h => applySeverity_deviceFatal (same.trans h),
    fun h r source => applySeverity_workRing (same.trans h) source, fun h rr source => ?_,
    fun h source => applySeverity_otherSource (same.trans h) source⟩
  have bound : (fun r => boundTo u rr r) = fun r => boundTo s rr r := by
    unfold boundTo
    rw [rings]
  rw [applySeverity_resultRing (same.trans h) source, haltBound_eq, bound]

/-- Settles O28: the handling is the seen-class set, the capture and the severity, and a halt changes its own ring. -/
theorem faultHandled : Obligations.FaultHandled := by
  intro s f t halted haltedRing
  have halts : halted = fun v r => haltRing r v := by
    funext v r
    unfold haltRing
    dsimp only [halted]
    cases v.rings.work[r] with
    | none => rfl
    | some w =>
      dsimp only
      cases w.phase with
      | active => rfl
      | paused => rfl
      | halted => rfl
      | deleting mode => cases mode <;> rfl
  refine ⟨fun failed => raiseFault_of_failed failed f, raiseFault_seen f s,
    fun i _ hi => (reaction_raiseFault f s).seen_of_seen hi, fun operating => ?_⟩
  have applied : SeverityApplied f s (faultNoted f s) t := raiseFault_severity operating f
  obtain ⟨capture, later⟩ := raiseFault_capture operating f
  have rings := faultNoted_rings f s
  have haltedAll : ∀ {l : List RingId} {r : RingId}, l.Nodup → r ∈ l →
      t = l.foldl (fun v r => haltRing r v) (faultNoted f s) → haltedRing r := fun {l r} distinct hr is w hw => by
    have work : (faultNoted f s).rings.work[r] = some w := by rw [rings]; exact hw
    obtain ⟨stops, drains, stays⟩ := haltRings_work l distinct hr work
    rw [← is, rings] at *
    exact ⟨stops, drains, stays⟩
  have spared : ∀ {l : List RingId} {n : RingId}, n ∉ l →
      t = l.foldl (fun v r => haltRing r v) (faultNoted f s) → t.rings.work[n] = s.rings.work[n] := fun {l n} hn is => by
    rw [is, haltRings_work_other l hn, rings]
  have single : ∀ {r : RingId}, s.faults.severity f.cls = .ringFatal → f.source = .workRing r → haltedRing r :=
    fun {r} h source => haltedAll (List.nodup_singleton r) (List.mem_singleton_self r) (applied.workRing h r source)
  refine ⟨fun masked => ?_, fun unmasked first => ?_, fun unmasked g captured => ?_, fun h => ?_, fun h => ?_, fun h => ?_,
    fun h r w source hw runs => (single h source w hw).1 runs, faultNoted f s, faultNoted_of_masked,
    fun unmasked first => faultNoted_of_first unmasked first, fun unmasked later => faultNoted_of_later unmasked later,
    applied.advisory, applied.deviceFatal, fun h => ⟨fun r source => ⟨?_, single h source, fun n hn => ?_⟩,
      fun rr source => ⟨?_, fun r w hw bound => ?_, fun r w hw other => ?_⟩, applied.otherSource h⟩⟩
  · rw [capture, faultNoted_of_masked masked]
    rfl
  · rw [capture, faultNoted_of_first unmasked first, raiseNotice_faults]
    rfl
  · rw [capture, later, faultNoted_of_later unmasked (by rw [captured]; exact Option.some_ne_none g)]
    exact ⟨captured, rfl⟩
  · rw [applied.deviceFatal h]
    exact enterFailed_failed _
  · have unchanged : t.faults = (faultNoted f s).faults := by
      show (raiseFault f s).faults = _
      rw [raiseFault_of_operating operating]
      exact applySeverity_faults (by rw [show (captureFault f (noteFault f s)).faults.severity f.cls = _ from
        faultNoted_severity f s f.cls]; exact h)
    rw [unchanged, faultNoted_failed]
    exact operating
  · rw [applied.advisory h, rings]
  · rw [halts]
    exact applied.workRing h r source
  · exact spared (l := [r]) (fun e => hn (List.mem_singleton.1 e)) (applied.workRing h r source)
  · rw [halts]
    exact applied.resultRing h rr source
  · exact haltedAll ((List.nodup_finRange 15).filter _)
      (List.mem_filter.2 ⟨List.mem_finRange r, (boundTo_iff rr hw).2 bound⟩) (applied.resultRing h rr source)
  · refine (spared (fun e => other ?_) (applied.resultRing h rr source)).trans hw
    exact (boundTo_iff rr hw).1 (List.mem_filter.1 e).2

end FaultHandling

end Sys2Proof.Machine

/-! # POST and RELEASE (R122, R123, R125, R143, R146) -/

namespace Sys2Proof.Machine

section PostAndRelease

variable {s t u : State} {r rr : RingId} {w : WorkRing} {q : ResultRing} {v : BitVec 32}

/-- An event that issues no transfer causes no admin message. -/
theorem adminMessage_of_link (ordered : LinkOrdered s) (h : t.link = s.link) : adminMessage s.link.next t = t :=
  adminMessage_of_none fun x hx since => by
    obtain ⟨-, below⟩ := ordered
    rw [h] at hx
    exact absurd (below x hx) (not_lt.2 since)

/-- A register write that issues no transfer, while the part is operating. -/
theorem registerWrite_of_link {f : State → State} (operating : s.resetPhase = .operating) (ordered : LinkOrdered s)
    (h : (f s).link = s.link) : registerWrite f s = f s :=
  (if_pos operating).trans (adminMessage_of_link ordered h)

/-- A register write that raises a fault and has no other effect. -/
theorem registerWrite_of_fault {f : State → State} {g : RaisedFault} (operating : s.resetPhase = .operating)
    (h : f s = settle (raiseFault g s)) : registerWrite f s = afterEvent s s [g] := by
  unfold registerWrite event
  rw [if_pos operating, h]
  rfl

/-! ## The stall states after a write -/

theorem stallFollowed_eq (u : State) (rr : RingId) (q : ResultRing) :
    ∃ x, stallFollowed u rr q = { q with stall := x } ∧ (q.stall ≠ .expired → x ≠ .expired) := by
  cases hs : q.stall with
  | idle =>
    rw [stallFollowed_idle hs]
    split
    · exact ⟨_, rfl, by simp⟩
    · exact ⟨_, rfl, by simp [hs]⟩
  | timing start =>
    rw [stallFollowed_timing hs]
    split
    · exact ⟨_, rfl, by simp [hs]⟩
    · exact ⟨_, rfl, by simp⟩
  | expired =>
    rw [stallFollowed_expired hs]
    exact ⟨_, rfl, by simp⟩

theorem stallCheck_work (u : State) : (stallCheck u).rings.work = u.rings.work := by rw [stallCheck_eq]

theorem stallCheck_link (u : State) : (stallCheck u).link = u.link := by rw [stallCheck_eq]

/-- The check of the stall states leaves every other field of a result ring. -/
theorem stallCheck_results_stall (u : State) (n : RingId) :
    ((stallCheck u).rings.results[n]).map (fun q => { q with stall := .idle }) =
      (u.rings.results[n]).map fun q => { q with stall := .idle } := by
  rw [stallCheck_results]
  cases u.rings.results[n] with
  | none => rfl
  | some q =>
    obtain ⟨x, followed, -⟩ := stallFollowed_eq u n q
    simp only [Option.map_some, followed]

/-! ## POST -/

theorem exec_post (r : RingId) (v : BitVec 32) (s : State) :
    exec (.post r v) s = .next (registerWrite (writePost r v) s) := rfl

theorem posts_iff (ph : RingPhase) : ph.posts = true ↔ ∀ m, ph ≠ .deleting m := by
  cases ph with
  | deleting m => exact ⟨fun h => absurd h Bool.false_ne_true, fun h => absurd rfl (h m)⟩
  | _ => simp [RingPhase.posts]

theorem validPost_iff (w : WorkRing) (p : Nat) : w.validPost p = true ↔
    p < w.size ∧ ringGap w.size w.retire w.take ≤ ringGap w.size w.retire p := by
  simp [WorkRing.validPost]

theorem writePost_ignored (hw : s.rings.work[r] = some w) (deleting : ∃ m, w.phase = .deleting m) :
    writePost r v s = s := by
  unfold writePost
  rw [hw]
  dsimp only
  obtain ⟨m, hm⟩ := deleting
  rw [hm]
  rfl

theorem writePost_absent (hw : s.rings.work[r] = none) : writePost r v s = s := by
  unfold writePost
  rw [hw]

theorem writePost_eq (hw : s.rings.work[r] = some w) (posts : ∀ m, w.phase ≠ .deleting m) : writePost r v s =
    if w.validPost v.toNat = true then stallCheck (s.setWork r (some (w.posted v.toNat)))
    else settle (raiseFault (protocolFault (.workRing r) v) s) := by
  unfold writePost
  rw [hw]
  dsimp only
  rw [(posts_iff _).2 posts]
  rfl

/-- A ring after a valid post (R122, R123, R125). -/
theorem posted_fields (w : WorkRing) (p : Nat) :
    w.posted p = { w with
      post := p, fetchHeld := false, prefetch := (w.posted p).prefetch, fetch := (w.posted p).fetch
      fetchStale := (w.posted p).fetchStale } ∧
    if ringGap w.size w.retire p < ringGap w.size w.retire w.post then
      (w.posted p).prefetch = w.prefetch.take (ringGap w.size w.take p) ∧
        (w.posted p).fetch = (if ringGap w.size w.retire p < ringGap w.size w.retire w.fetch then p else w.fetch) ∧
        (w.posted p).fetchStale = (w.fetchStale || w.fetchRead.isSome)
    else (w.posted p).prefetch = w.prefetch ∧ (w.posted p).fetch = w.fetch ∧ (w.posted p).fetchStale = w.fetchStale := by
  unfold WorkRing.posted WorkRing.withdraws
  by_cases back : ringGap w.size w.retire p < ringGap w.size w.retire w.post
  · rw [if_pos back, if_pos (decide_eq_true back)]
    exact ⟨rfl, rfl, rfl, rfl⟩
  · rw [if_neg back, if_neg (by simpa using back)]
    exact ⟨rfl, rfl, rfl, rfl⟩

/-! ## RELEASE -/

theorem validRelease_iff (q : ResultRing) (n : Nat) : q.validRelease n = true ↔
    n < q.size ∧ ringGap q.size q.release n ≤ ringGap q.size q.release q.produce := by
  simp [ResultRing.validRelease]

theorem exec_release (rr : RingId) (v : BitVec 32) (s : State) :
    exec (.release rr v) s = .next (registerWrite (writeRelease rr v) s) := rfl

theorem writeRelease_absent (hq : s.rings.results[rr] = none) : writeRelease rr v s = s := by
  unfold writeRelease
  rw [hq]

theorem writeRelease_eq (hq : s.rings.results[rr] = some q) : writeRelease rr v s =
    if q.validRelease v.toNat = true then stallCheck (s.setResult rr (some (q.released v.toNat)))
    else settle (raiseFault (protocolFault (.resultRing rr) v) s) := by
  unfold writeRelease
  rw [hq]

/-- A release that raises the credit leaves no stall EXPIRED (R146). -/
theorem released_stall {n : Nat} (h : 0 < ringGap q.size q.release n) : (q.released n).stall ≠ .expired := by
  unfold ResultRing.released
  dsimp only
  split
  · simp
  · next rest => exact fun e => rest ⟨e, h⟩

/-- Settles O36: a write is ignored, raises the fault, or changes its ring, after which only stall states follow. -/
theorem postAndReleaseWrites : Obligations.PostAndReleaseWrites := by
  refine ⟨fun r v s operating ordered => ⟨fun absent => ?_, fun w hw => ⟨fun deleting => ?_, fun posts invalid => ?_,
    fun posts below ahead => ?_⟩⟩, fun rr v s operating ordered => ⟨fun absent => ?_, fun q hq => ⟨fun invalid => ?_,
    fun below behind => ?_⟩⟩⟩
  · have same : writePost r v s = s := writePost_absent absent
    exact congrArg Host.Outcome.next ((registerWrite_of_link operating ordered (by rw [same])).trans same)
  · have same : writePost r v s = s := writePost_ignored hw deleting
    exact congrArg Host.Outcome.next ((registerWrite_of_link operating ordered (by rw [same])).trans same)
  · have refused : ¬w.validPost v.toNat = true := fun valid => by
      obtain ⟨below, ahead⟩ := (validPost_iff w _).1 valid
      rcases invalid with h | h
      · exact absurd below (not_lt.2 h)
      · exact absurd ahead (not_le.2 h)
    rw [exec_post, registerWrite_of_fault operating ((writePost_eq hw posts).trans (if_neg refused))]
    rfl
  · have effect := (writePost_eq hw posts).trans (if_pos ((validPost_iff w v.toNat).2 ⟨below, ahead⟩))
    have work : ∀ n : RingId, (stallCheck (s.setWork r (some (w.posted v.toNat)))).rings.work[n] =
        if n = r then some (w.posted v.toNat) else s.rings.work[n] := fun n => by
      simp only [stallCheck_work]
      exact getElem_set_fin _ _ _ _
    obtain ⟨fields, withdrawn⟩ := posted_fields w v.toNat
    have linked : (writePost r v s).link = s.link := by
      rw [effect, stallCheck_link]
      rfl
    have written : exec (.post r v) s = .next (stallCheck (s.setWork r (some (w.posted v.toNat)))) := by
      rw [exec_post, registerWrite_of_link operating ordered linked, effect]
    have stalls := stallCheck_results_stall (s.setWork r (some (w.posted v.toNat)))
    have rings := stallCheck_eq (s.setWork r (some (w.posted v.toNat)))
    have sameWork := stallCheck_work (s.setWork r (some (w.posted v.toNat)))
    generalize stallCheck (s.setWork r (some (w.posted v.toNat))) = t at written work stalls rings sameWork
    refine ⟨t, w.posted v.toNat, written, (work r).trans (if_pos rfl), fields, withdrawn,
      fun n hn => (work n).trans (if_neg hn), stalls, ?_⟩
    rw [sameWork]
    exact rings
  · have same : writeRelease rr v s = s := writeRelease_absent absent
    exact congrArg Host.Outcome.next ((registerWrite_of_link operating ordered (by rw [same])).trans same)
  · have refused : ¬q.validRelease v.toNat = true := fun valid => by
      obtain ⟨below, behind⟩ := (validRelease_iff q _).1 valid
      rcases invalid with h | h
      · exact absurd below (not_lt.2 h)
      · exact absurd behind (not_le.2 h)
    rw [exec_release, registerWrite_of_fault operating ((writeRelease_eq hq).trans (if_neg refused))]
    rfl
  · have effect := (writeRelease_eq hq).trans (if_pos ((validRelease_iff q v.toNat).2 ⟨below, behind⟩))
    obtain ⟨x, followed, kept⟩ := stallFollowed_eq (s.setResult rr (some (q.released v.toNat))) rr (q.released v.toNat)
    have results : ∀ n : RingId, (s.setResult rr (some (q.released v.toNat))).rings.results[n] =
        if n = rr then some (q.released v.toNat) else s.rings.results[n] := fun n => getElem_set_fin _ _ _ _
    have linked : (writeRelease rr v s).link = s.link := by
      rw [effect, stallCheck_link]
      rfl
    have written : exec (.release rr v) s = .next (stallCheck (s.setResult rr (some (q.released v.toNat)))) := by
      rw [exec_release, registerWrite_of_link operating ordered linked, effect]
    have own : (stallCheck (s.setResult rr (some (q.released v.toNat)))).rings.results[rr] =
        some { q.released v.toNat with stall := x } := by
      rw [stallCheck_results, results, if_pos rfl, ← followed]
      rfl
    have others : ∀ n : RingId, n ≠ rr →
        ((stallCheck (s.setResult rr (some (q.released v.toNat)))).rings.results[n]).map
            (fun q => { q with stall := .idle }) =
          (s.rings.results[n]).map fun q => { q with stall := .idle } := fun n hn => by
      rw [stallCheck_results_stall, results, if_neg hn]
    have rings := stallCheck_eq (s.setResult rr (some (q.released v.toNat)))
    generalize stallCheck (s.setResult rr (some (q.released v.toNat))) = t at written own others rings
    exact ⟨t, { q.released v.toNat with stall := x }, written, own, rfl, fun raises => kept (released_stall raises),
      others, rings⟩

end PostAndRelease

end Sys2Proof.Machine

/-! # The fetch reads of a work ring (R120, R123, R124, R125, R134) -/

namespace Sys2Proof.Machine

section FetchReadEnds

variable {s : State} {r : RingId} {w : WorkRing} {f : FetchRead} {xfer : Nat} {entries : List Entry}

theorem exec_fetchReadIssue (r : RingId) (s : State) : exec (.fetchReadIssue r) s = .next (issueFetch r s) := rfl

/-- R124: the conditions of a fetch read. -/
theorem canFetch_iff : canFetch s w = true ↔
    ((w.phase = .active ∨ w.phase = .deleting .drain) ∧ s.faults.failed = false ∧ w.fetchRead = none ∧
      w.fetchHeld = false ∧ w.fetch ≠ w.post) ∧ 0 < w.fetchCount := by
  simp [canFetch, runs_iff, and_assoc]

theorem issueFetch_of_can (hw : s.rings.work[r] = some w) (can : canFetch s w = true) : issueFetch r s =
    (issueRead (.fetchRead r) (itemAddr w.base 128 w.fetch) (128 * w.fetchCount) s).setWork r
      (some { w with fetchRead := some { first := w.fetch, count := w.fetchCount } }) := by
  unfold issueFetch
  rw [hw]
  exact if_pos can

theorem issueFetch_of_cannot (hw : s.rings.work[r] = some w) (cannot : ¬canFetch s w = true) : issueFetch r s = s := by
  unfold issueFetch
  rw [hw]
  exact if_neg cannot

/-! ## The completion -/

/-- The read that the ring waits for brings as many entries as its ring asked for. -/
theorem fetchCountIs_of_awaits (awaited : awaits s xfer (.fetchRead r) = true) (hw : s.rings.work[r] = some w)
    (hf : w.fetchRead = some f) (count : f.count = entries.length) : fetchCountIs xfer entries.length s = true := by
  unfold awaits at awaited
  unfold fetchCountIs
  cases found : findTransfer xfer s with
  | none => rw [found] at awaited; cases awaited
  | some x =>
    rw [found] at awaited
    obtain ⟨kind, -⟩ := Bool.and_eq_true_iff.1 awaited
    have asked : ((x.kind.asFetchRead.bind fun r => s.rings.work[r]).bind WorkRing.fetchRead) = some f := by
      rw [beq_iff_eq.1 kind]
      exact (congrArg (Option.bind · WorkRing.fetchRead) hw).trans hf
    dsimp only
    rw [asked, Option.all_some, beq_iff_eq.2 count, Bool.or_true]

theorem exec_fetchReadComplete (awaited : readAwaits s xfer (.fetchRead r) = true) (hw : s.rings.work[r] = some w)
    (hf : w.fetchRead = some f) (count : f.count = entries.length) : exec (.fetchReadComplete xfer entries) s =
      .next (adminMessage s.link.next (completeFetch entries r (dropTransfer xfer s))) := by
  obtain ⟨waiting, -⟩ := Bool.and_eq_true_iff.1 awaited
  show Host.Outcome.next (ite _ _ _) = _
  rw [if_pos (fetchCountIs_of_awaits waiting hw hf count)]
  unfold event
  rw [onReadComplete_of_awaits (completeFetch entries) awaited rfl]

theorem completeFetch_eq (hw : s.rings.work[r] = some w) (hf : w.fetchRead = some f) : completeFetch entries r s =
    settle (issueFetch r (s.setWork r
      (some (if w.fetchStale = true ∨ w.phase = .deleting .discard then w.endFetch else w.append entries)))) := by
  unfold completeFetch
  rw [hw]
  dsimp only
  rw [hf]
  simp only [Bool.or_eq_true, beq_iff_eq]

/-! ## The failure -/

theorem exec_fetchReadFailure (awaited : awaits s xfer (.fetchRead r) = true) : exec (.fetchReadFailure xfer) s =
    .next (adminMessage s.link.next (failFetch r (dropTransfer xfer s))) :=
  congrArg (fun u => Host.Outcome.next (adminMessage s.link.next u)) (onReport_of_awaits failFetch awaited rfl)

theorem failFetch_eq (hw : s.rings.work[r] = some w) (hf : w.fetchRead = some f) : failFetch r s =
    if w.fetchStale = true then settle (issueFetch r (s.setWork r (some w.endFetch)))
    else if w.phase = .deleting .discard then settle (s.setWork r (some w.endFetch))
    else settle (drainToDiscard r
      (raiseFault (fetchFault r f) (s.setWork r (some { w.endFetch with fetchHeld := true })))) := by
  unfold failFetch
  rw [hw]
  dsimp only
  rw [hf]

/-- Settles O47: the issue by its conditions, both ends of the read by the stale flag and the ring's phase. -/
theorem fetchReads : Obligations.FetchReads := by
  refine ⟨fun s r w hw => ⟨fun may some => ?_, fun cannot => ?_⟩, fun s r w f xfer entries awaited hw hf count => ?_,
    fun s r w f xfer awaited hw hf => ?_⟩
  · rw [exec_fetchReadIssue, issueFetch_of_can hw (canFetch_iff.2 ⟨may, some⟩)]
    rfl
  · have refused : ¬canFetch s w = true := fun can => by
      obtain ⟨may, count⟩ := canFetch_iff.1 can
      exact cannot.elim (fun h => h may) fun h => absurd h count.ne'
    rw [exec_fetchReadIssue, issueFetch_of_cannot hw refused]
  · rw [exec_fetchReadComplete awaited hw hf count, completeFetch_eq (s := dropTransfer xfer s) hw hf]
    rfl
  · rw [exec_fetchReadFailure awaited, failFetch_eq (s := dropTransfer xfer s) hw hf]
    refine ⟨fun stale => ?_, fun fresh discarding => ?_, fun fresh other => ?_⟩
    · rw [if_pos stale]
      rfl
    · rw [if_neg (by simp [fresh]), if_pos discarding]
      rfl
    · rw [if_neg (by simp [fresh]), if_neg other]
      rfl

end FetchReadEnds

end Sys2Proof.Machine

/-! # CREATE_RESULT_RING and CREATE_WORK_RING (R121, R137, R155) -/

namespace Sys2Proof.Machine

section RingsAreCreated

variable {s u : State} {r rr : RingId} {xfer n : Nat} {e : Entry}

/-! ## The take of a ring command -/

/-- A ring number that a parameter carries names one ring (R183). -/
theorem ringOf_eq_some : AdminEntry.ringOf n = some r ↔ ringNumber r = n := by
  unfold AdminEntry.ringOf ringNumber
  split
  · next h =>
    rw [Option.some_inj, Fin.ext_iff]
    dsimp only
    omega
  · next h =>
    have range := r.isLt
    simp only [reduceCtorEq, false_iff]
    omega

theorem ringOf_eq_none : AdminEntry.ringOf n = none ↔ ¬(1 ≤ n ∧ n ≤ 15) := by
  unfold AdminEntry.ringOf
  split
  · next h => simp [h]
  · next h => simp [h]

theorem exists_ringOf (h : 1 ≤ n ∧ n ≤ 15) : ∃ r, AdminEntry.ringOf n = some r :=
  Option.ne_none_iff_exists'.1 fun e => ringOf_eq_none.1 e h

theorem commandTaken_rings (h : commandArrives s xfer = true) (e : Entry) : (commandTaken xfer e s).rings = s.rings := by
  obtain ⟨a, link, taken⟩ := commandTaken_of_arrives h e
  rw [taken]
  rfl

/-- A command that arrives in FAILED completes DEVICE_FAILED (R154). -/
theorem takeCommand_of_failed {row : Nat → Bool} (run : Entry → State → State) (h : commandArrives s xfer = true)
    (hr : row (entryField e 0x00 1) = true) (failed : s.faults.failed = true) :
    Host.Outcome.next (takeCommand row (fun e => whileOperating 0 (run e)) xfer e s) =
      commandEnds s (commandTaken xfer e s) .deviceFailed 0 :=
  (takeCommand_region run h hr).trans (if_pos failed)

/-- A command that arrives while the device operates is run (R154). -/
theorem takeCommand_of_operating {row : Nat → Bool} (run : Entry → State → State) (h : commandArrives s xfer = true)
    (hr : row (entryField e 0x00 1) = true) (operating : s.faults.failed = false) :
    Host.Outcome.next (takeCommand row (fun e => whileOperating 0 (run e)) xfer e s) =
      (.next (afterEvent s (run e (commandTaken xfer e s)) []) : Result) :=
  (takeCommand_region run h hr).trans (if_neg (by simp [operating]))

/-! ## The checks and the effects -/

theorem validRingSize_iff (n : Nat) :
    validRingSize n = true ↔ n ∈ [16, 32, 64, 128, 256, 512, 1024, 2048, 4096] := List.contains_iff_mem

theorem validResultParams_iff (e : Entry) : validResultParams e = true ↔
    (entryAddr e 0x08).toNat % 16 = 0 ∧ entryField e 0x10 4 ∈ [16, 32, 64, 128, 256, 512, 1024, 2048, 4096] ∧
      1 ≤ entryField e 0x14 4 ∧ entryField e 0x14 4 ≤ 255 ∧ entryField e 0x18 4 ≤ 1000 ∧
      entryField e 0x1C 4 ≤ 1000 ∧ entryField e 0x20 4 ≤ 1 := by
  simp only [validResultParams, Bool.and_eq_true, beq_iff_eq, decide_eq_true_eq, validRingSize_iff, and_assoc]
  exact Iff.rfl

theorem validWorkParams_iff (e : Entry) : validWorkParams e = true ↔
    (entryAddr e 0x08).toNat % 128 = 0 ∧ entryField e 0x10 4 ∈ [16, 32, 64, 128, 256, 512, 1024, 2048, 4096] ∧
      1 ≤ entryField e 0x18 4 ∧ entryField e 0x18 4 ≤ 8 ∧ 1 ≤ entryField e 0x1C 4 ∧ entryField e 0x1C 4 ≤ 16 := by
  simp only [validWorkParams, Bool.and_eq_true, beq_iff_eq, decide_eq_true_eq, validRingSize_iff, and_assoc]
  exact Iff.rfl

theorem createResult_of_invalid (h : (1 ≤ entryField e 0x04 4 ∧ entryField e 0x04 4 ≤ 15) → ¬validResultParams e = true) :
    createResult e u = refuse .invalidParameter u := by
  unfold createResult
  by_cases named : 1 ≤ entryField e 0x04 4 ∧ entryField e 0x04 4 ≤ 15
  · obtain ⟨rr, number⟩ : ∃ rr, AdminEntry.ringOf (AdminEntry.w0 e) = some rr := exists_ringOf named
    rw [number]
    exact if_pos (by simpa using h named)
  · rw [show AdminEntry.ringOf (AdminEntry.w0 e) = none from ringOf_eq_none.2 named]

theorem createResult_of_valid (number : ringNumber rr = entryField e 0x04 4) (valid : validResultParams e = true) :
    createResult e u = if (u.rings.results[rr]).isSome = true then refuse .ringBusy u
      else done (u.setResult rr (some (createdResult e))) := by
  have named : AdminEntry.ringOf (AdminEntry.w0 e) = some rr := ringOf_eq_some.2 number
  unfold createResult
  rw [named]
  exact if_neg (by simp [valid])

theorem createWork_of_invalid (h : (1 ≤ entryField e 0x04 4 ∧ entryField e 0x04 4 ≤ 15) →
      (1 ≤ entryField e 0x14 4 ∧ entryField e 0x14 4 ≤ 15) → ¬validWorkParams e = true) :
    createWork e u = refuse .invalidParameter u := by
  unfold createWork
  by_cases work : 1 ≤ entryField e 0x04 4 ∧ entryField e 0x04 4 ≤ 15
  · obtain ⟨r, number⟩ : ∃ r, AdminEntry.ringOf (AdminEntry.w0 e) = some r := exists_ringOf work
    rw [number]
    by_cases result : 1 ≤ entryField e 0x14 4 ∧ entryField e 0x14 4 ≤ 15
    · obtain ⟨rr, bound⟩ : ∃ rr, AdminEntry.ringOf (AdminEntry.w2 e) = some rr := exists_ringOf result
      rw [bound]
      exact if_pos (by simpa using h work result)
    · rw [show AdminEntry.ringOf (AdminEntry.w2 e) = none from ringOf_eq_none.2 result]
  · rw [show AdminEntry.ringOf (AdminEntry.w0 e) = none from ringOf_eq_none.2 work]

theorem createWork_of_valid (work : ringNumber r = entryField e 0x04 4) (bound : ringNumber rr = entryField e 0x14 4)
    (valid : validWorkParams e = true) : createWork e u =
      if (u.rings.work[r]).isSome = true then refuse .ringBusy u
      else if (u.rings.results[rr]).isNone = true then refuse .ringAbsent u
      else done ((u.setWork r (some (createdWork e rr))).setStatus (statusEntryOf r) .idle) := by
  have named : AdminEntry.ringOf (AdminEntry.w0 e) = some r := ringOf_eq_some.2 work
  have boundTo : AdminEntry.ringOf (AdminEntry.w2 e) = some rr := ringOf_eq_some.2 bound
  unfold createWork
  rw [named, boundTo]
  exact if_neg (by simp [valid])

/-- Settles O41: each command through the case of its checks that applies to the state in which it is taken. -/
theorem ringsCreated : Obligations.RingsCreated := by
  refine fun s xfer e arrives => ⟨fun op => ⟨fun failed => ?_, fun operating => ⟨fun invalid => ?_,
    fun valid rr number => ?_⟩⟩, fun op => ⟨fun failed => ?_, fun operating => ⟨fun invalid => ?_,
    fun valid r rr number bound => ?_⟩⟩⟩
  · exact takeCommand_of_failed createResult arrives (by rw [op]; rfl) failed
  · refine (takeCommand_of_operating createResult arrives (by rw [op]; rfl) operating).trans ?_
    rw [createResult_of_invalid fun named params => invalid (by
      obtain ⟨low, high⟩ := named
      obtain ⟨base, rest⟩ := (validResultParams_iff e).1 params
      exact ⟨low, high, base, rest⟩)]
    rfl
  · obtain ⟨-, -, params⟩ := valid
    have run := takeCommand_of_operating (row := (· == 0x02)) createResult arrives (by rw [op]; rfl) operating
    rw [createResult_of_valid number ((validResultParams_iff e).2 params), commandTaken_rings arrives] at run
    refine ⟨fun busy => run.trans ?_, fun absent => run.trans ?_⟩
    · rw [if_pos (Option.isSome_iff_ne_none.2 busy)]
      rfl
    · rw [if_neg (by simp [absent])]
      rfl
  · exact takeCommand_of_failed createWork arrives (by rw [op]; rfl) failed
  · refine (takeCommand_of_operating createWork arrives (by rw [op]; rfl) operating).trans ?_
    rw [createWork_of_invalid fun named bound params => invalid (by
      obtain ⟨low, high⟩ := named
      obtain ⟨boundLow, boundHigh⟩ := bound
      exact ⟨low, high, boundLow, boundHigh, (validWorkParams_iff e).1 params⟩)]
    rfl
  · obtain ⟨-, -, -, -, params⟩ := valid
    have run := takeCommand_of_operating (row := (· == 0x03)) createWork arrives (by rw [op]; rfl) operating
    rw [createWork_of_valid number bound ((validWorkParams_iff e).2 params), commandTaken_rings arrives] at run
    refine ⟨fun busy => run.trans ?_, fun free absent => run.trans ?_, fun free present => run.trans ?_⟩
    · rw [if_pos (Option.isSome_iff_ne_none.2 busy)]
      rfl
    · rw [if_neg (by simp [free]), if_pos (by simp [absent])]
      rfl
    · rw [if_neg (by simp [free]), if_neg (by simpa using present)]
      rfl

end RingsAreCreated

end Sys2Proof.Machine

/-! # DELETE_WORK_RING, DELETE_RESULT_RING, PAUSE_RING and RESUME_RING (R124, R131, R133, R134, R147) -/

namespace Sys2Proof.Machine

section RingsEnd

variable {s u : State} {r rr : RingId} {w : WorkRing} {e : Entry}

/-! ## The end of a deletion -/

theorem dropIncomplete_of (h : w.phase = .deleting .drain ∧ w.fetch = w.post ∧ nextUnit w.prefetch = none) :
    dropIncomplete w = { w with prefetch := [] } := if_pos h

theorem dropIncomplete_of_not (h : ¬(w.phase = .deleting .drain ∧ w.fetch = w.post ∧ nextUnit w.prefetch = none)) :
    dropIncomplete w = w := if_neg h

/-- What a drop of an incomplete unit leaves of a ring. -/
theorem dropIncomplete_eq (w : WorkRing) : dropIncomplete w = { w with prefetch := (dropIncomplete w).prefetch } := by
  unfold dropIncomplete
  split <;> rfl

/-- R133 and R134: what a DELETING ring waits for. -/
theorem deletionOver_iff {st : StatusWrite} : deletionOver w st = true ↔
    w.outstanding = [] ∧ w.fetchRead = none ∧ st = .idle ∧
      (w.phase = .deleting .discard ∨ (w.phase = .deleting .drain ∧ w.fetch = w.post ∧ w.prefetch = [])) := by
  unfold deletionOver
  cases hp : w.phase with
  | deleting m =>
    cases m with
    | drain => simp; tauto
    | discard => simp [and_assoc]
  | _ => simp

theorem deleteCheck_eq (hw : u.rings.work[r] = some w) : deleteCheck r u =
    if deletionOver (dropIncomplete w) u.rings.status[statusEntryOf r] = true then completeDelete r (u.setWork r none)
    else u.setWork r (some (dropIncomplete w)) := by
  unfold deleteCheck
  rw [hw]

theorem completeDelete_of_waits (h : runningProgress u = some (.deleteRing r)) :
    completeDelete r u = completeCommand .done 0 u := by
  unfold completeDelete
  rw [h]
  exact if_pos rfl

theorem completeDelete_of_not (h : runningProgress u ≠ some (.deleteRing r)) : completeDelete r u = u := by
  unfold completeDelete
  split
  · next n progress => exact if_neg fun same => h (by rw [progress, same])
  · rfl

/-! ## The checks and the effects -/

theorem deleteModeOf_eq (n : Nat) :
    deleteModeOf n = if n = 0 then some .drain else if n = 1 then some .discard else none := by
  match n with
  | 0 | 1 | n + 2 => rfl

/-- A ring as its deletion begins, by the mode that the parameter names (R133, R134, R191). -/
theorem exists_deleteModeOf {n : Nat} (h : n ≤ 1) : ∃ mode, deleteModeOf n = some mode ∧ ∀ w : WorkRing,
    w.deleting mode = if n = 0 then { w with phase := .deleting .drain, fetchHeld := false }
      else { w with phase := .deleting .discard, prefetch := [] } := by
  rw [deleteModeOf_eq]
  by_cases drain : n = 0
  · exact ⟨.drain, if_pos drain, fun w => (if_pos drain).symm⟩
  · exact ⟨.discard, (if_neg drain).trans (if_pos (by omega)), fun w => (if_neg drain).symm⟩

theorem deleteWork_of_invalid
    (h : ¬((1 ≤ entryField e 0x04 4 ∧ entryField e 0x04 4 ≤ 15) ∧ entryField e 0x10 4 ≤ 1)) :
    deleteWork e u = refuse .invalidParameter u := by
  unfold deleteWork
  by_cases named : 1 ≤ entryField e 0x04 4 ∧ entryField e 0x04 4 ≤ 15
  · have mode : deleteModeOf (AdminEntry.w1 e) = none := by
      have range : ¬entryField e 0x10 4 ≤ 1 := fun low => h ⟨named, low⟩
      rw [deleteModeOf_eq, AdminEntry.w1, if_neg (by omega), if_neg (by omega)]
    obtain ⟨r, number⟩ : ∃ r, AdminEntry.ringOf (AdminEntry.w0 e) = some r := exists_ringOf named
    rw [number, mode]
  · rw [show AdminEntry.ringOf (AdminEntry.w0 e) = none from ringOf_eq_none.2 named]

theorem deleteWork_of_absent (number : ringNumber r = entryField e 0x04 4) (range : entryField e 0x10 4 ≤ 1)
    (absent : u.rings.work[r] = none) : deleteWork e u = refuse .ringAbsent u := by
  have named : AdminEntry.ringOf (AdminEntry.w0 e) = some r := ringOf_eq_some.2 number
  obtain ⟨m, hm, -⟩ := exists_deleteModeOf range
  unfold deleteWork
  rw [named, show deleteModeOf (AdminEntry.w1 e) = some m from hm]
  dsimp only
  rw [absent]

theorem deleteWork_of_present (number : ringNumber r = entryField e 0x04 4) (range : entryField e 0x10 4 ≤ 1)
    (hw : u.rings.work[r] = some w) : deleteWork e u =
      deleteCheck r (setProgress (.deleteRing r) (u.setWork r (some (if entryField e 0x10 4 = 0
        then { w with phase := .deleting .drain, fetchHeld := false }
        else { w with phase := .deleting .discard, prefetch := [] })))) := by
  have named : AdminEntry.ringOf (AdminEntry.w0 e) = some r := ringOf_eq_some.2 number
  obtain ⟨m, hm, begun⟩ := exists_deleteModeOf range
  unfold deleteWork
  rw [named, show deleteModeOf (AdminEntry.w1 e) = some m from hm]
  dsimp only
  rw [hw, ← begun w]

/-- R147: whether a work ring that is not ABSENT is bound to the result ring. -/
theorem resultInUse_iff : resultInUse s rr = true ↔ ∃ r w, s.rings.work[(r : RingId)] = some w ∧ w.boundTo = rr := by
  unfold resultInUse
  rw [List.any_eq_true]
  refine ⟨fun ⟨r, _, bound⟩ => ?_, fun ⟨r, w, hw, bound⟩ => ⟨r, List.mem_finRange r, (boundTo_iff rr hw).2 bound⟩⟩
  cases hw : s.rings.work[r] with
  | none =>
    unfold boundTo at bound
    rw [hw] at bound
    cases bound
  | some w => exact ⟨r, w, hw, (boundTo_iff rr hw).1 bound⟩

theorem deleteResult_of_invalid (h : ¬(1 ≤ entryField e 0x04 4 ∧ entryField e 0x04 4 ≤ 15)) :
    deleteResult e u = refuse .invalidParameter u := by
  unfold deleteResult
  rw [show AdminEntry.ringOf (AdminEntry.w0 e) = none from ringOf_eq_none.2 h]

theorem deleteResult_of_number (number : ringNumber rr = entryField e 0x04 4) : deleteResult e u =
    if (u.rings.results[rr]).isNone = true then refuse .ringAbsent u
    else if resultInUse u rr = true then refuse .ringInUse u
    else done (u.setResult rr none) := by
  unfold deleteResult
  rw [show AdminEntry.ringOf (AdminEntry.w0 e) = some rr from ringOf_eq_some.2 number]

theorem pauseRing_of_invalid (h : ¬(1 ≤ entryField e 0x04 4 ∧ entryField e 0x04 4 ≤ 15)) :
    pauseRing e u = refuse .invalidParameter u := by
  unfold pauseRing
  rw [show AdminEntry.ringOf (AdminEntry.w0 e) = none from ringOf_eq_none.2 h]

theorem pauseRing_of_absent (number : ringNumber r = entryField e 0x04 4) (absent : u.rings.work[r] = none) :
    pauseRing e u = refuse .ringAbsent u := by
  unfold pauseRing
  rw [show AdminEntry.ringOf (AdminEntry.w0 e) = some r from ringOf_eq_some.2 number]
  dsimp only
  rw [absent]

/-- PAUSE_RING of a ring, by its state (R131). -/
theorem pauseRing_of_present (number : ringNumber r = entryField e 0x04 4) (hw : u.rings.work[r] = some w) :
    (w.phase = .halted → pauseRing e u = refuse .ringBusy u) ∧
    (w.phase = .active → pauseRing e u = done (u.setWork r (some { w with phase := .paused }))) ∧
    (w.phase = .paused ∨ (∃ m, w.phase = .deleting m) → pauseRing e u = done u) := by
  unfold pauseRing
  rw [show AdminEntry.ringOf (AdminEntry.w0 e) = some r from ringOf_eq_some.2 number]
  dsimp only
  rw [hw]
  dsimp only
  refine ⟨fun halted => by rw [halted], fun active => by rw [active], fun kept => ?_⟩
  obtain paused | ⟨m, deleting⟩ := kept
  · rw [paused]
  · rw [deleting]

theorem resumeRing_of_invalid (h : ¬(1 ≤ entryField e 0x04 4 ∧ entryField e 0x04 4 ≤ 15)) :
    resumeRing e u = refuse .invalidParameter u := by
  unfold resumeRing
  rw [show AdminEntry.ringOf (AdminEntry.w0 e) = none from ringOf_eq_none.2 h]

theorem resumeRing_of_absent (number : ringNumber r = entryField e 0x04 4) (absent : u.rings.work[r] = none) :
    resumeRing e u = refuse .ringAbsent u := by
  unfold resumeRing
  rw [show AdminEntry.ringOf (AdminEntry.w0 e) = some r from ringOf_eq_some.2 number]
  dsimp only
  rw [absent]

/-- RESUME_RING of a ring, by its state (R131). -/
theorem resumeRing_of_present (number : ringNumber r = entryField e 0x04 4) (hw : u.rings.work[r] = some w) :
    (w.phase = .paused ∨ w.phase = .halted →
      resumeRing e u = done (u.setWork r (some { w with phase := .active, fetchHeld := false }))) ∧
    (w.phase = .active ∨ (∃ m, w.phase = .deleting m) → resumeRing e u = done u) := by
  unfold resumeRing
  rw [show AdminEntry.ringOf (AdminEntry.w0 e) = some r from ringOf_eq_some.2 number]
  dsimp only
  rw [hw]
  dsimp only
  refine ⟨fun stopped => ?_, fun kept => ?_⟩
  · obtain paused | halted := stopped
    · rw [paused]
    · rw [halted]
  · obtain active | ⟨m, deleting⟩ := kept
    · rw [active]
    · rw [deleting]

/-! ## The statement -/

/-- The end of a deletion: the drop of an incomplete last unit, and what the ring then still waits for. -/
theorem deleteCheck_cases (hw : u.rings.work[r] = some w) :
    let incomplete := w.phase = .deleting .drain ∧ w.fetch = w.post ∧ nextUnit w.prefetch = none
    ∃ w' : WorkRing, (incomplete → w' = { w with prefetch := [] }) ∧ (¬incomplete → w' = w) ∧
      let ended := w.outstanding = [] ∧ w.fetchRead = none ∧ u.rings.status[statusEntryOf r] = .idle ∧
        (w.phase = .deleting .discard ∨ (w.phase = .deleting .drain ∧ w.fetch = w.post ∧ w'.prefetch = []))
      (¬ended → deleteCheck r u = u.setWork r (some w')) ∧
      (ended → runningProgress u = some (.deleteRing r) →
        deleteCheck r u = completeCommand .done 0 (u.setWork r none)) ∧
      (ended → runningProgress u ≠ some (.deleteRing r) → deleteCheck r u = u.setWork r none) := by
  intro incomplete
  refine ⟨dropIncomplete w, dropIncomplete_of, dropIncomplete_of_not, ?_⟩
  intro ended
  have finished : deletionOver (dropIncomplete w) u.rings.status[statusEntryOf r] = true ↔ ended := by
    rw [dropIncomplete_eq]
    exact deletionOver_iff
  rw [deleteCheck_eq hw]
  refine ⟨fun running => if_neg (mt finished.1 running), fun complete waits => ?_, fun complete free => ?_⟩
  · rw [if_pos (finished.2 complete)]
    exact completeDelete_of_waits (u := u.setWork r none) waits
  · rw [if_pos (finished.2 complete)]
    exact completeDelete_of_not (u := u.setWork r none) free

/-- Settles O42: the end of a deletion by its check, each command through the case of its checks that applies to the
state in which it is taken. -/
theorem ringsDeletedPausedResumed : Obligations.RingsDeletedPausedResumed := by
  refine ⟨fun u r w hw => deleteCheck_cases hw, fun s xfer e arrives => ?_⟩
  have rings := commandTaken_rings arrives e
  refine ⟨fun failed => ⟨fun op => ?_, fun op => ?_, fun op => ?_, fun op => ?_⟩, fun operating op => ?_,
    fun operating op => ?_, fun operating op => ?_, fun operating op => ?_⟩
  · exact takeCommand_of_failed deleteWork arrives (by rw [op]; rfl) failed
  · exact takeCommand_of_failed deleteResult arrives (by rw [op]; rfl) failed
  · exact takeCommand_of_failed pauseRing arrives (by rw [op]; rfl) failed
  · exact takeCommand_of_failed resumeRing arrives (by rw [op]; rfl) failed
  · have run := takeCommand_of_operating (row := (· == 0x04)) deleteWork arrives (by rw [op]; rfl) operating
    refine ⟨fun invalid => run.trans ?_, fun range r number => ⟨fun absent => run.trans ?_,
      fun w hw => run.trans ?_⟩⟩
    · rw [deleteWork_of_invalid invalid]
      rfl
    · rw [deleteWork_of_absent number range (by rw [rings]; exact absent)]
      rfl
    · rw [deleteWork_of_present number range (by rw [rings]; exact hw)]
  · have run := takeCommand_of_operating (row := (· == 0x05)) deleteResult arrives (by rw [op]; rfl) operating
    have uses : ∀ rr, resultInUse (commandTaken xfer e s) rr = true ↔
        ∃ r w, s.rings.work[(r : RingId)] = some w ∧ w.boundTo = rr := fun rr => by rw [resultInUse_iff, rings]
    refine ⟨fun invalid => run.trans ?_, fun rr number => ?_⟩
    · rw [deleteResult_of_invalid invalid]
      rfl
    rw [deleteResult_of_number number, rings] at run
    refine ⟨fun absent => run.trans ?_, fun present used => run.trans ?_, fun present unused => run.trans ?_⟩
    · rw [if_pos (by simp [absent])]
      rfl
    · rw [if_neg (by simpa using present), if_pos ((uses rr).2 used)]
      rfl
    · have free : ¬resultInUse (commandTaken xfer e s) rr = true := fun h => by
        obtain ⟨r, w, hw, bound⟩ := (uses rr).1 h
        exact unused r w hw bound
      rw [if_neg (by simpa using present), if_neg free]
      rfl
  · have run := takeCommand_of_operating (row := (· == 0x06)) pauseRing arrives (by rw [op]; rfl) operating
    refine ⟨fun invalid => run.trans ?_, fun r number => ⟨fun absent => run.trans ?_, fun w hw => ?_⟩⟩
    · rw [pauseRing_of_invalid invalid]
      rfl
    · rw [pauseRing_of_absent number (by rw [rings]; exact absent)]
      rfl
    · obtain ⟨halted, active, kept⟩ :=
        pauseRing_of_present (u := commandTaken xfer e s) number (by rw [rings]; exact hw)
      refine ⟨fun h => run.trans ?_, fun h => run.trans ?_, fun h => run.trans ?_⟩
      · rw [halted h]
        rfl
      · rw [active h]
        rfl
      · rw [kept h]
        rfl
  · have run := takeCommand_of_operating (row := (· == 0x07)) resumeRing arrives (by rw [op]; rfl) operating
    refine ⟨fun invalid => run.trans ?_, fun r number => ⟨fun absent => run.trans ?_, fun w hw => ?_⟩⟩
    · rw [resumeRing_of_invalid invalid]
      rfl
    · rw [resumeRing_of_absent number (by rw [rings]; exact absent)]
      rfl
    · obtain ⟨stopped, kept⟩ :=
        resumeRing_of_present (u := commandTaken xfer e s) number (by rw [rings]; exact hw)
      refine ⟨fun h => run.trans ?_, fun h => run.trans ?_⟩
      · rw [stopped h]
        rfl
      · rw [kept h]
        rfl

end RingsEnd

end Sys2Proof.Machine

/-! # The admin rings: completions, notices and reads (R151 to R154, R158 to R160, R162, R184) -/

namespace Sys2Proof.Machine

section AdminRingRules

variable {s t u : State} {a : AdminRings} {n : Notice} {l posted : List PendingNotice}

/-! ## Admin entries (R158) -/

theorem postAdmin_of_rings (ha : s.admin.rings = some a) (body : List Byte) (kind : Byte) : postAdmin body kind s =
    (issueWrite (.adminResult a.produce a.serial) (itemAddr a.resultBase 16 a.produce)
      (adminEntryBytes body kind a.serial) s).setAdminRings
        (some { a with produce := ringNext a.resultSize a.produce, serial := a.serial + 1 }) := by
  unfold postAdmin
  rw [ha]

theorem adminRoom_of_rings (ha : s.admin.rings = some a) : adminRoom s = true ↔ 1 ≤ a.credit := by
  unfold adminRoom
  rw [ha]
  exact decide_eq_true_iff

/-! ## The read of the next entry (R153) -/

/-- What R153 asks before the next entry is read. -/
def ReadDue (s : State) (a : AdminRings) : Prop :=
  s.admin.phase = .opened ∧ a.command = .none ∧ a.post ≠ a.consumer ∧ 1 ≤ a.credit ∧ s.resetPhase = .operating

theorem considerAdminRead_of_due (ha : s.admin.rings = some a) (due : ReadDue s a) : considerAdminRead s =
    (issueRead .adminRead (itemAddr a.workBase 128 a.consumer) 128 s).setAdminRings
      (some { a with command := .reading, reserved := 1 }) := by
  unfold considerAdminRead
  rw [ha]
  exact if_pos due

theorem considerAdminRead_of_not_due (ha : s.admin.rings = some a) (h : ¬ReadDue s a) : considerAdminRead s = s := by
  unfold considerAdminRead
  rw [ha]
  exact if_neg h

/-- The only transfer that the consideration of a read issues is the read: no admin message follows. -/
theorem adminMessage_considerAdminRead (ordered : LinkOrdered s) (linked : u.link = s.link)
    (ha : u.admin.rings = some a) : adminMessage s.link.next (considerAdminRead u) = considerAdminRead u := by
  by_cases due : ReadDue u a
  · obtain ⟨-, below⟩ := ordered
    refine adminMessage_of_none fun x hx since => ?_
    rw [considerAdminRead_of_due ha due] at hx
    rcases List.mem_append.1 hx with old | read
    · rw [linked] at old
      exact absurd (below x old) (not_lt.2 since)
    · rw [List.mem_singleton.1 read]
      rfl
  · rw [considerAdminRead_of_not_due ha due]
    exact adminMessage_of_link ordered linked

/-! ## The admin message (R158) -/

/-- The admin message of an event changes nothing but the link, which keeps its transfers. -/
theorem adminMessage_link (first : Nat) (s : State) :
    ∃ link, adminMessage first s = { s with link := link } ∧ s.link.transfers <+: link.transfers := by
  unfold adminMessage
  split
  · exact ⟨_, rfl, List.prefix_append _ _⟩
  · exact ⟨s.link, rfl, List.prefix_rfl⟩

theorem adminMessage_of_posted {first : Nat} {x : Transfer} (enabled : s.regs.adminMsgEn = true)
    (hx : x ∈ s.link.transfers) (since : first ≤ x.xfer) (kind : x.kind.asAdminResult.isSome = true) :
    adminMessage first s = issueWrite (.message none) s.regs.adminMsgAddr (leBytes 4 s.regs.adminMsgData.toNat) s :=
  if_pos (Bool.and_eq_true_iff.2 ⟨enabled, List.any_eq_true.2
    ⟨x, hx, Bool.and_eq_true_iff.2 ⟨decide_eq_true since, kind⟩⟩⟩)

/-! ## The completion of a command (R158) -/

theorem completeCommand_of_running {e : Entry} {p : Progress} (ha : s.admin.rings = some a)
    (hc : a.command = .running e p) (st : AdminStatus) (value : BitVec 32) : completeCommand st value s =
      finishCommand (commandBody (AdminEntry.tag e) a.consumer (AdminEntry.opcode e) st value) 0 s := by
  have entry : runningEntry s = some e := by simp only [runningEntry, ha, hc]
  have slot : adminSlot s = a.consumer := by simp only [adminSlot, ha]
  unfold completeCommand
  rw [entry, slot]

theorem finishCommand_of_rings (ha : s.admin.rings = some a) (body : List Byte) (kind : Byte) :
    finishCommand body kind s = considerAdminRead (writeStatus 0 (ringNext a.workSize a.consumer)
      ((issueWrite (.adminResult a.produce a.serial) (itemAddr a.resultBase 16 a.produce)
        (adminEntryBytes body kind a.serial) s).setAdminRings (some { a with
          produce := ringNext a.resultSize a.produce, serial := a.serial + 1, reserved := 0
          consumer := ringNext a.workSize a.consumer, command := .none }))) := by
  unfold finishCommand
  rw [postAdmin_of_rings ha]
  rfl

/-- Settles O27: the entry of the running command is posted, and the admin rings pass it. -/
theorem commandCompletes : Obligations.CommandCompletes := by
  intro s a e p st value ha hc consumer a' posted
  rw [completeCommand_of_running ha hc, finishCommand_of_rings ha]
  rfl

/-! ## Notices (R160) -/

theorem joinNotice_of_new (new : ∀ p ∈ l, p.notice ≠ n) :
    joinNotice n l = l ++ [{ notice := n, repeats := 1 }] :=
  if_neg (by simpa using new)

theorem joinNotice_of_listed {p : PendingNotice} (hp : p ∈ l) (same : p.notice = n) : joinNotice n l =
    l.map fun p => if p.notice == n then { p with repeats := min (p.repeats + 1) Config.repeatLimit } else p := by
  have listed : (l.any fun p => p.notice == n) = true := List.any_eq_true.2 ⟨p, hp, beq_iff_eq.2 same⟩
  exact if_pos listed

theorem repeated_mem_joinNotice {p : PendingNotice} (hp : p ∈ l) (same : p.notice = n) :
    { p with repeats := min (p.repeats + 1) 255 } ∈ joinNotice n l := by
  rw [joinNotice_of_listed hp same]
  exact List.mem_map.2 ⟨p, hp, if_pos (beq_iff_eq.2 same)⟩

theorem mem_joinNotice_of_ne {p : PendingNotice} (hp : p ∈ l) (other : p.notice ≠ n) : p ∈ joinNotice n l := by
  by_cases new : ∀ q ∈ l, q.notice ≠ n
  · rw [joinNotice_of_new new]
    exact List.mem_append_left _ hp
  · push Not at new
    obtain ⟨q, hq, same⟩ := new
    rw [joinNotice_of_listed hq same]
    exact List.mem_map.2 ⟨p, hp, if_neg (by simpa using other)⟩

theorem raiseNotice_of_room (ha : s.admin.rings = some a) (room : 1 ≤ a.credit) (empty : s.admin.notices = []) :
    raiseNotice n s = postAdmin (noticeBody n 1) n.kind s :=
  if_pos (Bool.and_eq_true_iff.2 ⟨(adminRoom_of_rings ha).2 room, List.isEmpty_iff.2 empty⟩)

theorem raiseNotice_of_waits (h : (∀ a, s.admin.rings = some a → a.credit = 0) ∨ s.admin.notices ≠ []) :
    raiseNotice n s = s.setNotices (joinNotice n s.admin.notices) := by
  refine if_neg fun posts => ?_
  obtain ⟨room, empty⟩ := Bool.and_eq_true_iff.1 posts
  cases ha : s.admin.rings with
  | none => simp [adminRoom, ha] at room
  | some a =>
    rcases h with full | pending
    · exact absurd ((adminRoom_of_rings ha).1 room) (by simp [full a ha])
    · exact pending (List.isEmpty_iff.1 empty)

/-- Settles O30: a notice is posted, or joins the list. -/
theorem noticeRaised : Obligations.NoticeRaised := by
  refine fun s n => ⟨fun a ha room empty => ?_, fun waits => ?_⟩
  · rw [raiseNotice_of_room ha room empty, postAdmin_notices, postAdmin_of_rings ha]
    exact ⟨empty, ⟨_, List.mem_append_right _ (List.mem_singleton_self _), rfl, rfl, rfl⟩, rfl⟩
  · rw [raiseNotice_of_waits waits]
    exact ⟨fun p => repeated_mem_joinNotice, fun p => mem_joinNotice_of_ne, joinNotice_of_new, rfl⟩

/-! ## The posting of pending notices (R160) -/

/-- The admin rings once `k` more entries are posted. -/
def AdminRings.advanced (a : AdminRings) (k : Nat) : AdminRings :=
  { a with produce := (ringNext a.resultSize)^[k] a.produce, serial := a.serial + BitVec.ofNat 24 k }

theorem advanced_zero (a : AdminRings) : a.advanced 0 = a := by
  simp [AdminRings.advanced]

theorem advanced_succ (a : AdminRings) (k : Nat) : a.advanced (k + 1) =
    ({ a with produce := ringNext a.resultSize a.produce, serial := a.serial + 1 } : AdminRings).advanced k := by
  have serial : a.serial + BitVec.ofNat 24 (k + 1) = a.serial + 1 + BitVec.ofNat 24 k := by
    rw [Nat.add_comm, BitVec.ofNat_add, BitVec.add_assoc]
    rfl
  simp only [AdminRings.advanced, Function.iterate_succ_apply, serial]

/-- From `s` to `t` the entries `posted`, the oldest of the list `l`, are posted, and nothing but the admin rings, the
pending list and the link has changed; what is left waits for credit. -/
structure PendingPosted (s : State) (a : AdminRings) (l posted : List PendingNotice) (t : State) : Prop where
  list : l = posted ++ t.admin.notices
  rings : t.admin.rings = some (a.advanced posted.length)
  waits : t.admin.notices = [] ∨ (a.advanced posted.length).credit = 0
  room : ∀ i < posted.length, 1 ≤ (a.advanced i).credit
  issued : s.link.transfers <+: t.link.transfers
  frame : t = { s with
    admin := { s.admin with rings := t.admin.rings, notices := t.admin.notices }, link := t.link }

/-- A list of which nothing is posted: it is empty, or there is no room. -/
theorem PendingPosted.stop (ha : s.admin.rings = some a) (h : l = [] ∨ a.credit = 0) :
    PendingPosted s a l [] (s.setNotices l) where
  list := rfl
  rings := by rw [List.length_nil, advanced_zero]; exact ha
  waits := by rw [List.length_nil, advanced_zero]; exact h
  room := fun i hi => absurd hi (Nat.not_lt_zero i)
  issued := List.prefix_rfl
  frame := rfl

/-- The oldest record is posted, and then the others. -/
theorem PendingPosted.cons {p : PendingNotice} {body : List Byte} {kind : Byte} (ha : s.admin.rings = some a)
    (credit : 1 ≤ a.credit) (h : PendingPosted (postAdmin body kind s)
      { a with produce := ringNext a.resultSize a.produce, serial := a.serial + 1 } l posted t) :
    PendingPosted s a (p :: l) (p :: posted) t where
  list := congrArg (p :: ·) h.list
  rings := by rw [List.length_cons, advanced_succ]; exact h.rings
  waits := by rw [List.length_cons, advanced_succ]; exact h.waits
  room
    | 0, _ => by rw [advanced_zero]; exact credit
    | i + 1, hi => by rw [advanced_succ]; exact h.room i (Nat.lt_of_succ_lt_succ hi)
  issued := by
    have issued := h.issued
    rw [postAdmin_of_rings ha] at issued
    exact (List.prefix_append _ _).trans issued
  frame := by
    have frame := h.frame
    rw [postAdmin_of_rings ha] at frame
    exact frame

theorem postPendingList_posted (l : List PendingNotice) (ha : s.admin.rings = some a) :
    ∃ posted, PendingPosted s a l posted (postPendingList l s) := by
  induction l generalizing s a with
  | nil => exact ⟨[], .stop ha (.inl rfl)⟩
  | cons p rest ih =>
    unfold postPendingList
    split
    · next room =>
      obtain ⟨posted, h⟩ := ih (s := postAdmin (noticeBody p.notice p.repeats) p.notice.kind s)
        (by rw [postAdmin_of_rings ha]; rfl)
      exact ⟨p :: posted, .cons ha ((adminRoom_of_rings ha).1 room) h⟩
    · next full =>
      have credit : a.credit = 0 := by simpa [adminRoom_of_rings ha] using full
      exact ⟨[], .stop ha (.inr credit)⟩

theorem postPending_posted (ha : s.admin.rings = some a) :
    ∃ posted, PendingPosted s a s.admin.notices posted (postPending s) :=
  postPendingList_posted s.admin.notices ha

/-- Where there is room the oldest record is posted, with the event's first transfer. -/
theorem postPending_oldest {p : PendingNotice} (ha : s.admin.rings = some a) (credit : 1 ≤ a.credit)
    (list : s.admin.notices = p :: l) : ∃ posted, PendingPosted s a (p :: l) (p :: posted) (postPending s) ∧
      ∃ x ∈ (postPending s).link.transfers, x.xfer = s.link.next ∧ x.kind = .adminResult a.produce a.serial ∧
        x.addr = itemAddr a.resultBase 16 a.produce ∧
        x.body = adminEntryBytes (noticeBody p.notice p.repeats) p.notice.kind a.serial := by
  have oldest : postPending s = postPendingList l (postAdmin (noticeBody p.notice p.repeats) p.notice.kind s) := by
    unfold postPending
    rw [list]
    exact if_pos ((adminRoom_of_rings ha).2 credit)
  obtain ⟨posted, h⟩ := postPendingList_posted (s := postAdmin (noticeBody p.notice p.repeats) p.notice.kind s) l
    (by rw [postAdmin_of_rings ha]; rfl)
  rw [← oldest] at h
  refine ⟨posted, .cons ha credit h, ?_⟩
  have issued := h.issued
  rw [postAdmin_of_rings ha] at issued
  exact ⟨_, issued.subset (List.mem_append_right _ (List.mem_singleton_self _)), rfl, rfl, rfl, rfl⟩

end AdminRingRules

end Sys2Proof.Machine

/-! # ENABLE (R151, R160, R184) -/

namespace Sys2Proof.Machine

section EnableAdmin

variable {s : State} {r : Registers} {m : Bool}

theorem adminWorkSize_eq (r : Registers) : adminWorkSize r = r.adminSizes.toNat % 65536 := by
  simp [adminWorkSize]

theorem adminResultSize_eq (r : Registers) : adminResultSize r = r.adminSizes.toNat / 65536 := by
  have bound := r.adminSizes.isLt
  simp only [adminResultSize, BitVec.extractLsb'_toNat, Nat.shiftRight_eq_div_pow]
  omega

/-- The configuration checks of R151. -/
theorem validAdminConfig_iff (r : Registers) : validAdminConfig r = true ↔
    r.adminSizes.toNat % 65536 ∈ [16, 32, 64, 128, 256] ∧ r.adminSizes.toNat / 65536 ∈ [16, 32, 64, 128, 256] ∧
      r.adminWorkBase.toNat % 128 = 0 ∧ r.adminResultBase.toNat % 16 = 0 ∧ r.statusBlockBase.toNat % 8 = 0 := by
  simp only [validAdminConfig, validAdminSize, Bool.and_eq_true, beq_iff_eq, List.contains_iff_mem, adminWorkSize_eq,
    adminResultSize_eq, and_assoc]

/-- The state in which the admin rings are empty, before the pending notices are posted (R151). -/
def adminOpened (s : State) : State :=
  ((s.setAdminPhase .opened).setAdminRings (some (openedRings s.regs))).setStatus 0 .idle

/-- As no command is posted yet, none is read. -/
theorem openAdmin_of_valid (valid : validAdminConfig s.regs = true) :
    openAdmin s = postPending (adminOpened s) := by
  obtain ⟨posted, h⟩ := postPending_posted (s := adminOpened s) rfl
  have effect : openAdmin s = considerAdminRead (postPending (adminOpened s)) := if_pos valid
  rw [effect]
  exact considerAdminRead_of_not_due h.rings fun ⟨_, _, posts, _⟩ => posts rfl

theorem openAdmin_of_invalid (invalid : ¬validAdminConfig s.regs = true) : openAdmin s =
    ((s.setAdminPhase .halted).setAdminRings none).setRegs { s.regs with adminHalted := true } := if_neg invalid

/-- The first entries posted into an empty ring of `size` slots stand in the slots 0, 1 and so on. -/
theorem produce_of_room {a : AdminRings} (produce : a.produce = 0) (release : a.release = 0) (reserved : a.reserved = 0)
    (size : 0 < a.resultSize) {k : Nat} (room : ∀ i < k, 1 ≤ (a.advanced i).credit) :
    (a.advanced k).produce = k ∧ k < a.resultSize := by
  induction k with
  | zero => exact ⟨produce, size⟩
  | succ k ih =>
    obtain ⟨at_k, below⟩ := ih fun i hi => room i (by omega)
    have credit : (a.advanced k).credit = a.resultSize - 1 - ringGap a.resultSize a.release (a.advanced k).produce -
      a.reserved := rfl
    have left := room k (by omega)
    rw [credit, at_k, release, reserved, ringGap_eq size below] at left
    have next : (a.advanced (k + 1)).produce = ringNext a.resultSize (a.advanced k).produce :=
      Function.iterate_succ_apply' _ _ _
    have fits : k + 1 < a.resultSize := by simp at left; omega
    rw [next, at_k]
    exact ⟨Nat.mod_eq_of_lt fits, fits⟩

/-- With a valid configuration the rings are empty at first, and the pending notices take their first slots. -/
theorem openAdmin_posted (valid : validAdminConfig s.regs = true) : ∃ posted,
    PendingPosted (adminOpened s) (openedRings s.regs) s.admin.notices posted (openAdmin s) ∧
      ((openedRings s.regs).advanced posted.length).produce = posted.length := by
  obtain ⟨posted, h⟩ := postPending_posted (s := adminOpened s) rfl
  have size : 0 < adminResultSize s.regs := by
    obtain ⟨-, listed, -⟩ := (validAdminConfig_iff s.regs).1 valid
    rw [adminResultSize_eq]
    exact Nat.pos_of_ne_zero fun zero => by simp [zero] at listed
  obtain ⟨produce, -⟩ := produce_of_room rfl rfl rfl size h.room
  rw [openAdmin_of_valid valid]
  exact ⟨posted, h, produce⟩

theorem exec_enable (operating : s.resetPhase = .operating) :
    exec (.enable m) s = .next (adminMessage s.link.next (writeDevControl true m s)) :=
  congrArg Host.Outcome.next (if_pos operating)

/-- The registers that a first write of ENABLE leaves (R184). -/
def enabledRegs (r : Registers) (m : Bool) : Registers := { r with enable := true, adminMsgEn := m }

theorem writeDevControl_first (clear : s.regs.enable = false) :
    writeDevControl true m s = openAdmin (s.setRegs (enabledRegs s.regs m)) := by
  unfold writeDevControl
  rw [clear]
  rfl

theorem writeDevControl_again (set : s.regs.enable = true) :
    writeDevControl true m s = s.setRegs { s.regs with adminMsgEn := m } := by
  unfold writeDevControl
  rw [set]
  rfl

/-- Settles O34: the rings are empty at first, so that the pending notices take their first slots. -/
theorem enableOpensAdminRings : Obligations.EnableOpensAdminRings := by
  intro m s operating ordered r sizes nw nr valid
  have checks : validAdminConfig (enabledRegs s.regs m) = true ↔ valid := validAdminConfig_iff r
  rw [exec_enable operating]
  refine ⟨fun clear hv => ?_, fun clear hv => ?_, fun set => ?_⟩
  · obtain ⟨posted, h, produce⟩ := openAdmin_posted (s := s.setRegs (enabledRegs s.regs m)) (checks.2 hv)
    obtain ⟨list, rings, waits, -, -, frame⟩ := h
    rw [writeDevControl_first clear]
    generalize openAdmin (s.setRegs (enabledRegs s.regs m)) = t at list rings waits frame
    obtain ⟨link, message, -⟩ := adminMessage_link s.link.next t
    rw [message]
    have regs : t.regs = enabledRegs s.regs m := by rw [frame]; rfl
    have phase : t.admin.phase = .opened := by rw [frame]; rfl
    exact ⟨_, _, rfl, regs, phase, rings, rfl, adminWorkSize_eq r, rfl, adminResultSize_eq r, rfl, rfl, rfl, rfl, rfl,
      rfl, ⟨posted, list, produce, BitVec.zero_add _⟩, waits, by rw [frame]; rfl⟩
  · rw [writeDevControl_first clear, openAdmin_of_invalid (s := s.setRegs (enabledRegs s.regs m)) (mt checks.1 hv)]
    exact congrArg Host.Outcome.next (adminMessage_of_link ordered rfl)
  · rw [writeDevControl_again set]
    exact congrArg Host.Outcome.next (adminMessage_of_link ordered rfl)

end EnableAdmin

end Sys2Proof.Machine

/-! # ADMIN_POST, ADMIN_RELEASE, ADMIN_READ_ISSUE and PENDING_NOTICE_POST (R152, R153, R159, R160) -/

namespace Sys2Proof.Machine

section AdminWrites

variable {s : State} {a : AdminRings} {v : BitVec 32}

theorem exec_adminPost (v : BitVec 32) (s : State) :
    exec (.adminPost v) s = .next (registerWrite (writeAdminPost v) s) := rfl

theorem exec_adminRelease (v : BitVec 32) (s : State) :
    exec (.adminRelease v) s = .next (registerWrite (writeAdminRelease v) s) := rfl

theorem writeAdminPost_absent (ha : s.admin.rings = none) : writeAdminPost v s = s := by
  unfold writeAdminPost
  rw [ha]

theorem writeAdminRelease_absent (ha : s.admin.rings = none) : writeAdminRelease v s = s := by
  unfold writeAdminRelease
  rw [ha]

theorem writeAdminPost_eq (ha : s.admin.rings = some a) : writeAdminPost v s =
    if a.validPost v.toNat = true then considerAdminRead (s.setAdminRings (some { a with post := v.toNat }))
    else settle (raiseFault (protocolFault .adminRing v) s) := by
  unfold writeAdminPost
  rw [ha]

theorem writeAdminRelease_eq (ha : s.admin.rings = some a) : writeAdminRelease v s =
    if a.validRelease v.toNat = true then
      considerAdminRead (postPending (s.setAdminRings (some { a with release := v.toNat })))
    else settle (raiseFault (protocolFault .adminRing v) s) := by
  unfold writeAdminRelease
  rw [ha]

/-- A register write that is taken is an event (R185). -/
theorem registerWrite_of_operating (f : State → State) (operating : s.resetPhase = .operating) :
    registerWrite f s = adminMessage s.link.next (f s) := if_pos operating

/-- A register write that has no effect. -/
theorem registerWrite_of_same {f : State → State} (operating : s.resetPhase = .operating) (ordered : LinkOrdered s)
    (same : f s = s) : registerWrite f s = s :=
  (registerWrite_of_link operating ordered (congrArg State.link same)).trans same

theorem busy_iff (c : Command) : c.busy = true ↔ c ≠ .none := by
  cases c <;> simp [Command.busy]

/-- The check of R152. -/
theorem adminValidPost_iff (a : AdminRings) (p : Nat) :
    a.validPost p = true ↔ p < a.workSize ∧ (a.command = .none ∨ p ≠ a.consumer) := by
  simp only [AdminRings.validPost, Bool.and_eq_true, decide_eq_true_eq, Bool.not_eq_true', ← Bool.not_eq_true, busy_iff,
    beq_iff_eq]
  tauto

/-- The check of R159. -/
theorem adminValidRelease_iff (a : AdminRings) (p : Nat) : a.validRelease p = true ↔
    p < a.resultSize ∧ ringGap a.resultSize a.release p ≤ ringGap a.resultSize a.release a.produce := by
  simp only [AdminRings.validRelease, Bool.and_eq_true, decide_eq_true_eq]

/-- What is considered after pending notices are posted: a read is issued only where none of them waits any more. -/
theorem considerAdminRead_of_posted {l posted : List PendingNotice} {t : State} (h : PendingPosted s a l posted t) :
    ∃ a' link, considerAdminRead t = { t with admin := { t.admin with rings := some a' }, link := link } ∧
      a' = { a.advanced posted.length with command := a'.command, reserved := a'.reserved } ∧
      (t.admin.notices = [] ∨ a'.credit = 0) := by
  by_cases due : ReadDue t (a.advanced posted.length)
  · have credit : (a.advanced posted.length).credit ≠ 0 := by
      obtain ⟨-, -, -, credit, -⟩ := due
      omega
    rw [considerAdminRead_of_due h.rings due]
    exact ⟨_, _, rfl, rfl, .inl (h.waits.resolve_right credit)⟩
  · rw [considerAdminRead_of_not_due h.rings due]
    exact ⟨_, t.link, by rw [← h.rings], rfl, h.waits⟩

/-- Settles O37: a write is ignored, raises the fault, or moves its index. -/
theorem adminPostAndRelease : Obligations.AdminPostAndRelease := by
  refine fun v s operating ordered => ⟨fun absent => ⟨?_, ?_⟩, fun a ha =>
    ⟨fun invalid => ?_, fun below other => ?_, fun invalid => ?_, fun below behind => ?_⟩⟩
  · exact congrArg Host.Outcome.next (registerWrite_of_same operating ordered (writeAdminPost_absent absent))
  · exact congrArg Host.Outcome.next (registerWrite_of_same operating ordered (writeAdminRelease_absent absent))
  · have refused : ¬a.validPost v.toNat = true := fun valid => by
      obtain ⟨below, other⟩ := (adminValidPost_iff a _).1 valid
      rcases invalid with h | ⟨busy, same⟩
      · exact absurd below (not_lt.2 h)
      · exact other.elim busy fun h => h same
    rw [exec_adminPost, registerWrite_of_fault operating ((writeAdminPost_eq ha).trans (if_neg refused))]
    rfl
  · have effect := (writeAdminPost_eq ha).trans (if_pos ((adminValidPost_iff a v.toNat).2 ⟨below, other⟩))
    rw [exec_adminPost, registerWrite_of_operating _ operating, effect]
    exact congrArg Host.Outcome.next
      (adminMessage_considerAdminRead (u := s.setAdminRings (some { a with post := v.toNat })) ordered rfl rfl)
  · have refused : ¬a.validRelease v.toNat = true := fun valid => by
      obtain ⟨below, behind⟩ := (adminValidRelease_iff a _).1 valid
      rcases invalid with h | h
      · exact absurd below (not_lt.2 h)
      · exact absurd behind (not_le.2 h)
    rw [exec_adminRelease, registerWrite_of_fault operating ((writeAdminRelease_eq ha).trans (if_neg refused))]
    rfl
  · have effect := (writeAdminRelease_eq ha).trans (if_pos ((adminValidRelease_iff a v.toNat).2 ⟨below, behind⟩))
    obtain ⟨posted, h⟩ := postPending_posted (s := s.setAdminRings (some { a with release := v.toNat })) rfl
    obtain ⟨a', _, considered, fields, waits⟩ := considerAdminRead_of_posted h
    obtain ⟨link, message, -⟩ := adminMessage_link s.link.next (writeAdminRelease v s)
    rw [exec_adminRelease, registerWrite_of_operating _ operating, message, effect, considered]
    obtain ⟨list, -, -, -, -, frame⟩ := h
    refine ⟨_, a', rfl, rfl, ?_, ?_, ?_, ⟨posted, list, ?_⟩, waits, by rw [frame]; rfl⟩
    all_goals rw [fields]; rfl

theorem exec_adminReadIssue (ordered : LinkOrdered s) (ha : s.admin.rings = some a) :
    exec .adminReadIssue s = .next (considerAdminRead s) :=
  congrArg Host.Outcome.next (adminMessage_considerAdminRead ordered rfl ha)

/-- Settles O38: a read that is due is issued, and the oldest pending notice is posted before the others. -/
theorem adminReadAndPendingNotices : Obligations.AdminReadAndPendingNotices := by
  refine fun s a ordered ha => ⟨fun opened operating idle posts credit => ?_, fun p rest list credit => ?_⟩
  · rw [exec_adminReadIssue ordered ha, considerAdminRead_of_due ha ⟨opened, idle, posts, credit, operating⟩]
    rfl
  · obtain ⟨posted, h, x, hx, number, kind, addr, body⟩ := postPending_oldest ha credit list
    obtain ⟨link, message, kept⟩ := adminMessage_link s.link.next (postPending s)
    have regs : (postPending s).regs = s.regs := by rw [h.frame]
    have run : exec .pendingNoticePost s = .next { postPending s with link := link } :=
      congrArg Host.Outcome.next message
    refine ⟨_, _, run, h.rings, ⟨posted, list.trans h.list, rfl⟩, h.waits, ⟨x, kept.subset hx, kind, addr, body⟩,
      fun enabled => ?_, by rw [h.frame]⟩
    have sent := adminMessage_of_posted (by rw [regs]; exact enabled) hx number.ge (by rw [kind]; rfl)
    rw [message] at sent
    rw [sent, regs]
    exact ⟨_, List.mem_append_right _ (List.mem_singleton_self _), rfl, rfl, rfl⟩

end AdminWrites

end Sys2Proof.Machine

/-! # ADMIN_READ_FAILURE and INVALID_COMMAND (R154, R160, R162) -/

namespace Sys2Proof.Machine

section AdminReadEnds

variable {s : State} {a : AdminRings} {xfer : Nat} {e : Entry}

theorem haltAdmin_of_rings (ha : s.admin.rings = some a) : haltAdmin s =
    ((s.setAdminRings (some { a with command := .none, reserved := 0 })).setAdminPhase .halted).setRegs
      { s.regs with adminHalted := true } := by
  unfold haltAdmin
  rw [ha]

theorem adminReadFault_of_rings (ha : s.admin.rings = some a) : adminReadFault s =
    { cls := .hostRead, source := .adminRing, slotIndex := some a.consumer } := by
  unfold adminReadFault adminSlot
  rw [ha]

theorem exec_adminReadFailure (h : awaits s xfer .adminRead = true) : exec (.adminReadFailure xfer) s =
    .next (afterEvent s (postPending (haltAdmin (dropTransfer xfer s))) [adminReadFault (dropTransfer xfer s)]) :=
  congrArg Host.Outcome.next (report_of_awaits h rfl rfl)

theorem exec_invalidCommand (h : commandArrives s xfer = true)
    (ho : entryField e 0x00 1 = 0 ∨ 17 < entryField e 0x00 1) : exec (.invalidCommand xfer e) s =
      .next (afterEvent s (refuse .invalidCommand (commandTaken xfer e s)) []) := by
  have unknown : (!knownAdminCode (entryField e 0x00 1)) = true := by
    simp only [knownAdminCode, Bool.not_eq_true', Bool.and_eq_false_iff, decide_eq_false_iff_not]
    omega
  exact congrArg Host.Outcome.next (takeCommand_of_arrives _ h unknown)

/-- Settles O39: the report of the awaited read halts the controller, and an unknown opcode is refused. -/
theorem adminReadFailsOrIsInvalid : Obligations.AdminReadFailsOrIsInvalid := by
  refine ⟨fun s xfer a awaited ha => ⟨_, ?_, rfl⟩, fun s xfer e arrives unknown => ?_⟩
  · rw [exec_adminReadFailure awaited, haltAdmin_of_rings (s := dropTransfer xfer s) ha,
      adminReadFault_of_rings (s := dropTransfer xfer s) ha]
    rfl
  · exact exec_invalidCommand arrives unknown

end AdminReadEnds

end Sys2Proof.Machine

/-! # ARM_PROBE and DISARM_PROBE (R154, R166, R170, R192) -/

namespace Sys2Proof.Machine

section ProbesArmed

variable {s u : State} {p : ProbeId} {xfer : Nat} {e : Entry}

theorem probeOf_eq_some {w : Nat} : AdminEntry.probeOf w = some p ↔ p.val = w := by
  unfold AdminEntry.probeOf
  split
  · simp [Fin.ext_iff, eq_comm]
  · next h => simp; omega

theorem probeOf_eq_none {w : Nat} (h : 4 ≤ w) : AdminEntry.probeOf w = none := dif_neg (not_lt.2 h)

theorem commandTaken_probes (h : commandArrives s xfer = true) (e : Entry) :
    (commandTaken xfer e s).probes = s.probes := by
  obtain ⟨a, link, taken⟩ := commandTaken_of_arrives h e
  rw [taken]
  rfl

/-- The parameter checks of ARM_PROBE (R166). -/
def ArmValid (regions : Vector Region 16) (e : Entry) : Prop :=
  entryField e 0x04 4 < 4 ∧ entryField e 0x10 4 < 16 ∧ entryField e 0x14 4 ≤ entryField e 0x18 4 ∧
    ∃ n : RegionId, n.val = entryField e 0x10 4 ∧ regions[n].phase = .active ∧ entryField e 0x18 4 < regions[n].count

theorem armProbe_of_invalid (h : ¬ArmValid u.regions e) : armProbe e u = refuse .invalidParameter u := by
  unfold armProbe
  split
  · next p n hp hn =>
    rw [probeOf_eq_some] at hp
    rw [regionOf_eq_some] at hn
    refine if_pos (by_contra fun passed => h ?_)
    simp only [not_or, not_lt, not_not, not_le] at passed
    obtain ⟨order, active, inside⟩ := passed
    exact ⟨lt_of_eq_of_lt hp.symm p.isLt, lt_of_eq_of_lt hn.symm n.isLt, order, n, hn, active, inside⟩
  · rfl

theorem armProbe_of_valid {n : RegionId} (valid : ArmValid u.regions e) (hp : p.val = entryField e 0x04 4)
    (hn : n.val = entryField e 0x10 4) : armProbe e u =
      if u.probes[p] ≠ .disarmed then refuse .probeBusy u
      else done (u.setProbe p (.armed n (entryField e 0x14 4) (entryField e 0x18 4))) := by
  obtain ⟨-, -, order, n', hn', active, inside⟩ := valid
  obtain rfl : n' = n := Fin.ext (hn'.trans hn.symm)
  unfold armProbe
  rw [show AdminEntry.probeOf (AdminEntry.w0 e) = some p from probeOf_eq_some.2 hp,
    show AdminEntry.regionOf (AdminEntry.w1 e) = some n' from regionOf_eq_some.2 hn]
  refine if_neg fun refused => ?_
  rcases refused with h | h | h
  · exact absurd order (not_le.2 h)
  · exact h active
  · exact absurd inside (not_lt.2 h)

theorem disarmProbe_of_invalid (h : 4 ≤ entryField e 0x04 4) : disarmProbe e u = refuse .invalidParameter u := by
  unfold disarmProbe
  rw [show AdminEntry.probeOf (AdminEntry.w0 e) = none from probeOf_eq_none h]

theorem disarmProbe_of_hit {rg : RegionId} {first last : Nat} {c : Capture} (hp : p.val = entryField e 0x04 4)
    (hit : u.probes[p] = .hit rg first last c) :
    disarmProbe e u = finishCommand (captureBody c) 5 (u.setProbe p .disarmed) := by
  unfold disarmProbe
  rw [show AdminEntry.probeOf (AdminEntry.w0 e) = some p from probeOf_eq_some.2 hp]
  dsimp only
  rw [hit]

theorem disarmProbe_of_not_hit (hp : p.val = entryField e 0x04 4)
    (other : ∀ rg first last c, u.probes[p] ≠ .hit rg first last c) :
    disarmProbe e u = done (u.setProbe p .disarmed) := by
  unfold disarmProbe
  rw [show AdminEntry.probeOf (AdminEntry.w0 e) = some p from probeOf_eq_some.2 hp]
  dsimp only
  split
  · next hit => exact absurd hit (other _ _ _ _)
  · rfl
  · rfl

/-- Settles O45: each command through the case of its checks that applies to the state in which it is taken. -/
theorem probeCommands : Obligations.ProbeCommands := by
  intro s xfer e arrives t ends w0 w1 first last valid
  have probes : t.probes = s.probes := commandTaken_probes arrives e
  have checks : ArmValid t.regions e ↔ valid := by rw [commandTaken_regions]; rfl
  refine ⟨fun op => ⟨takeCommand_of_failed armProbe arrives (by rw [op]; rfl), fun operating => ?_⟩,
    fun op => ⟨takeCommand_of_failed disarmProbe arrives (by rw [op]; rfl), fun operating bad => ?_,
      fun operating p hp => ?_⟩⟩
  · have run := takeCommand_of_operating (row := (· == 0x0B)) armProbe arrives (by rw [op]; rfl) operating
    refine ⟨fun bad => run.trans ?_, fun good p n hp hn => ?_⟩
    · rw [armProbe_of_invalid (mt checks.1 bad)]
      rfl
    · rw [armProbe_of_valid (checks.2 good) hp hn, probes] at run
      refine ⟨fun armed => run.trans ?_, fun free => run.trans ?_⟩
      · rw [if_pos armed]
        rfl
      · rw [if_neg (by simp [free])]
        rfl
  · refine (takeCommand_of_operating disarmProbe arrives (by rw [op]; rfl) operating).trans ?_
    rw [disarmProbe_of_invalid bad]
    rfl
  · have run := takeCommand_of_operating (row := (· == 0x0C)) disarmProbe arrives (by rw [op]; rfl) operating
    refine ⟨fun other => run.trans ?_, fun rg a b c hit => run.trans ?_⟩
    · rw [disarmProbe_of_not_hit hp (by rw [probes]; exact other)]
      rfl
    · rw [disarmProbe_of_hit hp (by rw [probes]; exact hit)]
      rfl

end ProbesArmed

end Sys2Proof.Machine

/-! # RELEASE_FAULT_LOG and SET_FAULT_POLICY (R154, R172, R178, R180, R191) -/

namespace Sys2Proof.Machine

section FaultLogAndPolicies

variable {s u : State} {xfer : Nat} {e : Entry} {c : FaultClass} {p : Policy}

/-! ## RELEASE_FAULT_LOG -/

theorem releaseLog_of_invalid (h : 1 < entryField e 0x04 4) : releaseLog e u = refuse .invalidParameter u := if_pos h

theorem releaseLog_of_valid (h : entryField e 0x04 4 ≤ 1) : releaseLog e u =
    completeCommand .done (if u.faults.capture = none then 0 else 1) (u.setFaults { u.faults with
      capture := none, later := false, seen := if entryField e 0x04 4 = 1 then 0 else u.faults.seen }) := by
  have released : u.faults.released (entryField e 0x04 4 == 1) = { u.faults with
      capture := none, later := false, seen := if entryField e 0x04 4 = 1 then 0 else u.faults.seen } := by
    simp only [FaultUnit.released, beq_iff_eq]
  rw [← captureValue_eq, ← released]
  exact if_neg (not_lt.2 h)

/-! ## The codes of SET_FAULT_POLICY (R191) -/

theorem faultClassOf_index (c : FaultClass) : faultClassOf c.index.val = some c := by
  cases c <;> rfl

theorem faultClassOf_eq_none {n : Nat} (h : 13 ≤ n) : faultClassOf n = none := by
  obtain ⟨k, rfl⟩ := Nat.exists_eq_add_of_le' h
  rfl

theorem maskOf_eq_some {n : Nat} {b : Bool} : maskOf n = some b ↔ b.toNat = n := by
  match n with
  | 0 | 1 => cases b <;> simp [maskOf]
  | n + 2 => cases b <;> simp [maskOf]

theorem severityOf_eq_some {n : Nat} {v : Severity} : severityOf n = some v ↔ v.code = n := by
  match n with
  | 0 | 1 | 2 => cases v <;> simp [severityOf, Severity.code]
  | n + 3 => cases v <;> simp [severityOf, Severity.code]

theorem requestedPolicy_eq_some : requestedPolicy e = some p ↔
    p.masked.toNat = entryField e 0x10 4 ∧ p.severity.code = entryField e 0x14 4 := by
  rw [← maskOf_eq_some, ← severityOf_eq_some]
  unfold requestedPolicy AdminEntry.w1 AdminEntry.w2
  constructor
  · split
    · next mask severity => rintro ⟨⟩; exact ⟨mask, severity⟩
    · rintro ⟨⟩
  · rintro ⟨mask, severity⟩
    rw [mask, severity]

theorem exists_requestedPolicy (mask : entryField e 0x10 4 ≤ 1) (severity : entryField e 0x14 4 ≤ 2) :
    ∃ p, requestedPolicy e = some p := by
  obtain ⟨b, hb⟩ : ∃ b : Bool, b.toNat = entryField e 0x10 4 := by
    rcases Nat.le_one_iff_eq_zero_or_eq_one.1 mask with h | h
    · exact ⟨false, h.symm⟩
    · exact ⟨true, h.symm⟩
  obtain ⟨v, hv⟩ : ∃ v : Severity, v.code = entryField e 0x14 4 := by
    have range : entryField e 0x14 4 = 0 ∨ entryField e 0x14 4 = 1 ∨ entryField e 0x14 4 = 2 := by omega
    rcases range with h | h | h
    · exact ⟨.advisory, h.symm⟩
    · exact ⟨.ringFatal, h.symm⟩
    · exact ⟨.deviceFatal, h.symm⟩
  exact ⟨⟨b, v⟩, requestedPolicy_eq_some.2 ⟨hb, hv⟩⟩

theorem fixed_iff (c : FaultClass) : c.fixed = true ↔ c = .hostRingWrite ∨ c = .internalCheck := by
  cases c <;> simp [FaultClass.fixed]

theorem severityCode_eq_two (v : Severity) : v.code = 2 ↔ v = .deviceFatal := by
  cases v <;> simp [Severity.code]

/-! ## SET_FAULT_POLICY -/

theorem policyValue_of_class (hc : c.index.val = entryField e 0x04 4) (f : FaultUnit) :
    policyValue e f = (f.policy c).resultValue := by
  unfold policyValue AdminEntry.w0
  rw [← hc, faultClassOf_index]

theorem policyValue_of_none (h : 13 ≤ entryField e 0x04 4) (f : FaultUnit) : policyValue e f = 0 := by
  unfold policyValue AdminEntry.w0
  rw [faultClassOf_eq_none h]

theorem setPolicy_of_none (h : 13 ≤ entryField e 0x04 4) :
    setPolicy e u = completeCommand .invalidParameter (policyValue e u.faults) u := by
  unfold setPolicy
  rw [show faultClassOf (AdminEntry.w0 e) = none from faultClassOf_eq_none h]

/-- The parameter checks of SET_FAULT_POLICY for a class (R172, R178). -/
def PolicyValid (c : FaultClass) (e : Entry) : Prop :=
  entryField e 0x10 4 ≤ 1 ∧ entryField e 0x14 4 ≤ 2 ∧
    ((c = .hostRingWrite ∨ c = .internalCheck) → entryField e 0x14 4 = 2)

theorem setPolicy_of_requested (hc : c.index.val = entryField e 0x04 4) (hp : requestedPolicy e = some p) :
    setPolicy e u = if c.fixed = true ∧ p.severity ≠ .deviceFatal
      then completeCommand .invalidParameter (policyValue e u.faults) u
      else completeCommand .done (policyValue e u.faults)
        (u.setFaults { u.faults with policies := u.faults.policies.set c.index p }) := by
  unfold setPolicy AdminEntry.w0
  rw [← hc, faultClassOf_index, hp]

theorem policyValid_iff : PolicyValid c e ↔
    ∃ p, requestedPolicy e = some p ∧ ¬(c.fixed = true ∧ p.severity ≠ .deviceFatal) := by
  constructor
  · rintro ⟨mask, severity, fatal⟩
    obtain ⟨p, hp⟩ := exists_requestedPolicy mask severity
    obtain ⟨-, code⟩ := requestedPolicy_eq_some.1 hp
    refine ⟨p, hp, fun ⟨fixed, other⟩ => other ((severityCode_eq_two _).1 ?_)⟩
    rw [code]
    exact fatal ((fixed_iff c).1 fixed)
  · rintro ⟨p, hp, fatal⟩
    obtain ⟨mask, code⟩ := requestedPolicy_eq_some.1 hp
    refine ⟨?_, ?_, fun fixed => ?_⟩
    · rw [← mask]
      exact Bool.toNat_le _
    · rw [← code]
      cases p.severity <;> simp [Severity.code]
    · rw [← code, severityCode_eq_two]
      exact by_contra fun other => fatal ⟨(fixed_iff c).2 fixed, other⟩

theorem setPolicy_of_invalid (hc : c.index.val = entryField e 0x04 4) (invalid : ¬PolicyValid c e) :
    setPolicy e u = completeCommand .invalidParameter (policyValue e u.faults) u := by
  cases hp : requestedPolicy e with
  | none =>
    unfold setPolicy AdminEntry.w0
    rw [← hc, faultClassOf_index, hp]
  | some p =>
    rw [setPolicy_of_requested hc hp]
    exact if_pos (by_contra fun fatal => invalid (policyValid_iff.2 ⟨p, hp, fatal⟩))

/-- SET_FAULT_POLICY by the state of the device (R154, R178). -/
theorem exec_setFaultPolicy (h : commandArrives s xfer = true) (ho : entryField e 0x00 1 = 0x0F) :
    exec (.setFaultPolicy xfer e) s =
      if s.faults.failed = true then commandEnds s (commandTaken xfer e s) .deviceFailed (policyValue e s.faults)
      else .next (afterEvent s (setPolicy e (commandTaken xfer e s)) []) := by
  show Host.Outcome.next (takeCommand _ _ xfer e s) = _
  rw [takeCommand_of_arrives _ h (by rw [ho]; rfl)]
  unfold whileOperating
  rw [commandTaken_faults e h]
  split <;> rfl

/-- Settles O46: each command through the case of its checks that applies to the state in which it is taken. -/
theorem faultCommands : Obligations.FaultCommands := by
  intro s xfer e arrives t ends w0 w1 w2
  have faults : t.faults = s.faults := commandTaken_faults e arrives
  refine ⟨fun op => ⟨takeCommand_of_failed releaseLog arrives (by rw [op]; rfl), fun operating bad => ?_,
    fun operating good => ?_⟩, fun op => ⟨fun none => ?_, fun c hc => ?_⟩⟩
  · refine (takeCommand_of_operating releaseLog arrives (by rw [op]; rfl) operating).trans ?_
    rw [releaseLog_of_invalid bad]
    rfl
  · refine (takeCommand_of_operating releaseLog arrives (by rw [op]; rfl) operating).trans ?_
    rw [releaseLog_of_valid good, faults]
    rfl
  · rw [exec_setFaultPolicy arrives op, setPolicy_of_none none, policyValue_of_none none, policyValue_of_none none]
    split <;> rfl
  · rw [exec_setFaultPolicy arrives op, policyValue_of_class hc]
    refine ⟨fun failed => if_pos failed, fun operating bad => ?_, fun operating good => ?_⟩
    · rw [if_neg (by simp [operating]), setPolicy_of_invalid hc bad, faults, policyValue_of_class hc]
      rfl
    · obtain ⟨p, hp, fatal⟩ := policyValid_iff.1 good
      obtain ⟨mask, code⟩ := requestedPolicy_eq_some.1 hp
      refine ⟨p, mask, code, ?_⟩
      rw [if_neg (by simp [operating]), setPolicy_of_requested hc hp, if_neg fatal, faults, policyValue_of_class hc]
      rfl

end FaultLogAndPolicies

end Sys2Proof.Machine

/-! # A HIT probe stays until it is disarmed, its region retires or a reset comes (R165, R167, R170, R171) -/

namespace Sys2Proof.Machine

section HitProbes

variable {s t u : State}

/-! ## What leaves HIT probes alone -/

/-- Every probe that is HIT stays so, with its range and its capture. -/
def HitsStay (s t : State) : Prop :=
  ∀ (p : ProbeId) (rg : RegionId) (first last : Nat) (cap : Capture),
    s.probes[p] = .hit rg first last cap → t.probes[p] = .hit rg first last cap

theorem HitsStay.of_probes (same : t.probes = s.probes) : HitsStay s t := fun p rg first last cap hit => by
  rw [same]
  exact hit

theorem HitsStay.refl (s : State) : HitsStay s s := .of_probes rfl

theorem HitsStay.trans (h : HitsStay s t) (h' : HitsStay t u) : HitsStay s u := fun p rg first last cap hit =>
  h' p rg first last cap (h p rg first last cap hit)

/-- After updates of fields other than the probes. -/
theorem HitsStay.after (h : HitsStay t u) (same : t.probes = s.probes) : HitsStay s u := (of_probes same).trans h

/-- A reaction, after updates of fields other than the probes. -/
theorem Reaction.hitsStay (h : Reaction t u) (same : t.probes = s.probes) : HitsStay s u :=
  .of_probes (h.probes.trans same)

/-- A reaction that comes after. -/
theorem HitsStay.andThen (h : HitsStay s t) (h' : Reaction t u) : HitsStay s u := h.trans (h'.hitsStay rfl)

theorem hitsStay_ite {c : Prop} [Decidable c] (ht : HitsStay s t) (hu : HitsStay s u) :
    HitsStay s (if c then t else u) := by
  split
  · exact ht
  · exact hu

/-! ## Reports, events and commands -/

theorem hitsStay_event {f : State → State} (h : HitsStay s (f s)) : HitsStay s (event f s) :=
  h.andThen (reaction_adminMessage _ _)

theorem hitsStay_onReport {α : Type} {kind : TransferKind → Option α} {handle : α → State → State}
    (h : ∀ a s, HitsStay s (handle a s)) (xfer : Nat) (s : State) : HitsStay s (onReport kind handle xfer s) := by
  have dropped : HitsStay s (dropTransfer xfer s) := .of_probes rfl
  unfold onReport
  split
  · exact .refl s
  · split
    · exact .refl s
    · exact hitsStay_ite (dropped.trans (h _ _)) dropped

theorem hitsStay_onReadComplete {α : Type} {kind : TransferKind → Option α} {handle : α → State → State}
    (h : ∀ a s, HitsStay s (handle a s)) (xfer : Nat) (s : State) : HitsStay s (onReadComplete kind handle xfer s) :=
  hitsStay_ite (hitsStay_onReport h xfer s) (.refl s)

/-- A report that a reaction handles, as an event. -/
theorem hitsStay_report {α : Type} {kind : TransferKind → Option α} {handle : α → State → State}
    (h : ∀ a s, Reaction s (handle a s)) (xfer : Nat) (s : State) : HitsStay s (event (onReport kind handle xfer) s) :=
  hitsStay_event (hitsStay_onReport (fun a s => (h a s).hitsStay rfl) xfer s)

/-- A read whose completion a reaction handles, as an event. -/
theorem hitsStay_readComplete {α : Type} {kind : TransferKind → Option α} {handle : α → State → State}
    (h : ∀ a s, Reaction s (handle a s)) (xfer : Nat) (s : State) :
    HitsStay s (event (onReadComplete kind handle xfer) s) :=
  hitsStay_event (hitsStay_onReadComplete (fun a s => (h a s).hitsStay rfl) xfer s)

theorem hitsStay_takeCommand {row : Nat → Bool} {run : Entry → State → State} (h : ∀ e s, HitsStay s (run e s))
    (xfer : Nat) (e : Entry) (s : State) : HitsStay s (takeCommand row run xfer e s) :=
  hitsStay_ite (hitsStay_event (hitsStay_onReadComplete (fun _ s =>
    (((reaction_beginCommand e s).hitsStay rfl).trans (h e _)).andThen (reaction_settle _)) xfer s)) (.refl s)

theorem hitsStay_whileOperating (value : BitVec 32) {run : State → State} (h : HitsStay s (run s)) :
    HitsStay s (whileOperating value run s) := hitsStay_ite ((reaction_completeCommand _ _ s).hitsStay rfl) h

/-- A command that a FAILED device refuses with result value 0. -/
theorem hitsStay_operatingCommand {row : Nat → Bool} {run : Entry → State → State} (h : ∀ e s, HitsStay s (run e s))
    (xfer : Nat) (e : Entry) (s : State) : HitsStay s (takeCommand row (fun e => whileOperating 0 (run e)) xfer e s) :=
  hitsStay_takeCommand (fun e s => hitsStay_whileOperating 0 (h e s)) xfer e s

/-- Such a command whose checks and effect are a reaction. -/
theorem hitsStay_reactionCommand {row : Nat → Bool} {run : Entry → State → State} (h : ∀ e s, Reaction s (run e s))
    (xfer : Nat) (e : Entry) (s : State) : HitsStay s (takeCommand row (fun e => whileOperating 0 (run e)) xfer e s) :=
  hitsStay_operatingCommand (fun e s => (h e s).hitsStay rfl) xfer e s

/-! ## Registers and takes -/

theorem hitsStay_registerWrite {f : State → State} (h : HitsStay s (f s)) : HitsStay s (registerWrite f s) :=
  hitsStay_ite (hitsStay_event h) (.refl s)

theorem hitsStay_writeDevControl (enable msgEn : Bool) (s : State) : HitsStay s (writeDevControl enable msgEn s) :=
  have opened : ∀ u, HitsStay u (openAdmin u) := fun _ =>
    hitsStay_ite (((reaction_postPending _).trans (reaction_considerAdminRead _)).hitsStay rfl) (.of_probes rfl)
  hitsStay_ite ((opened _).after rfl) (.of_probes rfl)

theorem hitsStay_handToContext (r : RingId) (ms : List Member) (s : State) : HitsStay s (handToContext r ms s) := by
  unfold handToContext
  split
  · unfold beginStoreRead
    split
    · exact hitsStay_ite (.of_probes rfl) (.of_probes rfl)
    · exact .of_probes rfl
  · exact .refl s

theorem hitsStay_carryOut (r : RingId) (j : Judgement) (s : State) : HitsStay s (carryOut r j s) := by
  cases j with
  | answered posts faults => exact ((reaction_postUnit r posts s).trans (reaction_raiseFaults faults _)).hitsStay rfl
  | accepted ms => exact hitsStay_handToContext r ms s

theorem hitsStay_unitTaken (r : RingId) (w : WorkRing) (n : Nat) (s : State) : HitsStay s (unitTaken r w n s) := by
  unfold unitTaken reserve
  split <;> exact .of_probes rfl

theorem hitsStay_takeFrom (r : RingId) (s : State) : HitsStay s (takeFrom r s) := by
  unfold takeFrom
  split
  · exact .refl s
  · split
    · exact .refl s
    · exact ((hitsStay_unitTaken r _ _ s).trans (hitsStay_carryOut r _ _)).andThen (reaction_settle _)

theorem hitsStay_takeUnit (k : UnitKind) (s : State) : HitsStay s (takeUnit k s) := by
  unfold takeUnit
  split
  · next r s1 h =>
    have chosen : HitsStay s s1 := by
      rcases arbitrate_state h with rfl | rfl <;> exact .of_probes rfl
    exact hitsStay_ite (chosen.trans (hitsStay_event (hitsStay_takeFrom r s1))) (.refl s)
  · exact .refl s

theorem hitsStay_failStoreRead (c : CtxId) (s : State) : HitsStay s (failStoreRead c s) := by
  unfold failStoreRead
  split
  · exact .refl s
  · have ended := fun x => reaction_endContext c (s.setContext c x)
    refine HitsStay.andThen ?_ (reaction_settle _)
    split
    · exact ((ended _).trans (reaction_raiseFaults _ _)).hitsStay rfl
    · exact (reaction_raiseFaults _ _).hitsStay ((ended _).trans (reaction_failContexts _ _ _ _)).probes

/-! ## Commits (R167, R168) -/

/-- A commit changes ARMED probes only. -/
theorem hitsStay_consultProbes (r : RingId) (vs : List Evaluated) (s : State) : HitsStay s (consultProbes r vs s) :=
  fun p rg first last cap hit => by
    rw [(consultProbes_spec r vs s).1, hit]
    rfl

theorem hitsStay_finishCommit (c : CtxId) (x : Context) (ms : List Member) (s : State) :
    HitsStay s (finishCommit c x ms s) :=
  have left := (reaction_leaveQueues c (s.setContext c (some (x.committed ms)))).hitsStay (s := s) rfl
  (hitsStay_ite (left.andThen (reaction_endContext c _)) (left.andThen (reaction_issueImages c 0 ms _))).andThen
    (reaction_settle _)

theorem hitsStay_applyAll (c : CtxId) (x : Context) (vs : List Evaluated) (s : State) :
    HitsStay s (applyAll c x vs s) :=
  (((Reaction.foldl (reaction_applyMember x) vs s).hitsStay rfl).trans (hitsStay_consultProbes x.ring vs _)).trans
    (hitsStay_finishCommit c x _ _)

theorem hitsStay_commitUpdate (c : CtxId) (x : Context) (s : State) : HitsStay s (commitUpdate c x s) := by
  unfold commitUpdate
  split
  · exact hitsStay_applyAll c x _ s
  · exact .refl s

theorem hitsStay_commitFetch (c : CtxId) (x : Context) (s : State) : HitsStay s (commitFetch c x s) := by
  unfold commitFetch
  split
  · exact hitsStay_finishCommit c x _ s
  · exact .refl s

theorem hitsStay_commitBundle (c : CtxId) (x : Context) (s : State) : HitsStay s (commitBundle c x s) := by
  unfold commitBundle
  split
  · exact hitsStay_ite (hitsStay_applyAll c x _ s) (hitsStay_finishCommit c x _ s)
  · exact .refl s

theorem hitsStay_storeImage (x : Context) (record : Nat) (data : Record) (s : State) :
    HitsStay s (storeImage x record data s) := by
  unfold storeImage
  split
  · exact .refl s
  · split
    · exact .of_probes rfl
    · exact (reaction_writeImage x record data allLanes s).hitsStay rfl

theorem hitsStay_commitStore (c : CtxId) (x : Context) (s : State) : HitsStay s (commitStore c x s) := by
  unfold commitStore
  split
  · exact (hitsStay_storeImage x _ _ s).trans ((hitsStay_finishCommit c x _ _).after rfl)
  · exact .refl s

theorem hitsStay_commitOn {kind : Context → Bool} {effect : CtxId → Context → State → State}
    (h : ∀ c x s, HitsStay s (effect c x s)) (c : CtxId) (s : State) : HitsStay s (commitOn kind effect c s) := by
  unfold commitOn
  split
  · exact .refl s
  · refine hitsStay_ite (hitsStay_event ?_) (.refl s)
    split
    · exact (reaction_raiseSettled _ s).hitsStay rfl
    · exact h c _ s

/-! ## The ends of jobs -/

theorem hitsStay_completeFill (k : SlotId) (n : Nat) (errors : Vector WordErrors 4) (s : State) :
    HitsStay s (completeFill k n errors s) := by
  have ended : HitsStay s (s.setStore (s.store.endFill k n errors)) := .of_probes rfl
  have resident : ∀ y image corrected u, HitsStay u (residentFill k y image corrected u) := fun _ _ _ _ =>
    hitsStay_ite (.of_probes rfl) (.of_probes rfl)
  unfold completeFill
  dsimp only
  split
  · exact ended
  · have entered := fun y image corrected => ended.trans (resident y image corrected _)
    exact (hitsStay_ite (entered _ _ _) ((entered _ _ _).andThen (reaction_raiseFault _ _))).andThen (reaction_settle _)

@[simp] theorem freeSlot_probes (k : SlotId) (s : State) : (freeSlot k s).probes = s.probes := rfl

theorem hitsStay_failFill (k : SlotId) (n : Nat) (errors : Vector WordErrors 4) (s : State) :
    HitsStay s (failFill k n errors s) := by
  unfold failFill
  dsimp only
  split
  · exact .of_probes rfl
  · exact (((reaction_failContexts _ _ _ _).trans (reaction_raiseFaults _ _)).trans (reaction_settle _)).hitsStay
      ((freeSlot_probes k _).trans (State.setStore_probes s _))

theorem hitsStay_afterWriteBack (k : SlotId) (y : Slot) (content : Resident) (s : State) :
    HitsStay s (afterWriteBack k y content s) :=
  have ended := (reaction_awaitedEnd k s).hitsStay rfl
  hitsStay_ite (hitsStay_ite (ended.trans (.of_probes rfl)) ended)
    (hitsStay_ite (ended.andThen (reaction_startWriteBack k _)) ended)

theorem hitsStay_completeWriteBack (k : SlotId) (n : Nat) (lanes : Record) (set : LaneSet) (s : State) :
    HitsStay s (completeWriteBack k n lanes set s) := by
  unfold completeWriteBack
  dsimp only
  split
  · exact .of_probes rfl
  · split
    · refine HitsStay.andThen ?_ (reaction_settle _)
      exact (hitsStay_afterWriteBack k _ _ _).after rfl
    · exact .of_probes rfl

theorem hitsStay_completeRegionFill (first last : Nat) (pattern : Record) (next : Nat) (s : State) :
    HitsStay s (completeRegionFill first last pattern next s) := by
  unfold completeRegionFill finishDefine
  refine HitsStay.andThen ?_ (reaction_settle _)
  split
  · exact (reaction_completeCommand _ _ _).hitsStay rfl
  · exact .of_probes rfl

/-! ## Admin commands -/

theorem hitsStay_refuse (st : AdminStatus) (s : State) : HitsStay s (refuse st s) := (reaction_refuse st s).hitsStay rfl

theorem hitsStay_failAdminRead (a : Unit) (s : State) : HitsStay s (failAdminRead a s) :=
  have halted : (haltAdmin s).probes = s.probes := by
    unfold haltAdmin
    split <;> rfl
  ((reaction_postPending _).trans (reaction_raiseSettled _ _)).hitsStay halted

theorem hitsStay_deleteWork (e : Entry) (s : State) : HitsStay s (deleteWork e s) := by
  unfold deleteWork
  split
  · split
    · exact hitsStay_refuse _ s
    · exact ((reaction_setProgress _ _).trans (reaction_deleteCheck _ _)).hitsStay rfl
  · exact hitsStay_refuse _ s

theorem hitsStay_defineRegion (e : Entry) (s : State) : HitsStay s (defineRegion e s) := by
  have accepted : ∀ n rg, HitsStay s (defineAccepted e n rg s) := fun _ _ =>
    hitsStay_ite ((reaction_setProgress _ _).hitsStay rfl) ((reaction_done _).hitsStay rfl)
  unfold defineRegion
  split
  · exact hitsStay_ite (hitsStay_refuse _ s)
      (hitsStay_ite (hitsStay_refuse _ s) (hitsStay_ite (hitsStay_refuse _ s) (accepted _ _)))
  · exact hitsStay_refuse _ s

/-- Only a DISARMED probe is armed, so that a HIT probe is refused PROBE_BUSY (R166). -/
theorem hitsStay_armProbe (e : Entry) (s : State) : HitsStay s (armProbe e s) := by
  have armed : ∀ {p : ProbeId} {x : Probe}, s.probes[p] = .disarmed → HitsStay s (s.setProbe p x) :=
    fun {p x} disarmed q rg first last cap hit => by
      have other : q ≠ p := fun same => by
        rw [same, disarmed] at hit
        cases hit
      rw [State.setProbe_probes, getElem_set_fin, if_neg other]
      exact hit
  unfold armProbe
  dsimp only
  split
  · refine hitsStay_ite (hitsStay_refuse _ s) ?_
    split
    · exact hitsStay_refuse _ s
    · next disarmed => exact (armed (not_not.1 disarmed)).andThen (reaction_done _)
  · exact hitsStay_refuse _ s

theorem hitsStay_releaseLog (e : Entry) (s : State) : HitsStay s (releaseLog e s) :=
  hitsStay_ite (hitsStay_refuse _ s) ((reaction_completeCommand _ _ _).hitsStay (State.setFaults_probes s _))

theorem hitsStay_setPolicy (e : Entry) (s : State) : HitsStay s (setPolicy e s) := by
  have completed := (reaction_completeCommand .invalidParameter (policyValue e s.faults) s).hitsStay rfl
  unfold setPolicy
  split
  · exact hitsStay_ite completed ((reaction_completeCommand _ _ _).hitsStay rfl)
  · exact completed

theorem hitsStay_setCleaner (e : Entry) (s : State) : HitsStay s (setCleaner e s) :=
  hitsStay_ite ((reaction_completeCommand _ _ s).hitsStay rfl)
    (((reaction_cleanNow _).trans (reaction_completeCommand _ _ _)).hitsStay rfl)

/-! ## Every command -/

/-- The next state that a command answers, where it answers one, has the HIT probes as they were. -/
def AnswersHits (s : State) (o : Result) : Prop := ∀ t, o = .next t → HitsStay s t

theorem AnswersHits.next (h : HitsStay s t) : AnswersHits s (.next t) := fun _ e => by
  cases e
  exact h

theorem AnswersHits.withinStore {n : Nat} (h : HitsStay s t) : AnswersHits s (withinStore s n t) := fun _ e =>
  (withinStore_next e).2 ▸ h

theorem answersHits_ite {c : Prop} [Decidable c] {o o' : Result} (h : AnswersHits s o) (h' : AnswersHits s o') :
    AnswersHits s (if c then o else o') := by
  split
  · exact h
  · exact h'

theorem answersHits_fillComplete (k : SlotId) (errors : Vector WordErrors 4) (s : State) :
    AnswersHits s (execFillComplete k errors s) := by
  unfold execFillComplete
  split
  · exact .next (.refl s)
  · exact answersHits_ite (.withinStore (hitsStay_event (hitsStay_completeFill k _ errors s))) (.next (.refl s))

theorem answersHits_fillUncorrectable (k : SlotId) (errors : Vector WordErrors 4) (s : State) :
    AnswersHits s (execFillUncorrectable k errors s) := by
  unfold execFillUncorrectable
  split
  · exact .next (.refl s)
  · exact answersHits_ite (.next (.refl s)) (.withinStore (hitsStay_event (hitsStay_failFill k _ errors s)))

theorem answersHits_writeBackComplete (k : SlotId) (s : State) : AnswersHits s (execWriteBackComplete k s) := by
  unfold execWriteBackComplete
  split
  · exact .next (.refl s)
  · exact .withinStore (hitsStay_event (hitsStay_completeWriteBack k _ _ _ s))

theorem answersHits_regionFillComplete (s : State) : AnswersHits s (execRegionFillComplete s) := by
  unfold execRegionFillComplete
  split
  · exact .next (.refl s)
  · exact answersHits_ite (.next (.refl s)) (.withinStore (hitsStay_event (hitsStay_completeRegionFill _ _ _ _ s)))

theorem answersHits_regionFillStopped (current : Nat) (s : State) :
    AnswersHits s (execRegionFillStopped current s) := by
  unfold execRegionFillStopped
  split
  · exact .next (.refl s)
  · exact answersHits_ite (.withinStore (t := stopRegionFill _ _ current s) (.of_probes rfl)) (.next (.refl s))

/-- The rows that may end a HIT probe: DISARM_PROBE, RETIRE_REGION and the resets (R170, R171). -/
def EndsHits : Instr → Prop
  | .disarmProbe .. | .retireRegion .. | .reset .. | .linkReset | .powerOnReset .. => True
  | _ => False

/-- Every other row leaves the HIT probes as they were. -/
theorem answersHits_exec (c : Instr) (spared : ¬EndsHits c) (s : State) : AnswersHits s (exec c s) := by
  cases c with
  | disarmProbe | retireRegion | reset | linkReset | powerOnReset => exact absurd trivial spared
  | powerOnReady => exact .next (hitsStay_ite (.of_probes rfl) (.refl s))
  | resetEnd => exact .next (hitsStay_ite (.of_probes rfl) (.refl s))
  | enable msgEn => exact .next (hitsStay_registerWrite (hitsStay_writeDevControl true msgEn s))
  | adminMsgEn msgEn => exact .next (hitsStay_registerWrite (hitsStay_writeDevControl false msgEn s))
  | registerWrite offset width v =>
    exact .next (hitsStay_registerWrite (hitsStay_ite (.refl s) (.of_probes rfl)))
  | post r v => exact .next (hitsStay_registerWrite ((reaction_writePost r v s).hitsStay rfl))
  | adminPost v => exact .next (hitsStay_registerWrite ((reaction_writeAdminPost v s).hitsStay rfl))
  | release rr v => exact .next (hitsStay_registerWrite ((reaction_writeRelease rr v s).hitsStay rfl))
  | adminRelease v => exact .next (hitsStay_registerWrite ((reaction_writeAdminRelease v s).hitsStay rfl))
  | pendingNoticePost => exact .next (hitsStay_event ((reaction_postPending s).hitsStay rfl))
  | fetchReadIssue r => exact .next ((reaction_issueFetch r s).hitsStay rfl)
  | fetchReadComplete xfer entries =>
    exact .next (hitsStay_ite (hitsStay_readComplete (fun r => reaction_completeFetch entries r) xfer s) (.refl s))
  | fetchReadFailure xfer => exact .next (hitsStay_report reaction_failFetch xfer s)
  | update | fetch | store | fence | nop | bundle | unknownOpcode => exact .next (hitsStay_takeUnit _ s)
  | slotGrant => exact .next ((reaction_grantHead s).hitsStay rfl)
  | storeReadComplete xfer data => exact .next (hitsStay_readComplete (fun c => reaction_acceptStoreData data c) xfer s)
  | storeReadFailure xfer => exact .next (hitsStay_event (hitsStay_onReport hitsStay_failStoreRead xfer s))
  | fillComplete k errors => exact answersHits_fillComplete k errors s
  | fillUncorrectable k errors => exact answersHits_fillUncorrectable k errors s
  | updateCommit c => exact .next (hitsStay_commitOn hitsStay_commitUpdate c s)
  | fetchCommit c => exact .next (hitsStay_commitOn hitsStay_commitFetch c s)
  | storeCommit c => exact .next (hitsStay_commitOn hitsStay_commitStore c s)
  | bundleCommit c => exact .next (hitsStay_commitOn hitsStay_commitBundle c s)
  | hostBufferWriteComplete xfer => exact .next (hitsStay_report reaction_completeBuffer xfer s)
  | hostBufferWriteFailure xfer => exact .next (hitsStay_report reaction_failBuffer xfer s)
  | resultWriteFailure xfer => exact .next (hitsStay_report (fun _ => reaction_raiseSettled _) xfer s)
  | statusWriteComplete xfer =>
    exact .next (hitsStay_report (fun w : Fin 16 × Nat => reaction_statusWritten w.1) xfer s)
  | statusWriteFailure xfer =>
    exact .next (hitsStay_report
      (fun w : Fin 16 × Nat => reaction_statusFailed w.1 (statusWriteFault w.1 w.2)) xfer s)
  | coalescingExpiry rr => exact .next (hitsStay_event ((reaction_expireCoalescing rr s).hitsStay rfl))
  | stallExpiry rr => exact .next (hitsStay_event ((reaction_expireStall rr s).hitsStay rfl))
  | cleanerExpiry k =>
    exact .next (hitsStay_ite
      (hitsStay_event (((reaction_startWriteBack k s).trans (reaction_settle _)).hitsStay rfl)) (.refl s))
  | writeBackComplete k => exact answersHits_writeBackComplete k s
  | regionFillComplete => exact answersHits_regionFillComplete s
  | regionFillStopped current => exact answersHits_regionFillStopped current s
  | adminReadIssue => exact .next (hitsStay_event ((reaction_considerAdminRead s).hitsStay rfl))
  | adminReadFailure xfer => exact .next (hitsStay_event (hitsStay_onReport hitsStay_failAdminRead xfer s))
  | invalidCommand xfer e => exact .next (hitsStay_takeCommand (fun _ => hitsStay_refuse _) xfer e s)
  | identify xfer e | readFaultLog xfer e | listPoison xfer e =>
    exact .next (hitsStay_takeCommand (fun e s => (reaction_writeAdminBuffer e _ _ s).hitsStay rfl) xfer e s)
  | createResultRing xfer e => exact .next (hitsStay_reactionCommand reaction_createResult xfer e s)
  | createWorkRing xfer e => exact .next (hitsStay_reactionCommand reaction_createWork xfer e s)
  | deleteWorkRing xfer e => exact .next (hitsStay_operatingCommand hitsStay_deleteWork xfer e s)
  | deleteResultRing xfer e => exact .next (hitsStay_reactionCommand reaction_deleteResult xfer e s)
  | pauseRing xfer e => exact .next (hitsStay_reactionCommand reaction_pauseRing xfer e s)
  | resumeRing xfer e => exact .next (hitsStay_reactionCommand reaction_resumeRing xfer e s)
  | defineRegion xfer e => exact .next (hitsStay_operatingCommand hitsStay_defineRegion xfer e s)
  | flushRegion xfer e => exact .next (hitsStay_reactionCommand reaction_flushRegion xfer e s)
  | armProbe xfer e => exact .next (hitsStay_operatingCommand hitsStay_armProbe xfer e s)
  | releaseFaultLog xfer e => exact .next (hitsStay_operatingCommand hitsStay_releaseLog xfer e s)
  | setFaultPolicy xfer e =>
    exact .next (hitsStay_takeCommand (fun e s => hitsStay_whileOperating _ (hitsStay_setPolicy e s)) xfer e s)
  | setCleaner xfer e =>
    exact .next (hitsStay_takeCommand (fun e s => hitsStay_whileOperating _ (hitsStay_setCleaner e s)) xfer e s)
  | adminBufferWriteComplete xfer =>
    exact .next (hitsStay_report (fun _ s => reaction_bufferWritten (bufferValue s) s) xfer s)
  | adminBufferWriteFailure xfer =>
    exact .next (hitsStay_report (fun _ s => reaction_bufferFailed (adminBufferFault s) (bufferValue s) s) xfer s)
  | adminResultWriteFailure xfer => exact .next (hitsStay_report (fun _ => reaction_raiseSettled _) xfer s)

/-- Settles O15: a commit changes ARMED probes only, ARM_PROBE takes a DISARMED one, and no other row than the five
that are named changes a probe. -/
theorem hitProbeStays : Obligations.HitProbeStays := by
  intro c s t p rg first last cap answered hit notDisarm notRetire notReset notLink notPower
  refine answersHits_exec c (fun ends => ?_) s t answered p rg first last cap hit
  cases c with
  | disarmProbe xfer e => exact notDisarm xfer e rfl
  | retireRegion xfer e => exact notRetire xfer e rfl
  | reset en m => exact notReset en m rfl
  | linkReset => exact notLink rfl
  | powerOnReset sz1 sz0 => exact notPower sz1 sz0 rfl
  | _ => exact ends

end HitProbes

end Sys2Proof.Machine

/-! # What is recorded of faults stays (R172, R174, R176, R178, R180, R181) -/

namespace Sys2Proof.Machine

section FaultsRecorded

variable {s t u : State} {c : Instr} {o o' : Result}

/-! ## What forgets nothing of the fault unit -/

/-- A captured fault, the seen classes and FAILED stay, and the policies are as they were. -/
structure FaultsHeld (s t : State) : Prop where
  capture : ∀ f, s.faults.capture = some f → t.faults.capture = some f
  seen : s.faults.seen ||| t.faults.seen = t.faults.seen
  failed : s.faults.failed = true → t.faults.failed = true
  policies : t.faults.policies = s.faults.policies

theorem FaultsHeld.of_faults (same : t.faults = s.faults) : FaultsHeld s t := by
  refine ⟨fun f captured => ?_, ?_, fun failed => ?_, ?_⟩ <;> rw [same]
  · exact captured
  · exact BitVec.or_self
  · exact failed

theorem FaultsHeld.refl (s : State) : FaultsHeld s s := .of_faults rfl

theorem FaultsHeld.trans (h : FaultsHeld s t) (h' : FaultsHeld t u) : FaultsHeld s u where
  capture f := h'.capture f ∘ h.capture f
  seen := by rw [← h'.seen, ← BitVec.or_assoc, h.seen]
  failed := h'.failed ∘ h.failed
  policies := h'.policies.trans h.policies

/-- After updates of fields other than the fault unit. -/
theorem FaultsHeld.after (h : FaultsHeld t u) (same : t.faults = s.faults) : FaultsHeld s u := (of_faults same).trans h

theorem Reaction.faultsHeld (h : Reaction s t) : FaultsHeld s t where
  capture f captured := (h.capture (by simp [captured])).trans captured
  seen := h.seen
  failed := h.fails
  policies := h.policies

/-- A reaction that comes after. -/
theorem FaultsHeld.andThen (h : FaultsHeld s t) (h' : Reaction t u) : FaultsHeld s u := h.trans h'.faultsHeld

/-- A reaction, after updates of fields other than the fault unit. -/
theorem Reaction.faultsHeldAfter (h : Reaction t u) (same : t.faults = s.faults) : FaultsHeld s u :=
  h.faultsHeld.after same

theorem faultsHeld_ite {p : Prop} [Decidable p] (ht : FaultsHeld s t) (hu : FaultsHeld s u) :
    FaultsHeld s (if p then t else u) := by
  split
  · exact ht
  · exact hu

/-! ## Reports, events and commands -/

theorem faultsHeld_event {f : State → State} (h : FaultsHeld s (f s)) : FaultsHeld s (event f s) :=
  h.andThen (reaction_adminMessage _ _)

/-- A report changes nothing of the fault unit, or it is handled on the state without its transfer. -/
theorem onReport_cases {α : Type} (kind : TransferKind → Option α) (handle : α → State → State) (xfer : Nat)
    (s : State) : (onReport kind handle xfer s).faults = s.faults ∨
      ∃ a, onReport kind handle xfer s = handle a (dropTransfer xfer s) := by
  unfold onReport
  split
  · exact .inl rfl
  · split
    · exact .inl rfl
    · split
      · exact .inr ⟨_, rfl⟩
      · exact .inl rfl

theorem faultsHeld_onReport {α : Type} {kind : TransferKind → Option α} {handle : α → State → State}
    (h : ∀ a s, FaultsHeld s (handle a s)) (xfer : Nat) (s : State) : FaultsHeld s (onReport kind handle xfer s) := by
  rcases onReport_cases kind handle xfer s with same | ⟨a, handled⟩
  · exact .of_faults same
  · rw [handled]
    exact (h a _).after rfl

/-- A report that a reaction handles, as an event. -/
theorem faultsHeld_report {α : Type} {kind : TransferKind → Option α} {handle : α → State → State}
    (h : ∀ a s, Reaction s (handle a s)) (xfer : Nat) (s : State) :
    FaultsHeld s (event (onReport kind handle xfer) s) :=
  faultsHeld_event (faultsHeld_onReport (fun a s => (h a s).faultsHeld) xfer s)

/-- A read whose completion a reaction handles, as an event. -/
theorem faultsHeld_readComplete {α : Type} {kind : TransferKind → Option α} {handle : α → State → State}
    (h : ∀ a s, Reaction s (handle a s)) (xfer : Nat) (s : State) :
    FaultsHeld s (event (onReadComplete kind handle xfer) s) :=
  faultsHeld_event (faultsHeld_ite (faultsHeld_onReport (fun a s => (h a s).faultsHeld) xfer s) (.refl s))

/-- An admin command is not taken, or its checks and its effect run on a state with the same fault unit, and what
follows them is a reaction. -/
theorem takeCommand_runs (row : Nat → Bool) (run : Entry → State → State) (xfer : Nat) (e : Entry) (s : State) :
    FaultsHeld s (takeCommand row run xfer e s) ∨
      ∃ u, u.faults = s.faults ∧ Reaction (run e u) (takeCommand row run xfer e s) := by
  have message : ∀ {u : State}, u.faults = s.faults → FaultsHeld s (adminMessage s.link.next u) :=
    fun same => (FaultsHeld.of_faults same).andThen (reaction_adminMessage _ _)
  unfold takeCommand event onReadComplete
  split
  · split
    · rcases onReport_cases TransferKind.asAdminRead (fun _ t => settle (run e (beginCommand e t))) xfer s with
        same | ⟨_, handled⟩
      · exact .inl (message same)
      · refine .inr ⟨beginCommand e (dropTransfer xfer s), ?_, ?_⟩
        · unfold beginCommand
          split <;> rfl
        · rw [handled]
          exact (reaction_settle _).trans (reaction_adminMessage _ _)
    · exact .inl (message rfl)
  · exact .inl (.refl s)

theorem faultsHeld_takeCommand {row : Nat → Bool} {run : Entry → State → State} (h : ∀ e s, FaultsHeld s (run e s))
    (xfer : Nat) (e : Entry) (s : State) : FaultsHeld s (takeCommand row run xfer e s) := by
  rcases takeCommand_runs row run xfer e s with held | ⟨u, same, reacted⟩
  · exact held
  · exact ((h e u).andThen reacted).after same

/-- A command that a FAILED device refuses. -/
theorem faultsHeld_operatingCommand {row : Nat → Bool} {value : Entry → State → BitVec 32}
    {run : Entry → State → State} (h : ∀ e s, FaultsHeld s (run e s)) (xfer : Nat) (e : Entry) (s : State) :
    FaultsHeld s (takeCommand row (fun e s => whileOperating (value e s) (run e) s) xfer e s) :=
  faultsHeld_takeCommand (fun e s => faultsHeld_ite (reaction_completeCommand _ _ s).faultsHeld (h e s)) xfer e s

/-- Such a command whose checks and effect are a reaction. -/
theorem faultsHeld_reactionCommand {row : Nat → Bool} {run : Entry → State → State} (h : ∀ e s, Reaction s (run e s))
    (xfer : Nat) (e : Entry) (s : State) :
    FaultsHeld s (takeCommand row (fun e => whileOperating 0 (run e)) xfer e s) :=
  faultsHeld_operatingCommand (fun e s => (h e s).faultsHeld) xfer e s

/-! ## Resets and registers -/

/-- The request of a function reset leaves the fault log, the policies and FAILED alone (R176, R181). -/
theorem faultsHeld_functionReset (s : State) : FaultsHeld s (functionReset s) :=
  have abandoned := ((reaction_abandonContexts (s.setResetPhase .functionReset)).trans
    (reaction_unheed (fun _ => true) _)).faultsHeldAfter (s := s) rfl
  have dropped : FaultsHeld s (dropAtReset (s.setResetPhase .functionReset)) := abandoned.trans (.of_faults rfl)
  dropped.andThen ((reaction_releaseSlotsWith reaction_raiseFault _ _).trans (reaction_drainingCheck _))

theorem faultsHeld_registerWrite {f : State → State} (h : FaultsHeld s (f s)) : FaultsHeld s (registerWrite f s) :=
  faultsHeld_ite (faultsHeld_event h) (.refl s)

theorem faultsHeld_writeDevControl (enable msgEn : Bool) (s : State) : FaultsHeld s (writeDevControl enable msgEn s) :=
  have opened : ∀ u, FaultsHeld u (openAdmin u) := fun _ =>
    faultsHeld_ite (((reaction_postPending _).trans (reaction_considerAdminRead _)).faultsHeldAfter rfl)
      (.of_faults rfl)
  faultsHeld_ite ((opened _).after rfl) (.of_faults rfl)

/-! ## Takes -/

theorem faultsHeld_takeFrom (r : RingId) (s : State) : FaultsHeld s (takeFrom r s) := by
  have carried : ∀ j u, FaultsHeld u (carryOut r j u) := fun j u => by
    cases j with
    | answered posts faults => exact ((reaction_postUnit r posts u).trans (reaction_raiseFaults faults _)).faultsHeld
    | accepted ms => exact .of_faults (handToContext_faults r ms u)
  unfold takeFrom
  split
  · exact .refl s
  · split
    · exact .refl s
    · exact ((carried _ _).after (unitTaken_faults r _ _ s)).andThen (reaction_settle _)

theorem faultsHeld_takeUnit (k : UnitKind) (s : State) : FaultsHeld s (takeUnit k s) := by
  unfold takeUnit
  split
  · next r s1 h =>
    have chosen : s1.faults = s.faults := by
      rcases arbitrate_state h with rfl | rfl <;> rfl
    exact faultsHeld_ite ((faultsHeld_event (faultsHeld_takeFrom r s1)).after chosen) (.refl s)
  · exact .refl s

theorem freeSlot_faults (k : SlotId) (s : State) : (freeSlot k s).faults = s.faults := rfl

theorem faultsHeld_failStoreRead (c : CtxId) (s : State) : FaultsHeld s (failStoreRead c s) := by
  unfold failStoreRead
  split
  · exact .refl s
  · have ended : ∀ x, FaultsHeld s (endContext c (s.setContext c x)) := fun x =>
      (reaction_endContext c (s.setContext c x)).faultsHeldAfter rfl
    refine FaultsHeld.andThen ?_ (reaction_settle _)
    split
    · exact (ended _).andThen (reaction_raiseFaults _ _)
    · exact ((ended _).andThen (reaction_failContexts _ _ _ _)).trans
        ((reaction_raiseFaults _ _).faultsHeldAfter (freeSlot_faults _ _))

/-! ## Commits -/

theorem faultsHeld_finishCommit (c : CtxId) (x : Context) (ms : List Member) (s : State) :
    FaultsHeld s (finishCommit c x ms s) :=
  have left : FaultsHeld s (leaveQueues c (s.setContext c (some (x.committed ms)))) :=
    (reaction_leaveQueues c _).faultsHeldAfter rfl
  (faultsHeld_ite (left.andThen (reaction_endContext c _)) (left.andThen (reaction_issueImages c 0 ms _))).andThen
    (reaction_settle _)

theorem faultsHeld_applyAll (c : CtxId) (x : Context) (vs : List Evaluated) (s : State) :
    FaultsHeld s (applyAll c x vs s) :=
  (faultsHeld_finishCommit c x _ _).after ((consultProbes_faults x.ring vs _).trans (applyMembers_faults x vs s))

theorem faultsHeld_commitUpdate (c : CtxId) (x : Context) (s : State) : FaultsHeld s (commitUpdate c x s) := by
  unfold commitUpdate
  split
  · exact faultsHeld_applyAll c x _ s
  · exact .refl s

theorem faultsHeld_commitFetch (c : CtxId) (x : Context) (s : State) : FaultsHeld s (commitFetch c x s) := by
  unfold commitFetch
  split
  · exact faultsHeld_finishCommit c x _ s
  · exact .refl s

theorem faultsHeld_commitBundle (c : CtxId) (x : Context) (s : State) : FaultsHeld s (commitBundle c x s) := by
  unfold commitBundle
  split
  · exact faultsHeld_ite (faultsHeld_applyAll c x _ s) (faultsHeld_finishCommit c x _ s)
  · exact .refl s

theorem faultsHeld_commitStore (c : CtxId) (x : Context) (s : State) : FaultsHeld s (commitStore c x s) := by
  unfold commitStore
  split
  · next m data _ _ =>
    obtain ⟨cache, image⟩ := storeImage_cache x m.source data s
    rw [image]
    exact (faultsHeld_finishCommit c x _ _).after rfl
  · exact .refl s

theorem faultsHeld_commitOn {kind : Context → Bool} {effect : CtxId → Context → State → State}
    (h : ∀ c x s, FaultsHeld s (effect c x s)) (c : CtxId) (s : State) : FaultsHeld s (commitOn kind effect c s) := by
  unfold commitOn
  split
  · exact .refl s
  · refine faultsHeld_ite (faultsHeld_event ?_) (.refl s)
    split
    · exact (reaction_raiseSettled _ s).faultsHeld
    · exact h c _ s

/-! ## The ends of jobs -/

theorem faultsHeld_completeFill (k : SlotId) (n : Nat) (errors : Vector WordErrors 4) (s : State) :
    FaultsHeld s (completeFill k n errors s) := by
  have resident : ∀ y image corrected u, FaultsHeld u (residentFill k y image corrected u) := fun _ _ _ _ =>
    faultsHeld_ite (.of_faults rfl) (.of_faults rfl)
  have ended : FaultsHeld s (s.setStore (s.store.endFill k n errors)) := .of_faults rfl
  unfold completeFill
  dsimp only
  split
  · exact ended
  · have entered := fun y image corrected => ended.trans (resident y image corrected _)
    exact (faultsHeld_ite (entered _ _ _) ((entered _ _ _).andThen (reaction_raiseFault _ _))).andThen
      (reaction_settle _)

theorem faultsHeld_failFill (k : SlotId) (n : Nat) (errors : Vector WordErrors 4) (s : State) :
    FaultsHeld s (failFill k n errors s) := by
  unfold failFill
  dsimp only
  split
  · exact .of_faults rfl
  · exact (((reaction_failContexts _ _ _ _).trans (reaction_raiseFaults _ _)).trans
      (reaction_settle _)).faultsHeldAfter (freeSlot_faults k _)

theorem faultsHeld_afterWriteBack (k : SlotId) (y : Slot) (content : Resident) (s : State) :
    FaultsHeld s (afterWriteBack k y content s) :=
  have ended := (reaction_awaitedEnd k s).faultsHeld
  faultsHeld_ite (faultsHeld_ite (ended.trans (.of_faults (freeSlot_faults k _))) ended)
    (faultsHeld_ite (ended.andThen (reaction_startWriteBack k _)) ended)

theorem faultsHeld_completeWriteBack (k : SlotId) (n : Nat) (lanes : Record) (set : LaneSet) (s : State) :
    FaultsHeld s (completeWriteBack k n lanes set s) := by
  unfold completeWriteBack
  dsimp only
  split
  · exact .of_faults rfl
  · split
    · exact ((faultsHeld_afterWriteBack k _ _ _).andThen (reaction_settle _)).after rfl
    · exact .of_faults rfl

theorem faultsHeld_completeRegionFill (first last : Nat) (pattern : Record) (next : Nat) (s : State) :
    FaultsHeld s (completeRegionFill first last pattern next s) := by
  unfold completeRegionFill finishDefine
  refine FaultsHeld.andThen ?_ (reaction_settle _)
  split
  · exact (reaction_completeCommand _ _ _).faultsHeldAfter rfl
  · exact .of_faults rfl

/-! ## Admin commands -/

theorem faultsHeld_refuse (st : AdminStatus) (s : State) : FaultsHeld s (refuse st s) :=
  (reaction_refuse st s).faultsHeld

theorem faultsHeld_failAdminRead (a : Unit) (s : State) : FaultsHeld s (failAdminRead a s) :=
  have halted : (haltAdmin s).faults = s.faults := by
    unfold haltAdmin
    split <;> rfl
  ((reaction_postPending _).trans (reaction_raiseSettled _ _)).faultsHeldAfter halted

theorem faultsHeld_deleteWork (e : Entry) (s : State) : FaultsHeld s (deleteWork e s) := by
  unfold deleteWork
  split
  · split
    · exact faultsHeld_refuse _ s
    · exact ((reaction_setProgress _ _).trans (reaction_deleteCheck _ _)).faultsHeldAfter rfl
  · exact faultsHeld_refuse _ s

theorem faultsHeld_defineRegion (e : Entry) (s : State) : FaultsHeld s (defineRegion e s) := by
  have accepted : ∀ n rg, FaultsHeld s (defineAccepted e n rg s) := fun _ _ =>
    faultsHeld_ite ((reaction_setProgress _ _).faultsHeldAfter rfl) ((reaction_done _).faultsHeldAfter rfl)
  unfold defineRegion
  split
  · exact faultsHeld_ite (faultsHeld_refuse _ s)
      (faultsHeld_ite (faultsHeld_refuse _ s) (faultsHeld_ite (faultsHeld_refuse _ s) (accepted _ _)))
  · exact faultsHeld_refuse _ s

theorem faultsHeld_retireRegion (e : Entry) (s : State) : FaultsHeld s (retireRegion e s) := by
  unfold retireRegion
  split
  · exact faultsHeld_refuse _ s
  · exact faultsHeld_ite (faultsHeld_refuse _ s)
      (((reaction_setProgress _ _).trans (reaction_retireCheck _)).faultsHeldAfter rfl)

theorem faultsHeld_armProbe (e : Entry) (s : State) : FaultsHeld s (armProbe e s) := by
  unfold armProbe
  dsimp only
  split
  · exact faultsHeld_ite (faultsHeld_refuse _ s)
      (faultsHeld_ite (faultsHeld_refuse _ s) ((reaction_done _).faultsHeldAfter rfl))
  · exact faultsHeld_refuse _ s

theorem faultsHeld_disarmProbe (e : Entry) (s : State) : FaultsHeld s (disarmProbe e s) := by
  unfold disarmProbe
  split
  · exact faultsHeld_refuse _ s
  · split
    · exact (reaction_finishCommand _ _ _).faultsHeldAfter rfl
    all_goals exact (reaction_done _).faultsHeldAfter rfl

theorem faultsHeld_setCleaner (e : Entry) (s : State) : FaultsHeld s (setCleaner e s) :=
  faultsHeld_ite (reaction_completeCommand _ _ s).faultsHeld
    (((reaction_cleanNow _).trans (reaction_completeCommand _ _ _)).faultsHeldAfter rfl)

/-! ## The commands that override what is recorded -/

/-- What a command itself may do to the fault unit, besides the faults that it raises: a power-on reset anything, the
end of a function reset to FAILED, RELEASE_FAULT_LOG to the log, SET_FAULT_POLICY to the policies (R176, R178, R180,
R181), and every other command nothing. -/
def FaultUnit.OverriddenBy (c : Instr) (a b : FaultUnit) : Prop :=
  match c with
  | .powerOnReset .. => True
  | .resetEnd => b = a ∨ b = { a with failed := false }
  | .releaseFaultLog .. => b = a ∨ ∃ clearSeen, b = a.released clearSeen
  | .setFaultPolicy .. => b = a ∨ ∃ policies, b = { a with policies := policies }
  | _ => b = a

theorem FaultUnit.overriddenBy_self (c : Instr) (a : FaultUnit) : FaultUnit.OverriddenBy c a a := by
  cases c with
  | powerOnReset => trivial
  | resetEnd | releaseFaultLog | setFaultPolicy => exact .inl rfl
  | _ => rfl

theorem overriddenBy_whileOperating {value : BitVec 32} {run : State → State}
    (h : FaultUnit.OverriddenBy c u.faults (run u).faults) :
    FaultUnit.OverriddenBy c u.faults (whileOperating value run u).faults := by
  unfold whileOperating
  split
  · rw [completeCommand_faults]
    exact FaultUnit.overriddenBy_self c _
  · exact h

theorem overriddenBy_releaseLog (xfer : Nat) (e : Entry) (u : State) :
    FaultUnit.OverriddenBy (.releaseFaultLog xfer e) u.faults (releaseLog e u).faults := by
  unfold releaseLog refuse
  split <;> rw [completeCommand_faults]
  · exact .inl rfl
  · exact .inr ⟨_, rfl⟩

theorem overriddenBy_setPolicy (xfer : Nat) (e : Entry) (u : State) :
    FaultUnit.OverriddenBy (.setFaultPolicy xfer e) u.faults (setPolicy e u).faults := by
  unfold setPolicy
  split
  · split <;> rw [completeCommand_faults]
    · exact .inl rfl
    · exact .inr ⟨_, rfl⟩
  · rw [completeCommand_faults]
    exact .inl rfl

/-! ## Every command -/

/-- The next state that a command answers, where it answers one, forgets nothing of the fault unit but what the command
itself overrides. -/
def AnswersHeld (c : Instr) (s : State) (o : Result) : Prop :=
  ∀ t, o = .next t → ∃ u, FaultUnit.OverriddenBy c s.faults u.faults ∧ FaultsHeld u t

theorem AnswersHeld.override (own : FaultUnit.OverriddenBy c s.faults u.faults) (h : FaultsHeld u t) :
    AnswersHeld c s (.next t) := fun _ e => by
  cases e
  exact ⟨u, own, h⟩

theorem AnswersHeld.next (h : FaultsHeld s t) : AnswersHeld c s (.next t) :=
  .override (FaultUnit.overriddenBy_self c _) h

theorem AnswersHeld.withinStore {n : Nat} (h : FaultsHeld s t) : AnswersHeld c s (withinStore s n t) := fun _ e =>
  ⟨s, FaultUnit.overriddenBy_self c _, (withinStore_next e).2 ▸ h⟩

theorem answersHeld_ite {p : Prop} [Decidable p] (h : AnswersHeld c s o) (h' : AnswersHeld c s o') :
    AnswersHeld c s (if p then o else o') := by
  split
  · exact h
  · exact h'

/-- A command that is taken from the admin ring and overrides what its checks allow. -/
theorem answersHeld_takeCommand {row : Nat → Bool} {run : Entry → State → State} {xfer : Nat} {e : Entry}
    (h : ∀ u, FaultUnit.OverriddenBy c u.faults (run e u).faults) :
    AnswersHeld c s (.next (takeCommand row run xfer e s)) := by
  rcases takeCommand_runs row run xfer e s with held | ⟨u, same, reacted⟩
  · exact .next held
  · exact .override (same ▸ h u) reacted.faultsHeld

theorem answersHeld_fillComplete (k : SlotId) (errors : Vector WordErrors 4) (s : State) :
    AnswersHeld c s (execFillComplete k errors s) := by
  unfold execFillComplete
  split
  · exact .next (.refl s)
  · exact answersHeld_ite (.withinStore (faultsHeld_event (faultsHeld_completeFill k _ errors s))) (.next (.refl s))

theorem answersHeld_fillUncorrectable (k : SlotId) (errors : Vector WordErrors 4) (s : State) :
    AnswersHeld c s (execFillUncorrectable k errors s) := by
  unfold execFillUncorrectable
  split
  · exact .next (.refl s)
  · exact answersHeld_ite (.next (.refl s)) (.withinStore (faultsHeld_event (faultsHeld_failFill k _ errors s)))

theorem answersHeld_writeBackComplete (k : SlotId) (s : State) : AnswersHeld c s (execWriteBackComplete k s) := by
  unfold execWriteBackComplete
  split
  · exact .next (.refl s)
  · exact .withinStore (faultsHeld_event (faultsHeld_completeWriteBack k _ _ _ s))

theorem answersHeld_regionFillComplete (s : State) : AnswersHeld c s (execRegionFillComplete s) := by
  unfold execRegionFillComplete
  split
  · exact .next (.refl s)
  · exact answersHeld_ite (.next (.refl s)) (.withinStore (faultsHeld_event (faultsHeld_completeRegionFill _ _ _ _ s)))

theorem answersHeld_regionFillStopped (current : Nat) (s : State) :
    AnswersHeld c s (execRegionFillStopped current s) := by
  unfold execRegionFillStopped
  split
  · exact .next (.refl s)
  · exact answersHeld_ite (.withinStore (t := stopRegionFill _ _ current s) (.of_faults rfl)) (.next (.refl s))

/-- Every command forgets nothing of the fault unit but what it overrides itself. -/
theorem answersHeld_exec (c : Instr) (s : State) : AnswersHeld c s (exec c s) := by
  cases c with
  | powerOnReset sz1 sz0 => exact .override (u := powerOn sz1 sz0 s) trivial (.refl _)
  | powerOnReady => exact .next (faultsHeld_ite (.of_faults rfl) (.refl s))
  | linkReset => exact .next (faultsHeld_ite (faultsHeld_functionReset s) (.refl s))
  | reset enable msgEn => exact .next (faultsHeld_ite ((faultsHeld_functionReset _).after rfl) (.refl s))
  | resetEnd =>
    show AnswersHeld _ s (.next (if resetReported s then resetDone s else s))
    split
    · exact .override (u := resetDone s) (.inr rfl) (.refl _)
    · exact .next (.refl s)
  | enable msgEn => exact .next (faultsHeld_registerWrite (faultsHeld_writeDevControl true msgEn s))
  | adminMsgEn msgEn => exact .next (faultsHeld_registerWrite (faultsHeld_writeDevControl false msgEn s))
  | registerWrite offset width v =>
    exact .next (faultsHeld_registerWrite (faultsHeld_ite (.refl s) (.of_faults rfl)))
  | post r v => exact .next (faultsHeld_registerWrite (reaction_writePost r v s).faultsHeld)
  | adminPost v => exact .next (faultsHeld_registerWrite (reaction_writeAdminPost v s).faultsHeld)
  | release rr v => exact .next (faultsHeld_registerWrite (reaction_writeRelease rr v s).faultsHeld)
  | adminRelease v => exact .next (faultsHeld_registerWrite (reaction_writeAdminRelease v s).faultsHeld)
  | pendingNoticePost => exact .next (faultsHeld_event (reaction_postPending s).faultsHeld)
  | fetchReadIssue r => exact .next (reaction_issueFetch r s).faultsHeld
  | fetchReadComplete xfer entries =>
    exact .next (faultsHeld_ite (faultsHeld_readComplete (fun r => reaction_completeFetch entries r) xfer s) (.refl s))
  | fetchReadFailure xfer => exact .next (faultsHeld_report reaction_failFetch xfer s)
  | update | fetch | store | fence | nop | bundle | unknownOpcode => exact .next (faultsHeld_takeUnit _ s)
  | slotGrant => exact .next (reaction_grantHead s).faultsHeld
  | storeReadComplete xfer data =>
    exact .next (faultsHeld_readComplete (fun c => reaction_acceptStoreData data c) xfer s)
  | storeReadFailure xfer => exact .next (faultsHeld_event (faultsHeld_onReport faultsHeld_failStoreRead xfer s))
  | fillComplete k errors => exact answersHeld_fillComplete k errors s
  | fillUncorrectable k errors => exact answersHeld_fillUncorrectable k errors s
  | updateCommit c => exact .next (faultsHeld_commitOn faultsHeld_commitUpdate c s)
  | fetchCommit c => exact .next (faultsHeld_commitOn faultsHeld_commitFetch c s)
  | storeCommit c => exact .next (faultsHeld_commitOn faultsHeld_commitStore c s)
  | bundleCommit c => exact .next (faultsHeld_commitOn faultsHeld_commitBundle c s)
  | hostBufferWriteComplete xfer => exact .next (faultsHeld_report reaction_completeBuffer xfer s)
  | hostBufferWriteFailure xfer => exact .next (faultsHeld_report reaction_failBuffer xfer s)
  | resultWriteFailure xfer => exact .next (faultsHeld_report (fun _ => reaction_raiseSettled _) xfer s)
  | statusWriteComplete xfer =>
    exact .next (faultsHeld_report (fun w : Fin 16 × Nat => reaction_statusWritten w.1) xfer s)
  | statusWriteFailure xfer =>
    exact .next (faultsHeld_report
      (fun w : Fin 16 × Nat => reaction_statusFailed w.1 (statusWriteFault w.1 w.2)) xfer s)
  | coalescingExpiry rr => exact .next (faultsHeld_event (reaction_expireCoalescing rr s).faultsHeld)
  | stallExpiry rr => exact .next (faultsHeld_event (reaction_expireStall rr s).faultsHeld)
  | cleanerExpiry k =>
    exact .next (faultsHeld_ite
      (faultsHeld_event ((reaction_startWriteBack k s).trans (reaction_settle _)).faultsHeld) (.refl s))
  | writeBackComplete k => exact answersHeld_writeBackComplete k s
  | regionFillComplete => exact answersHeld_regionFillComplete s
  | regionFillStopped current => exact answersHeld_regionFillStopped current s
  | adminReadIssue => exact .next (faultsHeld_event (reaction_considerAdminRead s).faultsHeld)
  | adminReadFailure xfer => exact .next (faultsHeld_event (faultsHeld_onReport faultsHeld_failAdminRead xfer s))
  | invalidCommand xfer e => exact .next (faultsHeld_takeCommand (fun _ => faultsHeld_refuse _) xfer e s)
  | identify xfer e | readFaultLog xfer e | listPoison xfer e =>
    exact .next (faultsHeld_takeCommand (fun e s => (reaction_writeAdminBuffer e _ _ s).faultsHeld) xfer e s)
  | createResultRing xfer e => exact .next (faultsHeld_reactionCommand reaction_createResult xfer e s)
  | createWorkRing xfer e => exact .next (faultsHeld_reactionCommand reaction_createWork xfer e s)
  | deleteWorkRing xfer e => exact .next (faultsHeld_operatingCommand faultsHeld_deleteWork xfer e s)
  | deleteResultRing xfer e => exact .next (faultsHeld_reactionCommand reaction_deleteResult xfer e s)
  | pauseRing xfer e => exact .next (faultsHeld_reactionCommand reaction_pauseRing xfer e s)
  | resumeRing xfer e => exact .next (faultsHeld_reactionCommand reaction_resumeRing xfer e s)
  | defineRegion xfer e => exact .next (faultsHeld_operatingCommand faultsHeld_defineRegion xfer e s)
  | retireRegion xfer e => exact .next (faultsHeld_operatingCommand faultsHeld_retireRegion xfer e s)
  | flushRegion xfer e => exact .next (faultsHeld_reactionCommand reaction_flushRegion xfer e s)
  | armProbe xfer e => exact .next (faultsHeld_operatingCommand faultsHeld_armProbe xfer e s)
  | disarmProbe xfer e => exact .next (faultsHeld_operatingCommand faultsHeld_disarmProbe xfer e s)
  | releaseFaultLog xfer e =>
    exact answersHeld_takeCommand fun u => overriddenBy_whileOperating (overriddenBy_releaseLog xfer e u)
  | setFaultPolicy xfer e =>
    exact answersHeld_takeCommand fun u => overriddenBy_whileOperating (overriddenBy_setPolicy xfer e u)
  | setCleaner xfer e => exact .next (faultsHeld_operatingCommand faultsHeld_setCleaner xfer e s)
  | adminBufferWriteComplete xfer =>
    exact .next (faultsHeld_report (fun _ s => reaction_bufferWritten (bufferValue s) s) xfer s)
  | adminBufferWriteFailure xfer =>
    exact .next (faultsHeld_report (fun _ s => reaction_bufferFailed (adminBufferFault s) (bufferValue s) s) xfer s)
  | adminResultWriteFailure xfer => exact .next (faultsHeld_report (fun _ => reaction_raiseSettled _) xfer s)

/-! ## What each command overrides -/

variable {a b : FaultUnit}

theorem FaultUnit.OverriddenBy.log (h : FaultUnit.OverriddenBy c a b)
    (notRelease : ∀ xfer e, c ≠ .releaseFaultLog xfer e) (notPower : ∀ sz1 sz0, c ≠ .powerOnReset sz1 sz0) :
    b.capture = a.capture ∧ b.seen = a.seen := by
  cases c with
  | powerOnReset sz1 sz0 => exact absurd rfl (notPower sz1 sz0)
  | releaseFaultLog xfer e => exact absurd rfl (notRelease xfer e)
  | resetEnd => rcases h with rfl | rfl <;> exact ⟨rfl, rfl⟩
  | setFaultPolicy => rcases h with rfl | ⟨_, rfl⟩ <;> exact ⟨rfl, rfl⟩
  | _ => exact ⟨congrArg FaultUnit.capture h, congrArg FaultUnit.seen h⟩

theorem FaultUnit.OverriddenBy.failed_eq (h : FaultUnit.OverriddenBy c a b) (notEnd : c ≠ .resetEnd)
    (notPower : ∀ sz1 sz0, c ≠ .powerOnReset sz1 sz0) : b.failed = a.failed := by
  cases c with
  | powerOnReset sz1 sz0 => exact absurd rfl (notPower sz1 sz0)
  | resetEnd => exact absurd rfl notEnd
  | releaseFaultLog | setFaultPolicy => rcases h with rfl | ⟨_, rfl⟩ <;> rfl
  | _ => exact congrArg FaultUnit.failed h

theorem FaultUnit.OverriddenBy.policies_eq (h : FaultUnit.OverriddenBy c a b)
    (notSet : ∀ xfer e, c ≠ .setFaultPolicy xfer e) (notPower : ∀ sz1 sz0, c ≠ .powerOnReset sz1 sz0) :
    b.policies = a.policies := by
  cases c with
  | powerOnReset sz1 sz0 => exact absurd rfl (notPower sz1 sz0)
  | setFaultPolicy xfer e => exact absurd rfl (notSet xfer e)
  | resetEnd => rcases h with rfl | rfl <;> rfl
  | releaseFaultLog => rcases h with rfl | ⟨_, rfl⟩ <;> rfl
  | _ => exact congrArg FaultUnit.policies h

/-- Settles O11: only RELEASE_FAULT_LOG and a power-on reset override the capture, and a raised fault keeps the one that
stands. -/
theorem capturedFaultStays : Obligations.CapturedFaultStays := by
  intro c s t f answered captured notRelease notPower
  obtain ⟨u, own, held⟩ := answersHeld_exec c s t answered
  exact held.capture f ((own.log notRelease notPower).1.trans captured)

/-- Settles O12: only SET_FAULT_POLICY overrides the policies and only RELEASE_FAULT_LOG the seen-class set, a power-on
reset apart, and a raised fault can only add its class. -/
theorem policiesAndSeenClassesKept : Obligations.PoliciesAndSeenClassesKept := by
  intro c s t answered notPower
  obtain ⟨u, own, held⟩ := answersHeld_exec c s t answered
  exact ⟨fun notSet => held.policies.trans (own.policies_eq notSet notPower),
    fun notRelease => (own.log notRelease notPower).2 ▸ held.seen⟩

/-- Settles O13: only the end of a function reset and a power-on reset override FAILED, and no fault clears it. -/
theorem failedLeftOnlyByReset : Obligations.FailedLeftOnlyByReset := by
  intro c s t answered failed notEnd notPower
  obtain ⟨u, own, held⟩ := answersHeld_exec c s t answered
  exact held.failed ((own.failed_eq notEnd notPower).trans failed)

end FaultsRecorded

end Sys2Proof.Machine

/-! # The link's transfers stay in the order of their numbers (R182) -/

namespace Sys2Proof.Machine

section LinkStaysOrdered

variable {s t : State} {o o' : Result}

/-! ## Reports, events and commands

Whether the transfers are in order is a matter of the link alone, so that a state whose other fields were updated is
ordered by the same proof. -/

theorem linkOrdered_ite {p : Prop} [Decidable p] (ht : LinkOrdered s) (hu : LinkOrdered t) :
    LinkOrdered (if p then s else t) := by
  split
  · exact ht
  · exact hu

/-- The transfers that are left after one ends are a part of those before, in the same order. -/
theorem linkOrdered_dropTransfer (xfer : Nat) (q : LinkOrdered s) : LinkOrdered (dropTransfer xfer s) := by
  obtain ⟨sorted, below⟩ := q
  exact ⟨sorted.sublist (List.filter_sublist.map _), fun x hx => below x (List.mem_filter.1 hx).1⟩

theorem linkOrdered_event {f : State → State} (h : LinkOrdered s → LinkOrdered (f s)) (q : LinkOrdered s) :
    LinkOrdered (event f s) := (reaction_adminMessage _ _).linked (h q)

theorem linkOrdered_onReport {α : Type} {kind : TransferKind → Option α} {handle : α → State → State}
    (h : ∀ a s, LinkOrdered s → LinkOrdered (handle a s)) (xfer : Nat) (q : LinkOrdered s) :
    LinkOrdered (onReport kind handle xfer s) := by
  have dropped := linkOrdered_dropTransfer xfer q
  unfold onReport
  split
  · exact q
  · split
    · exact q
    · exact linkOrdered_ite (h _ _ dropped) dropped

/-- A report that a reaction handles, as an event. -/
theorem linkOrdered_report {α : Type} {kind : TransferKind → Option α} {handle : α → State → State}
    (h : ∀ a s, Reaction s (handle a s)) (xfer : Nat) (q : LinkOrdered s) :
    LinkOrdered (event (onReport kind handle xfer) s) :=
  linkOrdered_event (linkOrdered_onReport (fun a s => (h a s).linked) xfer) q

theorem linkOrdered_onReadComplete {α : Type} {kind : TransferKind → Option α} {handle : α → State → State}
    (h : ∀ a s, LinkOrdered s → LinkOrdered (handle a s)) (xfer : Nat) (q : LinkOrdered s) :
    LinkOrdered (onReadComplete kind handle xfer s) := linkOrdered_ite (linkOrdered_onReport h xfer q) q

/-- A read whose completion a reaction handles, as an event. -/
theorem linkOrdered_readComplete {α : Type} {kind : TransferKind → Option α} {handle : α → State → State}
    (h : ∀ a s, Reaction s (handle a s)) (xfer : Nat) (q : LinkOrdered s) :
    LinkOrdered (event (onReadComplete kind handle xfer) s) :=
  linkOrdered_event (linkOrdered_onReadComplete (fun a s => (h a s).linked) xfer) q

theorem linkOrdered_takeCommand {row : Nat → Bool} {run : Entry → State → State}
    (h : ∀ e s, LinkOrdered s → LinkOrdered (run e s)) (xfer : Nat) (e : Entry) (q : LinkOrdered s) :
    LinkOrdered (takeCommand row run xfer e s) :=
  linkOrdered_ite (linkOrdered_event (linkOrdered_onReadComplete (fun _ t ordered =>
    (reaction_settle _).linked (h e _ ((reaction_beginCommand e t).linked ordered))) xfer) q) q

/-- A command that a FAILED device refuses. -/
theorem linkOrdered_operatingCommand {row : Nat → Bool} {value : Entry → State → BitVec 32}
    {run : Entry → State → State} (h : ∀ e s, LinkOrdered s → LinkOrdered (run e s)) (xfer : Nat) (e : Entry)
    (q : LinkOrdered s) : LinkOrdered (takeCommand row (fun e s => whileOperating (value e s) (run e) s) xfer e s) :=
  linkOrdered_takeCommand
    (fun e s ordered => linkOrdered_ite ((reaction_completeCommand _ _ s).linked ordered) (h e s ordered)) xfer e q

/-- Such a command whose checks and effect are a reaction. -/
theorem linkOrdered_reactionCommand {row : Nat → Bool} {run : Entry → State → State}
    (h : ∀ e s, Reaction s (run e s)) (xfer : Nat) (e : Entry) (q : LinkOrdered s) :
    LinkOrdered (takeCommand row (fun e => whileOperating 0 (run e)) xfer e s) :=
  linkOrdered_operatingCommand (fun e s => (h e s).linked) xfer e q

/-! ## Resets and registers -/

/-- A power-on reset keeps the transfers of before, unheeded. -/
theorem linkOrdered_powerOn (sz1 sz0 : Bool) (q : LinkOrdered s) : LinkOrdered (powerOn sz1 sz0 s) :=
  (reaction_unheed (fun _ => true) s).linked q

theorem linkOrdered_functionReset (q : LinkOrdered s) : LinkOrdered (functionReset s) := by
  have unheeded := (reaction_abandonContexts (s.setResetPhase .functionReset)).trans (reaction_unheed (fun _ => true) _)
  have dropped : LinkOrdered (dropAtReset (s.setResetPhase .functionReset)) := unheeded.linked q
  exact ((reaction_releaseSlotsWith reaction_raiseFault _ _).trans (reaction_drainingCheck _)).linked dropped

theorem linkOrdered_registerWrite {f : State → State} (h : LinkOrdered s → LinkOrdered (f s)) (q : LinkOrdered s) :
    LinkOrdered (registerWrite f s) := linkOrdered_ite (linkOrdered_event h q) q

theorem linkOrdered_writeDevControl (enable msgEn : Bool) (q : LinkOrdered s) :
    LinkOrdered (writeDevControl enable msgEn s) := by
  have opened : ∀ u, LinkOrdered u → LinkOrdered (openAdmin u) := fun u ordered =>
    linkOrdered_ite (((reaction_postPending _).trans (reaction_considerAdminRead _)).linked ordered) ordered
  exact linkOrdered_ite (opened _ q) q

/-! ## Takes -/

theorem linkOrdered_handToContext (r : RingId) (ms : List Member) (q : LinkOrdered s) :
    LinkOrdered (handToContext r ms s) := by
  unfold handToContext
  split
  · unfold beginStoreRead
    split
    · exact linkOrdered_ite ((reaction_issueRead _ _ _ _).linked q) q
    · exact q
  · exact q

theorem linkOrdered_carryOut (r : RingId) (j : Judgement) (q : LinkOrdered s) : LinkOrdered (carryOut r j s) := by
  cases j with
  | answered posts faults => exact ((reaction_postUnit r posts s).trans (reaction_raiseFaults faults _)).linked q
  | accepted ms => exact linkOrdered_handToContext r ms q

theorem linkOrdered_unitTaken (r : RingId) (w : WorkRing) (n : Nat) (q : LinkOrdered s) :
    LinkOrdered (unitTaken r w n s) := by
  unfold unitTaken reserve
  split <;> exact q

theorem linkOrdered_takeFrom (r : RingId) (q : LinkOrdered s) : LinkOrdered (takeFrom r s) := by
  unfold takeFrom
  split
  · exact q
  · split
    · exact q
    · exact (reaction_settle _).linked (linkOrdered_carryOut r _ (linkOrdered_unitTaken r _ _ q))

theorem linkOrdered_takeUnit (k : UnitKind) (q : LinkOrdered s) : LinkOrdered (takeUnit k s) := by
  unfold takeUnit
  split
  · next r s1 h =>
    have chosen : LinkOrdered s1 := by
      rcases arbitrate_state h with rfl | rfl <;> exact q
    exact linkOrdered_ite (linkOrdered_event (linkOrdered_takeFrom r) chosen) q
  · exact q

theorem linkOrdered_failStoreRead (c : CtxId) (s : State) (q : LinkOrdered s) : LinkOrdered (failStoreRead c s) := by
  unfold failStoreRead
  split
  · exact q
  · next x _ =>
    have ended := reaction_endContext c (s.setContext c (some x.hostFaulted))
    refine (reaction_settle _).linked ?_
    split
    · exact (ended.trans (reaction_raiseFaults _ _)).linked q
    · next k record others _ =>
      have left := (ended.trans (reaction_failContexts [record] .poisoned others _)).linked q
      exact (reaction_raiseFaults _ _).linked (s := freeSlot k _) left

/-! ## Commits -/

/-- The notices that HIT probes cause are reactions. -/
theorem linkOrdered_consultProbes (r : RingId) (vs : List Evaluated) (q : LinkOrdered s) :
    LinkOrdered (consultProbes r vs s) := by
  rw [(consultProbes_spec r vs s).2]
  exact (Reaction.foldl (fun s p => reaction_raiseNotice (.probeHit p) s) _ _).linked q

theorem linkOrdered_finishCommit (c : CtxId) (x : Context) (ms : List Member) (q : LinkOrdered s) :
    LinkOrdered (finishCommit c x ms s) := by
  have left := (reaction_leaveQueues c (s.setContext c (some (x.committed ms)))).linked q
  exact (reaction_settle _).linked
    (linkOrdered_ite ((reaction_endContext c _).linked left) ((reaction_issueImages c 0 ms _).linked left))

theorem linkOrdered_applyAll (c : CtxId) (x : Context) (vs : List Evaluated) (q : LinkOrdered s) :
    LinkOrdered (applyAll c x vs s) :=
  linkOrdered_finishCommit c x _
    (linkOrdered_consultProbes x.ring vs ((Reaction.foldl (reaction_applyMember x) vs s).linked q))

theorem linkOrdered_commitUpdate (c : CtxId) (x : Context) (s : State) (q : LinkOrdered s) :
    LinkOrdered (commitUpdate c x s) := by
  unfold commitUpdate
  split
  · exact linkOrdered_applyAll c x _ q
  · exact q

theorem linkOrdered_commitFetch (c : CtxId) (x : Context) (s : State) (q : LinkOrdered s) :
    LinkOrdered (commitFetch c x s) := by
  unfold commitFetch
  split
  · exact linkOrdered_finishCommit c x _ q
  · exact q

theorem linkOrdered_commitBundle (c : CtxId) (x : Context) (s : State) (q : LinkOrdered s) :
    LinkOrdered (commitBundle c x s) := by
  unfold commitBundle
  split
  · exact linkOrdered_ite (linkOrdered_applyAll c x _ q) (linkOrdered_finishCommit c x _ q)
  · exact q

theorem linkOrdered_commitStore (c : CtxId) (x : Context) (s : State) (q : LinkOrdered s) :
    LinkOrdered (commitStore c x s) := by
  unfold commitStore
  split
  · next m data _ _ =>
    obtain ⟨cache, image⟩ := storeImage_cache x m.source data s
    rw [image]
    exact linkOrdered_finishCommit c x _ q
  · exact q

theorem linkOrdered_commitOn {kind : Context → Bool} {effect : CtxId → Context → State → State}
    (h : ∀ c x s, LinkOrdered s → LinkOrdered (effect c x s)) (c : CtxId) (q : LinkOrdered s) :
    LinkOrdered (commitOn kind effect c s) := by
  unfold commitOn
  split
  · exact q
  · next x _ =>
    refine linkOrdered_ite (linkOrdered_event (fun _ => ?_) q) q
    split
    · exact (reaction_raiseSettled _ s).linked q
    · exact h c x s q

/-! ## The ends of jobs -/

theorem linkOrdered_residentFill (k : SlotId) (y : Slot) (image : Record) (corrected : Bool) (q : LinkOrdered s) :
    LinkOrdered (residentFill k y image corrected s) := linkOrdered_ite q q

theorem linkOrdered_completeFill (k : SlotId) (n : Nat) (errors : Vector WordErrors 4) (q : LinkOrdered s) :
    LinkOrdered (completeFill k n errors s) := by
  unfold completeFill
  dsimp only
  split
  · exact q
  · next y _ =>
    have resident := fun image corrected =>
      linkOrdered_residentFill (s := s.setStore (s.store.endFill k n errors)) k y image corrected q
    exact (reaction_settle _).linked (linkOrdered_ite (resident _ _) ((reaction_raiseFault _ _).linked (resident _ _)))

theorem linkOrdered_failFill (k : SlotId) (n : Nat) (errors : Vector WordErrors 4) (q : LinkOrdered s) :
    LinkOrdered (failFill k n errors s) := by
  unfold failFill
  dsimp only
  split
  · exact q
  · exact (((reaction_failContexts _ _ _ _).trans (reaction_raiseFaults _ _)).trans (reaction_settle _)).linked q

theorem linkOrdered_afterWriteBack (k : SlotId) (y : Slot) (content : Resident) (q : LinkOrdered s) :
    LinkOrdered (afterWriteBack k y content s) := by
  have ended := (reaction_awaitedEnd k s).linked q
  exact linkOrdered_ite (linkOrdered_ite ended ended)
    (linkOrdered_ite ((reaction_startWriteBack k _).linked ended) ended)

theorem linkOrdered_completeWriteBack (k : SlotId) (n : Nat) (lanes : Record) (set : LaneSet) (q : LinkOrdered s) :
    LinkOrdered (completeWriteBack k n lanes set s) := by
  unfold completeWriteBack
  dsimp only
  split
  · exact q
  · split
    · exact (reaction_settle _).linked (linkOrdered_afterWriteBack (s := (s.setStore _).setSlot _ _) k _ _ q)
    · exact q

theorem linkOrdered_completeRegionFill (first last : Nat) (pattern : Record) (next : Nat) (q : LinkOrdered s) :
    LinkOrdered (completeRegionFill first last pattern next s) := by
  unfold completeRegionFill finishDefine
  refine (reaction_settle _).linked ?_
  split
  · exact (reaction_completeCommand _ _ _).linked q
  · exact q

/-! ## Admin commands -/

theorem linkOrdered_refuse (st : AdminStatus) (q : LinkOrdered s) : LinkOrdered (refuse st s) :=
  (reaction_refuse st s).linked q

theorem linkOrdered_failAdminRead (a : Unit) (s : State) (q : LinkOrdered s) : LinkOrdered (failAdminRead a s) := by
  have halted : LinkOrdered (haltAdmin s) := by
    unfold haltAdmin
    split <;> exact q
  exact ((reaction_postPending _).trans (reaction_raiseSettled _ _)).linked halted

theorem linkOrdered_deleteWork (e : Entry) (s : State) (q : LinkOrdered s) : LinkOrdered (deleteWork e s) := by
  unfold deleteWork
  split
  · split
    · exact linkOrdered_refuse _ q
    · exact ((reaction_setProgress _ _).trans (reaction_deleteCheck _ _)).linked q
  · exact linkOrdered_refuse _ q

theorem linkOrdered_defineRegion (e : Entry) (s : State) (q : LinkOrdered s) : LinkOrdered (defineRegion e s) := by
  have accepted : ∀ n rg, LinkOrdered (defineAccepted e n rg s) := fun _ _ =>
    linkOrdered_ite ((reaction_setProgress _ _).linked q) ((reaction_done _).linked q)
  unfold defineRegion
  split
  · exact linkOrdered_ite (linkOrdered_refuse _ q)
      (linkOrdered_ite (linkOrdered_refuse _ q) (linkOrdered_ite (linkOrdered_refuse _ q) (accepted _ _)))
  · exact linkOrdered_refuse _ q

theorem linkOrdered_retireRegion (e : Entry) (s : State) (q : LinkOrdered s) : LinkOrdered (retireRegion e s) := by
  unfold retireRegion
  split
  · exact linkOrdered_refuse _ q
  · exact linkOrdered_ite (linkOrdered_refuse _ q)
      (((reaction_setProgress _ _).trans (reaction_retireCheck _)).linked q)

theorem linkOrdered_armProbe (e : Entry) (s : State) (q : LinkOrdered s) : LinkOrdered (armProbe e s) := by
  unfold armProbe
  dsimp only
  split
  · exact linkOrdered_ite (linkOrdered_refuse _ q)
      (linkOrdered_ite (linkOrdered_refuse _ q) ((reaction_done _).linked q))
  · exact linkOrdered_refuse _ q

theorem linkOrdered_disarmProbe (e : Entry) (s : State) (q : LinkOrdered s) : LinkOrdered (disarmProbe e s) := by
  unfold disarmProbe
  split
  · exact linkOrdered_refuse _ q
  · split
    · exact (reaction_finishCommand _ _ _).linked q
    all_goals exact (reaction_done _).linked q

theorem linkOrdered_releaseLog (e : Entry) (s : State) (q : LinkOrdered s) : LinkOrdered (releaseLog e s) :=
  linkOrdered_ite (linkOrdered_refuse _ q) ((reaction_completeCommand _ _ _).linked q)

theorem linkOrdered_setPolicy (e : Entry) (s : State) (q : LinkOrdered s) : LinkOrdered (setPolicy e s) := by
  have refused := (reaction_completeCommand .invalidParameter (policyValue e s.faults) s).linked q
  unfold setPolicy
  split
  · exact linkOrdered_ite refused ((reaction_completeCommand _ _ _).linked q)
  · exact refused

theorem linkOrdered_setCleaner (e : Entry) (s : State) (q : LinkOrdered s) : LinkOrdered (setCleaner e s) :=
  linkOrdered_ite ((reaction_completeCommand _ _ _).linked q)
    (((reaction_cleanNow _).trans (reaction_completeCommand _ _ _)).linked q)

/-! ## Every command -/

/-- The next state that a command answers, where it answers one, has its transfers in order. -/
def AnswersOrdered (o : Result) : Prop := ∀ t, o = .next t → LinkOrdered t

theorem AnswersOrdered.next (q : LinkOrdered s) : AnswersOrdered (.next s) := fun _ e => by
  cases e
  exact q

theorem AnswersOrdered.withinStore {n : Nat} (q : LinkOrdered t) : AnswersOrdered (withinStore s n t) := fun _ e =>
  (withinStore_next e).2 ▸ q

theorem answersOrdered_ite {p : Prop} [Decidable p] (h : AnswersOrdered o) (h' : AnswersOrdered o') :
    AnswersOrdered (if p then o else o') := by
  split
  · exact h
  · exact h'

theorem answersOrdered_fillComplete (k : SlotId) (errors : Vector WordErrors 4) (q : LinkOrdered s) :
    AnswersOrdered (execFillComplete k errors s) := by
  unfold execFillComplete
  split
  · exact .next q
  · exact answersOrdered_ite (.withinStore (linkOrdered_event (linkOrdered_completeFill k _ errors) q)) (.next q)

theorem answersOrdered_fillUncorrectable (k : SlotId) (errors : Vector WordErrors 4) (q : LinkOrdered s) :
    AnswersOrdered (execFillUncorrectable k errors s) := by
  unfold execFillUncorrectable
  split
  · exact .next q
  · exact answersOrdered_ite (.next q) (.withinStore (linkOrdered_event (linkOrdered_failFill k _ errors) q))

theorem answersOrdered_writeBackComplete (k : SlotId) (q : LinkOrdered s) :
    AnswersOrdered (execWriteBackComplete k s) := by
  unfold execWriteBackComplete
  split
  · exact .next q
  · exact .withinStore (linkOrdered_event (linkOrdered_completeWriteBack k _ _ _) q)

theorem answersOrdered_regionFillComplete (q : LinkOrdered s) : AnswersOrdered (execRegionFillComplete s) := by
  unfold execRegionFillComplete
  split
  · exact .next q
  · exact answersOrdered_ite (.next q) (.withinStore (linkOrdered_event (linkOrdered_completeRegionFill _ _ _ _) q))

theorem answersOrdered_regionFillStopped (current : Nat) (q : LinkOrdered s) :
    AnswersOrdered (execRegionFillStopped current s) := by
  unfold execRegionFillStopped
  split
  · exact .next q
  · exact answersOrdered_ite (.withinStore (t := stopRegionFill _ _ current s) q) (.next q)

/-- Every command keeps the transfers in order. -/
theorem answersOrdered_exec (c : Instr) (q : LinkOrdered s) : AnswersOrdered (exec c s) := by
  cases c with
  | powerOnReset sz1 sz0 => exact .next (linkOrdered_powerOn sz1 sz0 q)
  | powerOnReady => exact .next (linkOrdered_ite (s := powerOnDone s) q q)
  | linkReset => exact .next (linkOrdered_ite (linkOrdered_functionReset q) q)
  | reset enable msgEn => exact .next (linkOrdered_ite (linkOrdered_functionReset (s := s.setRegs _) q) q)
  | resetEnd => exact .next (linkOrdered_ite (s := resetDone s) q q)
  | enable msgEn => exact .next (linkOrdered_registerWrite (linkOrdered_writeDevControl true msgEn) q)
  | adminMsgEn msgEn => exact .next (linkOrdered_registerWrite (linkOrdered_writeDevControl false msgEn) q)
  | registerWrite offset width v => exact .next (linkOrdered_registerWrite (fun q => linkOrdered_ite q q) q)
  | post r v => exact .next (linkOrdered_registerWrite (reaction_writePost r v s).linked q)
  | adminPost v => exact .next (linkOrdered_registerWrite (reaction_writeAdminPost v s).linked q)
  | release rr v => exact .next (linkOrdered_registerWrite (reaction_writeRelease rr v s).linked q)
  | adminRelease v => exact .next (linkOrdered_registerWrite (reaction_writeAdminRelease v s).linked q)
  | pendingNoticePost => exact .next (linkOrdered_event (reaction_postPending s).linked q)
  | fetchReadIssue r => exact .next ((reaction_issueFetch r s).linked q)
  | fetchReadComplete xfer entries =>
    exact .next (linkOrdered_ite (linkOrdered_readComplete (fun r => reaction_completeFetch entries r) xfer q) q)
  | fetchReadFailure xfer => exact .next (linkOrdered_report reaction_failFetch xfer q)
  | update | fetch | store | fence | nop | bundle | unknownOpcode => exact .next (linkOrdered_takeUnit _ q)
  | slotGrant => exact .next ((reaction_grantHead s).linked q)
  | storeReadComplete xfer data =>
    exact .next (linkOrdered_readComplete (fun c => reaction_acceptStoreData data c) xfer q)
  | storeReadFailure xfer => exact .next (linkOrdered_event (linkOrdered_onReport linkOrdered_failStoreRead xfer) q)
  | fillComplete k errors => exact answersOrdered_fillComplete k errors q
  | fillUncorrectable k errors => exact answersOrdered_fillUncorrectable k errors q
  | updateCommit c => exact .next (linkOrdered_commitOn linkOrdered_commitUpdate c q)
  | fetchCommit c => exact .next (linkOrdered_commitOn linkOrdered_commitFetch c q)
  | storeCommit c => exact .next (linkOrdered_commitOn linkOrdered_commitStore c q)
  | bundleCommit c => exact .next (linkOrdered_commitOn linkOrdered_commitBundle c q)
  | hostBufferWriteComplete xfer => exact .next (linkOrdered_report reaction_completeBuffer xfer q)
  | hostBufferWriteFailure xfer => exact .next (linkOrdered_report reaction_failBuffer xfer q)
  | resultWriteFailure xfer => exact .next (linkOrdered_report (fun _ => reaction_raiseSettled _) xfer q)
  | statusWriteComplete xfer =>
    exact .next (linkOrdered_report (fun w : Fin 16 × Nat => reaction_statusWritten w.1) xfer q)
  | statusWriteFailure xfer =>
    exact .next (linkOrdered_report
      (fun w : Fin 16 × Nat => reaction_statusFailed w.1 (statusWriteFault w.1 w.2)) xfer q)
  | coalescingExpiry rr => exact .next (linkOrdered_event (reaction_expireCoalescing rr s).linked q)
  | stallExpiry rr => exact .next (linkOrdered_event (reaction_expireStall rr s).linked q)
  | cleanerExpiry k =>
    exact .next (linkOrdered_ite
      (linkOrdered_event ((reaction_startWriteBack k s).trans (reaction_settle _)).linked q) q)
  | writeBackComplete k => exact answersOrdered_writeBackComplete k q
  | regionFillComplete => exact answersOrdered_regionFillComplete q
  | regionFillStopped current => exact answersOrdered_regionFillStopped current q
  | adminReadIssue => exact .next (linkOrdered_event (reaction_considerAdminRead s).linked q)
  | adminReadFailure xfer => exact .next (linkOrdered_event (linkOrdered_onReport linkOrdered_failAdminRead xfer) q)
  | invalidCommand xfer e => exact .next (linkOrdered_takeCommand (fun _ _ => linkOrdered_refuse _) xfer e q)
  | identify xfer e | readFaultLog xfer e | listPoison xfer e =>
    exact .next (linkOrdered_takeCommand (fun e s => (reaction_writeAdminBuffer e _ _ s).linked) xfer e q)
  | createResultRing xfer e => exact .next (linkOrdered_reactionCommand reaction_createResult xfer e q)
  | createWorkRing xfer e => exact .next (linkOrdered_reactionCommand reaction_createWork xfer e q)
  | deleteWorkRing xfer e => exact .next (linkOrdered_operatingCommand linkOrdered_deleteWork xfer e q)
  | deleteResultRing xfer e => exact .next (linkOrdered_reactionCommand reaction_deleteResult xfer e q)
  | pauseRing xfer e => exact .next (linkOrdered_reactionCommand reaction_pauseRing xfer e q)
  | resumeRing xfer e => exact .next (linkOrdered_reactionCommand reaction_resumeRing xfer e q)
  | defineRegion xfer e => exact .next (linkOrdered_operatingCommand linkOrdered_defineRegion xfer e q)
  | retireRegion xfer e => exact .next (linkOrdered_operatingCommand linkOrdered_retireRegion xfer e q)
  | flushRegion xfer e => exact .next (linkOrdered_reactionCommand reaction_flushRegion xfer e q)
  | armProbe xfer e => exact .next (linkOrdered_operatingCommand linkOrdered_armProbe xfer e q)
  | disarmProbe xfer e => exact .next (linkOrdered_operatingCommand linkOrdered_disarmProbe xfer e q)
  | releaseFaultLog xfer e => exact .next (linkOrdered_operatingCommand linkOrdered_releaseLog xfer e q)
  | setFaultPolicy xfer e => exact .next (linkOrdered_operatingCommand linkOrdered_setPolicy xfer e q)
  | setCleaner xfer e => exact .next (linkOrdered_operatingCommand linkOrdered_setCleaner xfer e q)
  | adminBufferWriteComplete xfer =>
    exact .next (linkOrdered_report (fun _ s => reaction_bufferWritten (bufferValue s) s) xfer q)
  | adminBufferWriteFailure xfer =>
    exact .next (linkOrdered_report (fun _ s => reaction_bufferFailed (adminBufferFault s) (bufferValue s) s) xfer q)
  | adminResultWriteFailure xfer => exact .next (linkOrdered_report (fun _ => reaction_raiseSettled _) xfer q)

/-- A microsecond leaves the link as it is. -/
theorem tick_link (s : State) : (tick s).link = s.link := by
  have upset : ∀ u, (applyUpset u s).link = s.link := fun u => by cases u <;> rfl
  unfold tick advanceRegionFill
  dsimp only
  split
  · exact upset _
  · split <;> exact upset _

/-- Settles O7: a new transfer takes the next number and joins at the end, and a transfer whose end is reported leaves
the others in their order. -/
theorem stepKeepsLinkOrdered : Obligations.StepKeepsLinkOrdered := by
  intro s t q h
  rcases step_cases h with rfl | ⟨c, rest, _, hc⟩
  · unfold LinkOrdered
    rw [tick_link]
    exact q
  · exact answersOrdered_exec c (s := { s with pending := rest }) q t hc

end LinkStaysOrdered

end Sys2Proof.Machine

/-! # The register window (R183, R184, R185, R186) -/

namespace Sys2Proof.Machine

section RegisterWindow

variable {s : State} {offset o : Nat}

/-! ## While a reset is under way -/

theorem registerWrite_of_resetting (resetting : s.resetPhase ≠ .operating) (f : State → State) :
    registerWrite f s = s := if_neg resetting

/-- Settles O16: every register write and every request of a function reset is guarded by the reset phase. -/
theorem writesIgnoredWhileResetting : Obligations.WritesIgnoredWhileResetting := by
  intro s resetting
  have ignored : ∀ f, Host.Outcome.next (registerWrite f s) = (.next s : Result) := fun f =>
    congrArg Host.Outcome.next (registerWrite_of_resetting resetting f)
  have joined : ∀ u : State, Host.Outcome.next (if s.resetPhase = .operating then u else s) = (.next s : Result) :=
    fun _ => congrArg Host.Outcome.next (if_neg resetting)
  exact ⟨fun _ _ => joined _, joined _, fun _ => ignored _, fun _ => ignored _, fun _ _ _ => ignored _,
    fun _ _ => ignored _, fun _ _ => ignored _, fun _ => ignored _, fun _ => ignored _⟩

/-! ## The two words of a 64-bit register (R183) -/

theorem words_append (x : BitVec 64) : x.extractLsb' 32 32 ++ x.extractLsb' 0 32 = x :=
  BitVec.extractLsb'_append_extractLsb'

theorem low_append (hi lo : BitVec 32) : (hi ++ lo).extractLsb' 0 32 = lo := by
  rw [BitVec.extractLsb'_append_eq_of_add_le (by decide), BitVec.extractLsb'_eq_self]

theorem high_append (hi lo : BitVec 32) : (hi ++ lo).extractLsb' 32 32 = hi := by
  rw [BitVec.extractLsb'_append_eq_of_le (by decide), BitVec.extractLsb'_eq_self]

/-- A 64-bit register takes two words of the window, the higher of which is the low word of no 64-bit register. -/
theorem config_of_wide : ∀ o ∈ wideOffsets, o ∈ configOffsets ∧ o + 4 ∈ configOffsets ∧ o + 4 ∉ wideOffsets := by
  decide

theorem readRegister64_eq (s : State) (o : Nat) : readRegister64 s o =
    if o ∈ wideOffsets then readRegister s (o + 4) ++ readRegister s o else 0 := by
  have wide : ∀ o ∈ wideOffsets, readRegister64 s o = readRegister s (o + 4) ++ readRegister s o := by
    simp [wideOffsets, readRegister64, readRegister, words_append]
  split
  · next ho => exact wide o ho
  · next ho =>
    unfold readRegister64
    split
    case h_5 => rfl
    all_goals exact absurd (by decide) ho

/-! ## Words written and read -/

/-- The bits of DEV_CONTROL and DEV_STATUS that the registers hold. -/
structure SameFlags (r r' : Registers) : Prop where
  enable : r'.enable = r.enable
  adminMsgEn : r'.adminMsgEn = r.adminMsgEn
  adminHalted : r'.adminHalted = r.adminHalted

/-- An offset that is no configuration register reads what does not depend on them. -/
theorem readRegister_of_flags {r : Registers} (h : SameFlags s.regs r) (ho : o ∉ configOffsets) :
    readRegister (s.setRegs r) o = readRegister s o := by
  have control : devControlValue (s.setRegs r) = devControlValue s := by
    simp only [devControlValue, State.setRegs_regs, h.enable, h.adminMsgEn]
  have status : devStatusValue (s.setRegs r) = devStatusValue s := by
    simp only [devStatusValue, State.setRegs_regs, State.setRegs_resetPhase, State.setRegs_faults, h.adminHalted]
  unfold readRegister
  split
  case h_1 => rfl
  case h_2 => exact control
  case h_3 => exact status
  case h_14 => rfl
  all_goals exact absurd (by decide) ho

theorem writeWord32_flags (r : Registers) (offset : Nat) (v : BitVec 32) : SameFlags r (writeWord32 r offset v) := by
  unfold writeWord32
  split <;> exact ⟨rfl, rfl, rfl⟩

theorem writeWord32_of_other {r : Registers} (h : offset ∉ configOffsets) (v : BitVec 32) :
    writeWord32 r offset v = r := by
  unfold writeWord32
  split
  case h_11 => rfl
  all_goals exact absurd (by decide) h

/-- The words of the configuration registers are ten cells: each reads what was last written to it. -/
theorem readRegister_configWord (s : State) (v : BitVec 32) : ∀ offset ∈ configOffsets, ∀ o ∈ configOffsets,
    readRegister (s.setRegs (writeWord32 s.regs offset v)) o = if o = offset then v else readRegister s o := by
  simp [configOffsets, readRegister, writeWord32, setHalf, low_append, high_append]

theorem readRegister_writeWord32 (s : State) (offset o : Nat) (v : BitVec 32) :
    readRegister (s.setRegs (writeWord32 s.regs offset v)) o =
      if o = offset ∧ o ∈ configOffsets then v else readRegister s o := by
  by_cases ho : o ∈ configOffsets
  · by_cases hw : offset ∈ configOffsets
    · simp only [readRegister_configWord s v offset hw o ho, ho, and_true]
    · rw [writeWord32_of_other hw, if_neg fun ⟨same, _⟩ => hw (same ▸ ho)]
      rfl
  · rw [readRegister_of_flags (writeWord32_flags _ _ _) ho, if_neg fun ⟨_, config⟩ => ho config]

theorem writeWord64_of_other {r : Registers} (h : offset ∉ wideOffsets) (v : BitVec 64) :
    writeWord64 r offset v = r := by
  unfold writeWord64
  split
  case h_5 => rfl
  all_goals exact absurd (by decide) h

/-- A 64-bit write writes both words. -/
theorem writeWord64_eq_words (r : Registers) (v : BitVec 64) : ∀ offset ∈ wideOffsets, writeWord64 r offset v =
    writeWord32 (writeWord32 r offset (v.extractLsb' 0 32)) (offset + 4) (v.extractLsb' 32 32) := by
  simp [wideOffsets, writeWord64, writeWord32, setHalf, low_append, words_append]

theorem readRegister_writeWord64 (s : State) (offset o : Nat) (v : BitVec 64) :
    readRegister (s.setRegs (writeWord64 s.regs offset v)) o =
      if offset ∈ wideOffsets ∧ o = offset then v.extractLsb' 0 32
      else if offset ∈ wideOffsets ∧ o = offset + 4 then v.extractLsb' 32 32
      else readRegister s o := by
  by_cases wide : offset ∈ wideOffsets
  · obtain ⟨low, high, -⟩ := config_of_wide offset wide
    have lower := readRegister_writeWord32 s offset o (v.extractLsb' 0 32)
    have both := readRegister_writeWord32 (s.setRegs (writeWord32 s.regs offset (v.extractLsb' 0 32))) (offset + 4) o
      (v.extractLsb' 32 32)
    rw [lower] at both
    rw [writeWord64_eq_words _ _ _ wide]
    refine both.trans ?_
    by_cases isLow : o = offset
    · subst isLow
      simp [wide, low]
    · by_cases isHigh : o = offset + 4
      · subst isHigh
        simp [wide, high]
      · simp [isLow, isHigh]
  · rw [writeWord64_of_other wide, if_neg fun ⟨h, _⟩ => wide h, if_neg fun ⟨h, _⟩ => wide h]
    rfl

theorem readRegister64_writeWord64 (s : State) (offset o : Nat) (v : BitVec 64) :
    readRegister64 (s.setRegs (writeWord64 s.regs offset v)) o =
      if offset ∈ wideOffsets ∧ o = offset then v else readRegister64 s o := by
  rw [readRegister64_eq, readRegister64_eq, readRegister_writeWord64, readRegister_writeWord64]
  by_cases ho : o ∈ wideOffsets
  · obtain ⟨-, -, high⟩ := config_of_wide o ho
    by_cases same : o = offset
    · subst same
      simp [ho, words_append]
    · have lowApart : ¬(offset ∈ wideOffsets ∧ o + 4 = offset) := fun ⟨wide, e⟩ => high (e ▸ wide)
      have highApart : ¬(offset ∈ wideOffsets ∧ o = offset + 4) := fun ⟨wide, e⟩ => by
        obtain ⟨-, -, apart⟩ := config_of_wide offset wide
        exact apart (e ▸ ho)
      simp [same, lowApart, highApart]
  · rw [if_neg ho, if_neg ho, if_neg fun ⟨wide, same⟩ => ho (same ▸ wide)]

/-! ## The commands -/

/-- The configuration registers after a write of either width (R183). -/
def configWritten (r : Registers) (offset : Nat) (width : AccessWidth) (v : BitVec 64) : Registers :=
  match width with
  | .word32 => writeWord32 r offset (v.extractLsb' 0 32)
  | .word64 => writeWord64 r offset v

theorem writeConfig_of_enabled (set : s.regs.enable = true) (offset : Nat) (width : AccessWidth) (v : BitVec 64) :
    writeConfig offset width v s = s := if_pos set

theorem writeConfig_of_clear (clear : s.regs.enable = false) (offset : Nat) (width : AccessWidth) (v : BitVec 64) :
    writeConfig offset width v s = s.setRegs (configWritten s.regs offset width v) := by
  unfold writeConfig
  rw [clear]
  cases width <;> rfl

theorem exec_registerWrite (operating : s.resetPhase = .operating) (ordered : LinkOrdered s) (offset : Nat)
    (width : AccessWidth) (v : BitVec 64) :
    exec (.registerWrite offset width v) s = .next (writeConfig offset width v s) :=
  have linked : (writeConfig offset width v s).link = s.link := by
    unfold writeConfig
    split <;> rfl
  congrArg Host.Outcome.next (registerWrite_of_link operating ordered linked)

theorem exec_adminMsgEn (operating : s.resetPhase = .operating) (ordered : LinkOrdered s) (m : Bool) :
    exec (.adminMsgEn m) s = .next (s.setRegs { s.regs with adminMsgEn := m }) :=
  congrArg Host.Outcome.next (registerWrite_of_link (f := writeDevControl false m) operating ordered rfl)

/-- DEV_CONTROL: ENABLE, RESET and ADMIN_MSG_EN in its three lowest bits (R183). -/
theorem readRegister_devControl (s : State) : (readRegister s 0x004).getLsbD 2 = s.regs.adminMsgEn ∧
    (readRegister s 0x004).getLsbD 1 = false ∧ (readRegister s 0x004).getLsbD 0 = s.regs.enable := by
  have bit : ∀ i, (readRegister s 0x004).getLsbD i =
      (decide (i < 32) && [s.regs.enable, false, s.regs.adminMsgEn].getD i false) := fun i => by
    rw [← testBit_flagBits]
    exact BitVec.getLsbD_ofNat ..
  exact ⟨bit 2, bit 1, bit 0⟩

/-- Settles O35: each word of the configuration registers is a cell of its own, and a 64-bit register is two of them. -/
theorem registerWritesReadBack : Obligations.RegisterWritesReadBack := by
  refine ⟨readRegister64_eq, fun offset width v s operating ordered => ?_, fun m s operating ordered => ?_⟩
  · rw [exec_registerWrite operating ordered]
    refine ⟨fun set => congrArg Host.Outcome.next (writeConfig_of_enabled set _ _ _), fun clear => ?_⟩
    rw [writeConfig_of_clear clear]
    refine ⟨_, rfl, rfl, ?_, ?_, ?_⟩ <;> rintro rfl o
    · exact readRegister_writeWord32 s offset o _
    · exact readRegister_writeWord64 s offset o v
    · exact readRegister64_writeWord64 s offset o v
  · exact ⟨_, exec_adminMsgEn operating ordered m, rfl, readRegister_devControl _⟩

end RegisterWindow

end Sys2Proof.Machine

/-! # A step runs the front command, and what a microsecond changes -/

namespace Sys2Proof.Machine

section IdleStep

variable {s : State}

/-! ## The two halves of a microsecond -/

/-- An upset changes one slot's image at most (R113). -/
theorem applyUpset_frame (u : Option ImageUpset) (s : State) :
    applyUpset u s = { s with cache := { s.cache with slots := (applyUpset u s).cache.slots } } := by
  cases u <;> rfl

theorem applyUpset_slot (u : Option ImageUpset) (s : State) (k : SlotId) :
    (applyUpset u s).cache.slots[k] = s.cache.slots[k] ∨
      ∃ y v, s.cache.slots[k] = some y ∧ (applyUpset u s).cache.slots[k] = some (y.upset v) := by
  cases u with
  | none => exact .inl rfl
  | some v =>
    have slot : (applyUpset (some v) s).cache.slots[k] =
        if k = v.slot then (s.cache.slots[v.slot]).map (·.upset v) else s.cache.slots[k] := getElem_set_fin ..
    by_cases hit : k = v.slot
    · subst hit
      rw [slot, if_pos rfl]
      cases held : s.cache.slots[v.slot] with
      | none => exact .inl rfl
      | some y => exact .inr ⟨y, v, rfl, rfl⟩
    · exact .inl (slot.trans (if_neg hit))

/-- A region fill that goes on touches the record store alone (R109). -/
theorem advanceRegionFill_frame (pace : Nat) (s : State) :
    advanceRegionFill pace s = s.setStore (advanceRegionFill pace s).store := by
  unfold advanceRegionFill
  split
  · rfl
  · split <;> rfl

/-- No record is written without a region-fill job, nor under a function reset (R110). -/
theorem advanceRegionFill_of_stopped (pace : Nat)
    (stopped : s.store.regionFillJob = none ∨ s.resetPhase = .functionReset) : advanceRegionFill pace s = s := by
  unfold advanceRegionFill
  split
  · rfl
  · next job => exact if_pos (stopped.resolve_left fun idle => Option.some_ne_none _ (job.symm.trans idle))

/-- The jobs other than the region fill are those that stood in the list before it went on (R104). -/
theorem mem_advanceFill_iff {st : Store} {n : Nat} {j : Job} (other : j.isRegionFill = false) :
    j ∈ (st.advanceFill n).jobs ↔ j ∈ st.jobs := by
  constructor
  · intro listed
    obtain ⟨i, hi, rfl⟩ := List.mem_map.1 listed
    cases i with
    | regionFill => cases other
    | fill | writeBack => exact hi
  · intro listed
    refine List.mem_map.2 ⟨j, listed, ?_⟩
    cases j with
    | regionFill => cases other
    | fill | writeBack => rfl

/-! ## The microsecond -/

theorem tick_slots (s : State) :
    (tick s).cache.slots = (applyUpset (Config.imageUpset s.now) s).cache.slots := by
  unfold tick
  rw [advanceRegionFill_frame]
  rfl

/-- A microsecond changes slots, record store and time alone. -/
theorem tick_frame (s : State) :
    tick s = { s with
      cache := { s.cache with slots := (tick s).cache.slots }, store := (tick s).store, now := s.now + 1 } := by
  unfold tick
  rw [advanceRegionFill_frame, applyUpset_frame]
  rfl

theorem tick_store_of_stopped (stopped : s.store.regionFillJob = none ∨ s.resetPhase = .functionReset) :
    (tick s).store = s.store := by
  have upset := applyUpset_frame (Config.imageUpset s.now) s
  have kept : advanceRegionFill (Config.fillPace s.now) (applyUpset (Config.imageUpset s.now) s) = _ :=
    advanceRegionFill_of_stopped _ (by rw [upset]; exact stopped)
  unfold tick
  rw [kept, upset]

theorem step_of_idle (idle : s.pending = []) : step s = .next (tick s) := by
  unfold step
  rw [idle]

/-- Settles O1: a command runs by definition; a microsecond is an upset, which is of one slot, and then some records of
the region fill, whose job alone moves on. -/
theorem stepRunsFront : Obligations.StepRunsFront := by
  refine ⟨fun c rest s => rfl, fun s idle => ⟨tick s, step_of_idle idle, tick_frame s, fun k => ?_,
    tick_store_of_stopped, fun first last pattern next job operating => ?_⟩⟩
  · rw [tick_slots]
    exact applyUpset_slot _ s k
  · obtain ⟨n, bound, written⟩ := tick_store_of_fill job operating
    have jobs : (fillRecords s.store pattern next n).jobs = s.store.jobs := (fillRecords_tables ..).jobs
    refine ⟨n, bound, ?_, ?_, fun j other => ?_⟩
    · rw [written, regionFillJob_advanceFill, regionFillJob_congr jobs, job]
      rfl
    · rw [written]
      rfl
    · rw [written, mem_advanceFill_iff other, jobs]

end IdleStep

end Sys2Proof.Machine
